-- ==== Sys2Proof/Word.lean ====
section
/-! DEFINITION. The words of the part: bytes on the host link, cells of the array (00_scope.md, "Fixed numbers"). -/

namespace Sys2Proof

/-- A byte of the host link. -/
abbrev Byte := BitVec 8

/-- A cell: 16 bits, the unit of every access and of every stream edge. -/
abbrev CellVal := BitVec 16

/-- A set of sections of a row: bit s stands for section s (R176, section mask). -/
abbrev SectionSet := BitVec 4

end Sys2Proof
end

