-- ==== Sys2Proof/Syntax.lean ====
section
/-! DEFINITION. The commands: one constructor per row of spec/opcode_table.json, with the row's operands. -/

namespace Sys2Proof

/-- A stream port. -/
inductive StreamId where
  | s0
  | s1
deriving DecidableEq, Repr

/-- A line register (R55). -/
inductive LrId where
  | lr0
  | lr1
  | lr2
  | lr3
  | lr4
deriving DecidableEq, Repr

/-- A session slot (R128). -/
inductive SlotId where
  | k0
  | k1
  | k2
  | k3
deriving DecidableEq, Repr

/-- Which is taken first where an event ends a request, or the request engine closes the held row, and the claim that the
next request raises (or the withdrawal it makes) comes at the same event (R43, R47, R163; log entry 5): the close or the
completion with its grant decision, or the raising, which the decision then waits for. -/
inductive TieOrder where
  | closeFirst
  | raiseFirst
deriving DecidableEq, Repr

/-- The moment of a command that can complete a request or begin one: the time in ns since the command before it, and
what is taken first at it. -/
structure Moment where
  dt : Nat
  tie : TieOrder
deriving DecidableEq, Repr

/-- The steps of the part. `dt` is the time in ns since the step before it (log entry 2). A request's step is the
request engine's beginning of the head request (log entry 4): its operands are the head's payload. `bits` are the levels
of HDI at the rising edges of HCK of the transaction that ends (R147). -/
inductive Instr where
  | powerOn (dt : Nat)
  | hrstAssert (dt : Nat)
  | hrstDeassert (dt : Nat)
  | warmupEnd (dt : Nat)
  | loadCompletion (m : Moment)
  | commitCompletion (m : Moment)
  | copyLoadCompletion (dt : Nat)
  | copyCommitCompletion (m : Moment)
  | fillCompletion (m : Moment)
  | refreshCompletion (m : Moment)
  | scrubCompletion (dt : Nat)
  | openCompletion (dt : Nat) (tie : TieOrder)
  | columnBurstEnd (dt : Nat) (tie : TieOrder)
  | routineThreshold (dt : Nat)
  | urgentCrossing (dt : Nat) (row : Nat)
  | deadline (dt : Nat) (row : Nat)
  | hcsFall (dt : Nat)
  | transactionEnd (dt : Nat) (bits : List Bool)
  | identify (m : Moment)
  | status (m : Moment)
  | configure (m : Moment)
  | openRow (m : Moment)
  | close (m : Moment)
  | read (dt : Nat) (tie : TieOrder)
  | write (dt : Nat) (tie : TieOrder)
  | exchange (dt : Nat) (tie : TieOrder)
  | fillRows (m : Moment)
  | copyRow (m : Moment)
  | refresh (m : Moment)
  | rowQuery (m : Moment)
  | streamSetup (m : Moment)
  | streamAppend (m : Moment)
  | streamStart (m : Moment)
  | streamStop (m : Moment)
  | streamFlush (m : Moment)
  | streamQuery (m : Moment)
  | playbackEdge (dt : Nat) (stream : StreamId)
  | captureEdge (dt : Nat) (stream : StreamId) (cell : CellVal)
  | playbackHoldExpiry (dt : Nat) (register : LrId)
  | captureHoldExpiry (dt : Nat) (register : LrId)
  | lr4HoldExpiry (dt : Nat)
  | idleExpiry (dt : Nat) (slot : SlotId)
  | powerLoss (dt : Nat)
deriving DecidableEq, Repr

end Sys2Proof
end

