-- ==== Sys2Proof/Config.lean ====
section
/-! DEFINITION. The fixed numbers of 00_scope.md (durations in ns) and the model's one free value. -/

namespace Sys2Proof.Config

/-- Rows of the array. -/
abbrev rows : Nat := 512
/-- Cells of a row. -/
abbrev columns : Nat := 256
/-- Cells of a section. -/
abbrev sectionCells : Nat := 64
/-- Row operation time, tROW (R39). -/
abbrev tRow : Nat := 250
/-- Column access time per cell, tCOL (R39). -/
abbrev tCol : Nat := 40
/-- Warm-up, 8 row cycles (R15). -/
abbrev warmup : Nat := 2000
/-- Routine threshold (R21). -/
abbrev routineAge : Nat := 4000000
/-- Urgent threshold (R21). -/
abbrev urgentAge : Nat := 7000000
/-- Retention deadline (R21). -/
abbrev deadlineAge : Nat := 8000000
/-- Line register hold limit (R62). -/
abbrev holdLimit : Nat := 50000
/-- Session open limit (R136). -/
abbrev openLimit : Nat := 10000
/-- Session idle limit (R139). -/
abbrev idleLimit : Nat := 2000000
/-- Outstanding requests at most (R151). -/
abbrev maxOutstanding : Nat := 8
/-- Notices in the outbound queue besides the loss marker (R182). -/
abbrev maxNotices : Nat := 15
/-- Segment total of a stream (R80). -/
abbrev maxSegments : Nat := 32

/-- FREE VALUE (log entry 10): the content of a cell whose row has not been scrubbed since power-on or HRST
(R1: "not defined"). The first argument names the power-up or HRST, the second is the cell's address. -/
opaque undefinedCell : Nat → Nat → CellVal

end Sys2Proof.Config
end

