-- ==== Sys2Proof/Machine/State.lean ====
section
/-! DEFINITION. The state of the part, block by block (00_scope.md, "Block overview"), and its value after reset. -/

namespace Sys2Proof.Machine

/-! ## Row array and row table -/

/-- Array state (R15, R18). -/
inductive ArrayState where
  | init
  | ready
deriving DecidableEq, Repr

/-- A row table entry (R10). `crossed` is the model's own: the row's urgent crossing has been taken since its last
completion (R26, "at most once between two completions"). -/
structure RowEntry where
  lost : Bool
  scrubPending : Bool
  completedAt : Nat
  crossed : Bool
deriving DecidableEq, Repr

/-- The cells of the array (R1): the cells that do not read as an unlisted cell, by address row × 256 + column, and
the rows whose cells are undefined. `epoch` names the power-up or HRST that left them so (log entries 10, 11). -/
structure Memory where
  cells : List (Nat × CellVal)
  undefinedRows : List Nat
  epoch : Nat
deriving DecidableEq, Repr

/-- RAT: array state, cells, row table, loss fill value (R10, R14, R15). -/
structure RowArray where
  state : ArrayState
  memory : Memory
  table : List RowEntry
  lossFill : CellVal
deriving DecidableEq, Repr

/-! ## Refresh engine -/

/-- Refresh mode (R22). -/
inductive RefreshMode where
  | auto
  | hosted
deriving DecidableEq, Repr

/-- RFE: mode, order list (oldest row first) and scrub list (R20, R22, R31). Its ROUTINE and URGENT claims are the
arbiter's claims of those classes. -/
structure RefreshEngine where
  mode : RefreshMode
  order : List Nat
  scrubList : List Nat
deriving DecidableEq, Repr

/-! ## Array arbiter -/

/-- Claim kinds (R40). A FILL carries its value and section mask (R140), a COPY_COMMIT its range (R6). -/
inductive ClaimKind where
  | load
  | commit
  | refresh
  | scrub
  | openRow
  | fill (value : CellVal) (mask : SectionSet)
  | copyLoad
  | copyCommit (sections : SectionSet)
deriving DecidableEq, Repr

/-- Claim classes, highest first (R40). -/
inductive ClaimClass where
  | urgent
  | stream
  | scrub
  | host
  | routine
deriving DecidableEq, Repr

/-- Claimants (R40). -/
inductive Claimant where
  | register (r : LrId)
  | refreshEngine
  | requestEngine
  | rowTable
deriving DecidableEq, Repr

/-- A claim (R40). -/
structure Claim where
  kind : ClaimKind
  row : Nat
  claimant : Claimant
  cls : ClaimClass
deriving DecidableEq, Repr

/-- The row operation in flight: its claim, its grant, and what the grant fixed (R46): the sections it writes, a
SCRUB's or FILL's value, a COPY_COMMIT's source-lost state. `discarded` marks an operation of the request engine
whose request a RESET has abandoned (R52, R173). -/
structure Operation where
  claim : Claim
  grantedAt : Nat
  sections : SectionSet
  value : CellVal
  sourceLost : Bool
  discarded : Bool
deriving DecidableEq, Repr

/-- What a column burst does (R133, R134). -/
inductive BurstAction where
  | read
  | write (mask : Option CellVal)
  | exchange
deriving DecidableEq, Repr

/-- A column request that passed its checks, and the burst it makes: columns `first` on, `count` cells, new values
`data` (empty for READ). -/
structure ColumnJob where
  action : BurstAction
  first : Nat
  count : Nat
  data : List CellVal
deriving DecidableEq, Repr

/-- State of the row circuit (R38). WARMUP without a start is the asserted HRST's. A burst without a session is one
whose request a RESET has abandoned (R145). -/
inductive Circuit where
  | warmup (startedAt : Option Nat)
  | free
  | operating (op : Operation)
  | held (slot : SlotId) (row : Nat)
  | bursting (slot : Option SlotId) (row : Nat) (job : ColumnJob) (startedAt : Nat)
deriving DecidableEq, Repr

/-- ARB (R38, R40, R45): the circuit, the pending claims in the order of raising, the preferred stream. -/
structure Arbiter where
  circuit : Circuit
  claims : List Claim
  preferred : StreamId
deriving DecidableEq, Repr

/-! ## Line register bank -/

/-- Line register states (R57). -/
inductive LrState where
  | empty
  | loading
  | loaded
  | active
  | full
  | committing
  | stale
deriving DecidableEq, Repr

/-- A segment record (R79). -/
structure Segment where
  row : Nat
  first : Nat
  count : Nat
  repeats : Nat
  mark : Option Byte
deriving DecidableEq, Repr

/-- What LR4 carries (R56): source, destination, first section, section count. -/
structure CopyJob where
  source : Nat
  dest : Nat
  first : Nat
  count : Nat
deriving DecidableEq, Repr

/-- The operation a register is to discard (R56, R71). -/
inductive DiscardKind where
  | load
  | commit
  | copyLoad
  | copyCommit
deriving DecidableEq, Repr

/-- A line register (R56). The model's own: `takeSeq` numbers the stream's takes (R45, R78, R125), `reloading`
tells a reload from a first load (R59), `begun` says an edge has been counted against the segment (R103). -/
structure LineReg where
  state : LrState
  content : List CellVal
  segment : Option Segment
  copy : Option CopyJob
  position : Nat
  passesLeft : Nat
  filled : SectionSet
  holdTimer : Option Nat
  sourceLost : Bool
  discardPending : Option DiscardKind
  takeSeq : Nat
  reloading : Bool
  begun : Bool
deriving DecidableEq, Repr

/-- LRB: the five registers (R55). -/
structure LineRegs where
  lr0 : LineReg
  lr1 : LineReg
  lr2 : LineReg
  lr3 : LineReg
  lr4 : LineReg
deriving DecidableEq, Repr

/-! ## Stream engines -/

/-- Stream direction (R78). -/
inductive Direction where
  | none
  | playback
  | capture
deriving DecidableEq, Repr

/-- Stream states (R78, R81, R111). -/
inductive StreamState where
  | disabled
  | idle
  | priming
  | ready
  | running
  | starved
  | overrun
  | drained
  | stopping
deriving DecidableEq, Repr

/-- Underrun policy (R78). -/
inductive Policy where
  | hold
  | align
deriving DecidableEq, Repr

/-- Kind of a STREAM_STOP (R102). -/
inductive StopKind where
  | now
  | afterSegment
deriving DecidableEq, Repr

/-- The eight stream counters (R107, R126). -/
structure Counters where
  cellsMoved : BitVec 32
  fillCells : BitVec 32
  starvedCells : BitVec 32
  underruns : BitVec 32
  completed : BitVec 32
  dropped : BitVec 32
  reloads : BitVec 32
  discarded : BitVec 32
deriving DecidableEq, Repr

/-- A segment taken from the queue, with the number of its take. -/
structure Taken where
  seq : Nat
  segment : Segment
deriving DecidableEq, Repr

/-- A stream record (R78, R110) and the port's output lines (R81, R91): `sd` is the driven value of SDn, `none` while
the part does not drive it. `taken` is the model's own: the number of takes so far. -/
structure StreamRec where
  direction : Direction
  state : StreamState
  policy : Policy
  fill : CellVal
  cyclic : Bool
  queue : List Segment
  stopRequest : Option StopKind
  starvedRun : BitVec 32
  lossReportedEven : Bool
  lossReportedOdd : Bool
  counters : Counters
  overrunSegment : Option Taken
  overrunCount : Nat
  waiting : List Taken
  taken : Nat
  sd : Option CellVal
  smk : Bool
deriving DecidableEq, Repr

/-- STE0 and STE1. -/
structure Streams where
  st0 : StreamRec
  st1 : StreamRec
deriving DecidableEq, Repr

/-! ## Session table -/

/-- State of a session in use (R128). -/
inductive SessionState where
  | opened
  | parked
deriving DecidableEq, Repr

/-- A session slot (R128). -/
structure Session where
  inUse : Bool
  generation : BitVec 8
  row : Nat
  state : SessionState
  holdStart : Nat
  idleTimer : Option Nat
deriving DecidableEq, Repr

/-- SST: four slots (R128). -/
structure Sessions where
  k0 : Session
  k1 : Session
  k2 : Session
  k3 : Session
deriving DecidableEq, Repr

/-! ## Request engine -/

/-- Request kinds (R176). -/
inductive RequestKind where
  | identify
  | status
  | configure
  | reset
  | openRow
  | close
  | read
  | write
  | exchange
  | fillRows
  | copyRow
  | refresh
  | rowQuery
  | streamSetup
  | streamAppend
  | streamStart
  | streamStop
  | streamFlush
  | streamQuery
deriving DecidableEq, Repr

/-- An entry of the request queue (R161). -/
structure Request where
  tag : Byte
  kind : RequestKind
  payload : List Byte
deriving DecidableEq, Repr

/-- What the request in execution waits for (R163). `free`: none has been begun. -/
inductive Phase where
  | free
  | opening (slot : SlotId)
  | reopening (slot : SlotId) (job : ColumnJob)
  | bursting
  | filling (first last current : Nat) (value : CellVal) (mask : SectionSet)
  | refreshing (first last current : Nat)
  | copyWaiting (job : CopyJob)
  | copying
  | stopping (stream : StreamId)
deriving DecidableEq, Repr

/-- RQE: request queue, outstanding tags, execution state (R161, R162, R163). -/
structure RequestEngine where
  queue : List Request
  tags : List Byte
  phase : Phase
deriving DecidableEq, Repr

/-! ## Host link and notices -/

/-- Admission results (R151). -/
inductive AdmResult where
  | none
  | accepted
  | badLength
  | badCheck
  | badTag
  | badKind
  | dupTag
  | full
deriving DecidableEq, Repr

/-- Reply statuses (R167). -/
inductive Status where
  | ok
  | badPayload
  | range
  | state
  | notReady
  | noSession
  | noSlot
  | queueFull
  | stale
deriving DecidableEq, Repr

/-- Outcome of an underrun (R95, R97). -/
inductive UnderrunOutcome where
  | resumed
  | dropped
deriving DecidableEq, Repr

/-- Reason of an abandonment (R176). -/
inductive AbandonReason where
  | overrun
  | stale
  | stop
deriving DecidableEq, Repr

/-- Notices and their data (R180). NOTICES_LOST is the loss marker, a frame of its own. -/
inductive Notice where
  | initDone
  | rowLost (row : Nat)
  | rowAging (row : Nat)
  | segmentMark (stream : StreamId) (mark : Byte) (row : Nat)
  | segmentLost (stream : StreamId) (row : Nat)
  | streamUnderrun (stream : StreamId) (row : Nat) (cells : BitVec 32) (outcome : UnderrunOutcome)
  | segmentAbandoned (stream : StreamId) (row : Nat) (reason : AbandonReason) (cells : Nat)
  | streamDrained (stream : StreamId)
  | streamStopped (stream : StreamId) (kind : StopKind)
  | sessionExpired (slot : SlotId) (generation : BitVec 8)
deriving DecidableEq, Repr

/-- Entries of the outbound queue (R156). A loss marker holds its count and the discards added since the HCS fall
that last fixed its bytes (R183). -/
inductive Frame where
  | reply (tag : Byte) (status : Status) (flags : Byte) (data : List Byte)
  | notice (n : Notice)
  | lossMarker (count : BitVec 16) (added : BitVec 16)
deriving DecidableEq, Repr

/-- A transaction in progress (R148): whether its frame is the head of the outbound queue (else an IDLE frame), and
the frame's bytes as fixed at the fall of HCS. -/
structure Transaction where
  queued : Bool
  frame : List Byte
deriving DecidableEq, Repr

/-- HLC: the level of HCS, the transaction, the admission report, the outbound queue, ATTN. `lastSent` is the
model's own: the levels of HDO at the rising edges of HCK in the last transaction (R147, R148). -/
structure HostLink where
  hcsHigh : Bool
  txn : Option Transaction
  admTag : Byte
  admResult : AdmResult
  outq : List Frame
  attn : Bool
  lastSent : List Bool
deriving DecidableEq, Repr

/-- NTU: notice mask and lost-notice total (R181, R184). The loss marker stands in the outbound queue. -/
structure NoticeUnit where
  mask : BitVec 10
  lostTotal : BitVec 16
deriving DecidableEq, Repr

/-! ## The part -/

/-- The whole part: the commands waiting, the moment (ns), the supply, HRST, and the nine blocks. -/
structure State where
  pending : List Instr
  clock : Nat
  powered : Bool
  hrst : Bool
  rat : RowArray
  rfe : RefreshEngine
  arb : Arbiter
  lrb : LineRegs
  ste : Streams
  sst : Sessions
  rqe : RequestEngine
  hlc : HostLink
  ntu : NoticeUnit
deriving DecidableEq, Repr

/-- Reasons a step faults. Every one is safe: the command names nothing the part has, and the model stops. -/
inductive Fault where
  /-- URGENT_CROSSING and DEADLINE raise it on a row above 511 (R10). Safe: no such event exists. -/
  | noSuchRow
  /-- PLAYBACK_HOLD_EXPIRY and CAPTURE_HOLD_EXPIRY raise it on LR4 (R55). Safe: LR4 has its own command. -/
  | notAStreamRegister
deriving DecidableEq, Repr

/-- Reasons a step is refused. -/
inductive Refusal where
  /-- An arm of exec without a meaning raises it. Safe: the model stops. No arm does. -/
  | notModelled (mnemonic : String)
deriving DecidableEq, Repr

/-! ## Values after reset -/

/-- A row table entry at the start of INIT (R15). -/
def RowEntry.atInit (clock : Nat) : RowEntry :=
  { lost := true, scrubPending := true, completedAt := clock, crossed := false }

/-- The cells with every row undefined (R1, R15, R16). -/
def Memory.allUndefined (epoch : Nat) : Memory :=
  { cells := [], undefinedRows := List.range Config.rows, epoch := epoch }

/-- RAT at the start of INIT (R15). -/
def RowArray.atInit (clock epoch : Nat) : RowArray :=
  { state := .init
    memory := Memory.allUndefined epoch
    table := List.replicate Config.rows (RowEntry.atInit clock)
    lossFill := 0 }

/-- RFE at power-on and HRST (R36). -/
def RefreshEngine.atInit : RefreshEngine :=
  { mode := .auto, order := List.range Config.rows, scrubList := List.range Config.rows }

/-- ARB at power-on and HRST (R53); `start` is the start of the warm-up, none while HRST stays asserted (R38). -/
def Arbiter.atInit (start : Option Nat) : Arbiter :=
  { circuit := .warmup start, claims := [], preferred := .s0 }

/-- A line register at power-on and HRST (R75). The content is "not defined": zero is log entry 9's choice. -/
def LineReg.atInit : LineReg :=
  { state := .empty
    content := List.replicate Config.columns 0
    segment := none
    copy := none
    position := 0
    passesLeft := 0
    filled := 0
    holdTimer := none
    sourceLost := false
    discardPending := none
    takeSeq := 0
    reloading := false
    begun := false }

/-- LRB at power-on and HRST (R75). -/
def LineRegs.atInit : LineRegs :=
  { lr0 := .atInit, lr1 := .atInit, lr2 := .atInit, lr3 := .atInit, lr4 := .atInit }

/-- All counters 0 (R107). -/
def Counters.zero : Counters :=
  { cellsMoved := 0, fillCells := 0, starvedCells := 0, underruns := 0, completed := 0, dropped := 0, reloads := 0,
    discarded := 0 }

/-- A stream record at power-on, HRST and RESET (R108, R109, R127). -/
def StreamRec.atInit : StreamRec :=
  { direction := .none
    state := .disabled
    policy := .hold
    fill := 0
    cyclic := false
    queue := []
    stopRequest := none
    starvedRun := 0
    lossReportedEven := false
    lossReportedOdd := false
    counters := .zero
    overrunSegment := none
    overrunCount := 0
    waiting := []
    taken := 0
    sd := none
    smk := false }

/-- Both stream engines at power-on, HRST and RESET. -/
def Streams.atInit : Streams :=
  { st0 := .atInit, st1 := .atInit }

/-- A session slot at power-on and HRST (R144). Row, state and hold start are meaningless here: log entry 9. -/
def Session.atInit : Session :=
  { inUse := false, generation := 0, row := 0, state := .parked, holdStart := 0, idleTimer := none }

/-- SST at power-on and HRST (R144). -/
def Sessions.atInit : Sessions :=
  { k0 := .atInit, k1 := .atInit, k2 := .atInit, k3 := .atInit }

/-- RQE at power-on and HRST (R175). -/
def RequestEngine.atInit : RequestEngine :=
  { queue := [], tags := [], phase := .free }

/-- HLC at power-on and HRST (R159); the level of HCS is the host's. -/
def HostLink.atInit (hcsHigh : Bool) : HostLink :=
  { hcsHigh := hcsHigh, txn := none, admTag := 0, admResult := .none, outq := [], attn := false, lastSent := [] }

/-- NTU at power-on, HRST and RESET (R185, R186): mask 0x03FF. -/
def NoticeUnit.atInit : NoticeUnit :=
  { mask := 0x3FF, lostTotal := 0 }

/-- The part right after the deassertion of HRST (log entry 8): INIT begins, the warm-up runs from moment 0. -/
def State.reset : State :=
  { pending := []
    clock := 0
    powered := true
    hrst := false
    rat := .atInit 0 0
    rfe := .atInit
    arb := .atInit (some 0)
    lrb := .atInit
    ste := .atInit
    sst := .atInit
    rqe := .atInit
    hlc := .atInit true
    ntu := .atInit }

end Sys2Proof.Machine
end

