-- ==== Sys2Proof/Machine/Flags.lean ====
section
/-! DEFINITION. Flags and codes: section sets, the LOST flag, reply flags, the notice mask, saturating counts, and the
code tables of R176. -/

namespace Sys2Proof.Machine

/-! ## Sections and the LOST flag -/

/-- All four sections. -/
def allSections : SectionSet := 0xF

/-- The sections from `first` for `count` (R79). -/
def rangeSections (first count : Nat) : SectionSet :=
  BitVec.ofNat 4 ((2 ^ count - 1) * 2 ^ first)

/-- Column `c` lies in one of the sections (section s is columns 64s to 64s+63). -/
def coversColumn (sections : SectionSet) (c : Nat) : Bool :=
  sections.getLsbD (c / Config.sectionCells)

/-- How many sections the set holds. -/
def sectionCount (sections : SectionSet) : Nat :=
  ((List.range 4).filter sections.getLsbD).length

/-- LOST after a FILL or COMMIT that wrote `sections` (R12). -/
def lostAfterWrite (sections : SectionSet) (lost : Bool) : Bool :=
  if sections = allSections then false else lost

/-- LOST of the destination after a COPY_COMMIT that wrote `sections` from a row LOST or not at its load (R12). -/
def lostAfterCopy (sections : SectionSet) (sourceLost lost : Bool) : Bool :=
  if sourceLost then true else lostAfterWrite sections lost

/-! ## Reply flags and counts -/

/-- The flags byte of a reply: bit 0 LOST_DATA, bit 1 SOURCE_LOST (R168, R176). -/
def replyFlags (lostData sourceLost : Bool) : Byte :=
  (if lostData then 1 else 0) ||| (if sourceLost then 2 else 0)

/-- Add a count to a saturating counter (R107, R182). -/
def satAdd {w : Nat} (c : BitVec w) (n : Nat) : BitVec w :=
  if c.toNat + n < 2 ^ w then BitVec.ofNat w (c.toNat + n) else BitVec.allOnes w

/-! ## Codes of R176 -/

def RequestKind.code : RequestKind → Byte
  | .identify => 0x01
  | .status => 0x02
  | .configure => 0x03
  | .reset => 0x04
  | .openRow => 0x10
  | .close => 0x11
  | .read => 0x12
  | .write => 0x13
  | .exchange => 0x14
  | .fillRows => 0x20
  | .copyRow => 0x21
  | .refresh => 0x22
  | .rowQuery => 0x23
  | .streamSetup => 0x30
  | .streamAppend => 0x31
  | .streamStart => 0x32
  | .streamStop => 0x33
  | .streamFlush => 0x34
  | .streamQuery => 0x35

/-- Every request kind. -/
def RequestKind.all : List RequestKind :=
  [.identify, .status, .configure, .reset, .openRow, .close, .read, .write, .exchange, .fillRows, .copyRow, .refresh,
    .rowQuery, .streamSetup, .streamAppend, .streamStart, .streamStop, .streamFlush, .streamQuery]

/-- The request kind a KIND byte names, if any (R151, BAD_KIND). -/
def RequestKind.ofCode (b : Byte) : Option RequestKind :=
  RequestKind.all.find? fun k => k.code == b

def AdmResult.code : AdmResult → Byte
  | .none => 0x00
  | .accepted => 0x01
  | .badLength => 0x02
  | .badCheck => 0x03
  | .badTag => 0x04
  | .badKind => 0x05
  | .dupTag => 0x06
  | .full => 0x07

def Status.code : Status → Byte
  | .ok => 0x00
  | .badPayload => 0x01
  | .range => 0x02
  | .state => 0x03
  | .notReady => 0x04
  | .noSession => 0x05
  | .noSlot => 0x06
  | .queueFull => 0x07
  | .stale => 0x08

/-- Notice kind codes (R176). -/
def Notice.code : Notice → Byte
  | .initDone => 0x01
  | .rowLost _ => 0x02
  | .rowAging _ => 0x03
  | .segmentMark .. => 0x04
  | .segmentLost .. => 0x05
  | .streamUnderrun .. => 0x06
  | .segmentAbandoned .. => 0x07
  | .streamDrained _ => 0x08
  | .streamStopped .. => 0x09
  | .sessionExpired .. => 0x0A

/-- The code of NOTICES_LOST (R176). -/
def noticesLostCode : Byte := 0x0B

/-- The notice's kind is enabled: bit k − 1 of the mask enables the kind with code k (R176, R181). -/
def Notice.enabled (mask : BitVec 10) (n : Notice) : Bool :=
  mask.getLsbD (n.code.toNat - 1)

def ArrayState.code : ArrayState → Byte
  | .init => 0x00
  | .ready => 0x01

def RefreshMode.code : RefreshMode → Byte
  | .auto => 0x00
  | .hosted => 0x01

def RefreshMode.ofCode (b : Byte) : Option RefreshMode :=
  if b = 0x00 then some .auto else if b = 0x01 then some .hosted else none

def StreamState.code : StreamState → Byte
  | .disabled => 0x00
  | .idle => 0x01
  | .priming => 0x02
  | .ready => 0x03
  | .running => 0x04
  | .starved => 0x05
  | .overrun => 0x06
  | .drained => 0x07
  | .stopping => 0x08

def Direction.code : Direction → Byte
  | .none => 0x00
  | .playback => 0x01
  | .capture => 0x02

def Direction.ofCode (b : Byte) : Option Direction :=
  if b = 0x00 then some .none else if b = 0x01 then some .playback else if b = 0x02 then some .capture else Option.none

def Policy.code : Policy → Byte
  | .hold => 0x00
  | .align => 0x01

def Policy.ofCode (b : Byte) : Option Policy :=
  if b = 0x00 then some .hold else if b = 0x01 then some .align else none

/-- Cyclic setting (R176). -/
def cyclicOfCode (b : Byte) : Option Bool :=
  if b = 0x00 then some false else if b = 0x01 then some true else none

def StopKind.code : StopKind → Byte
  | .now => 0x00
  | .afterSegment => 0x01

def StopKind.ofCode (b : Byte) : Option StopKind :=
  if b = 0x00 then some .now else if b = 0x01 then some .afterSegment else none

/-- Stop request as STREAM_QUERY reports it: none is 0xFF (R176). -/
def stopRequestCode : Option StopKind → Byte
  | none => 0xFF
  | some k => k.code

def UnderrunOutcome.code : UnderrunOutcome → Byte
  | .resumed => 0x00
  | .dropped => 0x01

def AbandonReason.code : AbandonReason → Byte
  | .overrun => 0x00
  | .stale => 0x01
  | .stop => 0x02

def streamCode : StreamId → Byte
  | .s0 => 0x00
  | .s1 => 0x01

/-- The stream a stream byte names; any other is RANGE (section 5.3). -/
def streamOfCode (b : Byte) : Option StreamId :=
  if b = 0x00 then some .s0 else if b = 0x01 then some .s1 else none

def slotCode : SlotId → Byte
  | .k0 => 0x00
  | .k1 => 0x01
  | .k2 => 0x02
  | .k3 => 0x03

/-- The slot a handle's first byte names; one outside 0 to 3 names no session (R129). -/
def slotOfCode (b : Byte) : Option SlotId :=
  if b = 0x00 then some .k0 else if b = 0x01 then some .k1 else if b = 0x02 then some .k2
  else if b = 0x03 then some .k3 else none

/-- A condition as a byte: set 0x01, clear 0x00. -/
def boolByte (b : Bool) : Byte :=
  if b then 0x01 else 0x00

end Sys2Proof.Machine
end

