-- ==== Sys2Proof/Machine/Operands.lean ====
section
/-! DEFINITION. Byte layouts: fields most significant byte first (section 9.7), the check value (R150), request
payloads (R177), outbound frames (R154, R178, R179). -/

namespace Sys2Proof.Machine

/-! ## Bytes and fields -/

/-- A two-byte field as sent. -/
def cellBytes (v : CellVal) : List Byte :=
  [v.extractLsb' 8 8, v.extractLsb' 0 8]

/-- A number as a two-byte field. -/
def natBytes2 (n : Nat) : List Byte :=
  cellBytes (BitVec.ofNat 16 n)

/-- A four-byte field as sent. -/
def wordBytes (v : BitVec 32) : List Byte :=
  [v.extractLsb' 24 8, v.extractLsb' 16 8, v.extractLsb' 8 8, v.extractLsb' 0 8]

/-- A number as a one-byte field. -/
def natByte (n : Nat) : Byte :=
  BitVec.ofNat 8 n

/-- The cell whose bytes were received high first. -/
def cellOf (hi lo : Byte) : CellVal :=
  (hi ++ lo : BitVec (8 + 8))

/-- The number whose bytes were received high first. -/
def natOf (hi lo : Byte) : Nat :=
  (cellOf hi lo).toNat

/-- Exactly `n` cells, two bytes each. -/
def cellsOf : Nat → List Byte → Option (List CellVal)
  | 0, [] => some []
  | n + 1, hi :: lo :: rest => (cellsOf n rest).map (cellOf hi lo :: ·)
  | _, _ => none

/-! ## The check value (R150) -/

/-- One bit through the check register. -/
def crcBit (reg : BitVec 16) (bit : Bool) : BitVec 16 :=
  if (bit ^^ reg.getLsbD 15) then (reg <<< 1) ^^^ 0x1021 else reg <<< 1

/-- One byte, from its most significant bit. -/
def crcByte (reg : BitVec 16) (b : Byte) : BitVec 16 :=
  [7, 6, 5, 4, 3, 2, 1, 0].foldl (fun r i => crcBit r (b.getLsbD i)) reg

/-- The check value of a run of bytes: the register starts at 0xFFFF, no final inversion. -/
def crc (bytes : List Byte) : BitVec 16 :=
  bytes.foldl crcByte 0xFFFF

/-! ## Request payloads (R177). `none` is BAD_PAYLOAD (R166). -/

/-- The fields of a CONFIGURE that its presence byte marks present, as sent. -/
structure ConfigureFields where
  mode : Option Byte
  lossFill : Option CellVal
  mask : Option CellVal
deriving DecidableEq, Repr

def parseConfigure : List Byte → Option ConfigureFields
  | [0x00#8] => some ⟨none, none, none⟩
  | [0x01#8, m] => some ⟨some m, none, none⟩
  | [0x02#8, a, b] => some ⟨none, some (cellOf a b), none⟩
  | [0x03#8, m, a, b] => some ⟨some m, some (cellOf a b), none⟩
  | [0x04#8, c, d] => some ⟨none, none, some (cellOf c d)⟩
  | [0x05#8, m, c, d] => some ⟨some m, none, some (cellOf c d)⟩
  | [0x06#8, a, b, c, d] => some ⟨none, some (cellOf a b), some (cellOf c d)⟩
  | [0x07#8, m, a, b, c, d] => some ⟨some m, some (cellOf a b), some (cellOf c d)⟩
  | _ => none

/-- OPEN: a row. -/
def parseOpen : List Byte → Option Nat
  | [a, b] => some (natOf a b)
  | _ => none

/-- CLOSE: a handle. -/
def parseHandle : List Byte → Option (Byte × Byte)
  | [k, g] => some (k, g)
  | _ => none

/-- A column request's handle and job, as sent. -/
structure ColumnFields where
  slot : Byte
  generation : Byte
  job : ColumnJob
deriving DecidableEq, Repr

def parseRead : List Byte → Option ColumnFields
  | [k, g, f, n] => some ⟨k, g, ⟨.read, f.toNat, n.toNat, []⟩⟩
  | _ => none

/-- WRITE: options bit 0 marks the mask present; another bit set is BAD_PAYLOAD. -/
def parseWrite : List Byte → Option ColumnFields
  | k :: g :: f :: n :: o :: rest =>
    if o = 0x00 then
      (cellsOf n.toNat rest).map fun cs => ⟨k, g, ⟨.write none, f.toNat, n.toNat, cs⟩⟩
    else if o = 0x01 then
      match rest with
      | a :: b :: rest' =>
        (cellsOf n.toNat rest').map fun cs => ⟨k, g, ⟨.write (some (cellOf a b)), f.toNat, n.toNat, cs⟩⟩
      | _ => none
    else none
  | _ => none

def parseExchange : List Byte → Option ColumnFields
  | k :: g :: f :: n :: rest =>
    (cellsOf n.toNat rest).map fun cs => ⟨k, g, ⟨.exchange, f.toNat, n.toNat, cs⟩⟩
  | _ => none

/-- The fields of a request, if it is a well-formed column request (R135: a malformed one is on no session). -/
def Request.columnFields (r : Request) : Option ColumnFields :=
  match r.kind with
  | .read => parseRead r.payload
  | .write => parseWrite r.payload
  | .exchange => parseExchange r.payload
  | _ => none

/-- FILL_ROWS: first, last, value, section mask byte. -/
def parseFill : List Byte → Option (Nat × Nat × CellVal × Byte)
  | [a, b, c, d, v, w, m] => some (natOf a b, natOf c d, cellOf v w, m)
  | _ => none

/-- COPY_ROW: source, destination, first section, count. -/
def parseCopy : List Byte → Option CopyJob
  | [a, b, c, d, f, n] => some ⟨natOf a b, natOf c d, f.toNat, n.toNat⟩
  | _ => none

/-- REFRESH: first, last. -/
def parseRefresh : List Byte → Option (Nat × Nat)
  | [a, b, c, d] => some (natOf a b, natOf c d)
  | _ => none

/-- ROW_QUERY: first, count. -/
def parseRowQuery : List Byte → Option (Nat × Nat)
  | [a, b, n] => some (natOf a b, n.toNat)
  | _ => none

/-- STREAM_SETUP: stream, direction, policy, fill value, cyclic, as sent. -/
structure SetupFields where
  stream : Byte
  direction : Byte
  policy : Byte
  fill : CellVal
  cyclic : Byte
deriving DecidableEq, Repr

def parseSetup : List Byte → Option SetupFields
  | [n, d, p, a, b, c] => some ⟨n, d, p, cellOf a b, c⟩
  | _ => none

/-- `n` segment records filling the bytes exactly; bit 15 of the row field marks the mark present (R176). -/
def parseSegments : Nat → List Byte → Option (List Segment)
  | 0, [] => some []
  | n + 1, a :: b :: f :: c :: r :: rest =>
    if a.getLsbD 7 then
      match rest with
      | m :: rest' =>
        (parseSegments n rest').map (⟨natOf (a &&& 0x7F) b, f.toNat, c.toNat, r.toNat, some m⟩ :: ·)
      | [] => none
    else (parseSegments n rest).map (⟨natOf a b, f.toNat, c.toNat, r.toNat, none⟩ :: ·)
  | _, _ => none

/-- STREAM_APPEND: stream, record count 1 to 8, records. -/
def parseAppend : List Byte → Option (Byte × List Segment)
  | s :: n :: rest =>
    if 1 ≤ n.toNat ∧ n.toNat ≤ 8 then (parseSegments n.toNat rest).map (s, ·) else none
  | _ => none

/-- STREAM_START, STREAM_FLUSH, STREAM_QUERY: stream. -/
def parseStream : List Byte → Option Byte
  | [s] => some s
  | _ => none

/-- STREAM_STOP: stream, stop kind. -/
def parseStop : List Byte → Option (Byte × Byte)
  | [s, k] => some (s, k)
  | _ => none

/-! ## Outbound frames (R154, R178, R179) -/

/-- SYNC (R150). -/
def syncByte : Byte := 0xC3

/-- The body of a notice: its kind, then its data (R179). -/
def Notice.body (n : Notice) : List Byte :=
  n.code ::
    match n with
    | .initDone => []
    | .rowLost r => natBytes2 r
    | .rowAging r => natBytes2 r
    | .segmentMark s m r => streamCode s :: m :: natBytes2 r
    | .segmentLost s r => streamCode s :: natBytes2 r
    | .streamUnderrun s r cells o => streamCode s :: natBytes2 r ++ wordBytes cells ++ [o.code]
    | .segmentAbandoned s r why cells => streamCode s :: natBytes2 r ++ why.code :: wordBytes (satAdd 0 cells)
    | .streamDrained s => [streamCode s]
    | .streamStopped s k => [streamCode s, k.code]
    | .sessionExpired k g => [slotCode k, g]

/-- TYPE of a queued frame (R176). -/
def Frame.typeCode : Frame → Byte
  | .reply .. => 0x01
  | .notice _ => 0x02
  | .lossMarker .. => 0x02

/-- The body of a queued frame (R154); a loss marker carries its count (R183). -/
def Frame.body : Frame → List Byte
  | .reply tag status flags data => tag :: status.code :: flags :: data
  | .notice n => n.body
  | .lossMarker count _ => noticesLostCode :: cellBytes count

/-- The bytes of an outbound frame with a header and body fixed at an HCS fall (R148, R154). -/
def frameBytes (admTag : Byte) (admResult : AdmResult) (type : Byte) (body : List Byte) : List Byte :=
  let covered := natByte body.length :: admTag :: admResult.code :: type :: body
  syncByte :: covered ++ cellBytes (crc covered)

/-- Eight bits shifted in, the first into the most significant place (R147). -/
def byteOf (bits : List Bool) : Byte :=
  bits.foldl (fun b bit => (b <<< 1) ||| (if bit then 1 else 0)) 0

/-- The whole bytes that the bits make, in order; a partial byte at the end is not counted (R147). -/
def bytesOf : List Bool → List Byte
  | a :: b :: c :: d :: e :: f :: g :: h :: rest => byteOf [a, b, c, d, e, f, g, h] :: bytesOf rest
  | _ => []

/-- The bit that HDO presents for the rising edge `k` of HCK in a transaction, from the most significant bit of the
frame's first byte, and 0 after the frame's last (R147, R148). -/
def frameBit (frame : List Byte) (k : Nat) : Bool :=
  (frame.getD (k / 8) 0).getMsbD (k % 8)

/-! ## Inbound frames (R149, R150, R151) -/

/-- The received tag byte of the admission report (R153). -/
def receivedTag : List Byte → Byte
  | s :: _ :: t :: _ => if s = syncByte then t else 0
  | _ => 0

/-- The checks of R151 that need only the bytes: the frame's tag, kind and payload, or the result that fails. -/
def parseInbound (bytes : List Byte) : Except AdmResult Request :=
  match bytes with
  | [] => .error .none
  | s :: rest =>
    if s ≠ syncByte then .error .none
    else
      match rest with
      | [] => .error .badLength
      | len :: _ =>
        if len.toNat > 248 ∨ bytes.length < 6 + len.toNat then .error .badLength
        else
          let covered := rest.take (3 + len.toNat)
          if (rest.drop (3 + len.toNat)).take 2 ≠ cellBytes (crc covered) then .error .badCheck
          else
            match covered with
            | _ :: tag :: kind :: payload =>
              if tag = 0 then .error .badTag
              else
                match RequestKind.ofCode kind with
                | none => .error .badKind
                | some k => .ok ⟨tag, k, payload⟩
            | _ => .error .badLength

end Sys2Proof.Machine
end

