-- ==== Sys2Proof/Machine/Ops.lean ====
section
/-! DEFINITION. The named operations: time, the cells, the row table, notices and replies, the arbiter, the completion
of a row operation, sessions, and the emptying of a line register. -/

namespace Sys2Proof.Machine

/-! ## Time and supply -/

/-- The command's moment: `dt` ns after the command before it (log entry 2). -/
def State.advance (s : State) (dt : Nat) : State :=
  { s with clock := s.clock + dt }

/-- The supply is valid and HRST is not asserted; otherwise the part is inert (R16, R159). -/
def State.live (s : State) : Bool :=
  s.powered && !s.hrst

/-- A timer that runs from `start` has run out: `limit` ns or more have passed (log entry 2). -/
def State.elapsed (s : State) (start limit : Nat) : Bool :=
  decide (start + limit ≤ s.clock)

/-! ## One home for each register, stream and slot -/

def LineRegs.get (b : LineRegs) : LrId → LineReg
  | .lr0 => b.lr0
  | .lr1 => b.lr1
  | .lr2 => b.lr2
  | .lr3 => b.lr3
  | .lr4 => b.lr4

def LineRegs.set (b : LineRegs) (r : LrId) (x : LineReg) : LineRegs :=
  match r with
  | .lr0 => { b with lr0 := x }
  | .lr1 => { b with lr1 := x }
  | .lr2 => { b with lr2 := x }
  | .lr3 => { b with lr3 := x }
  | .lr4 => { b with lr4 := x }

def State.lr (s : State) (r : LrId) : LineReg :=
  s.lrb.get r

def State.setLr (s : State) (r : LrId) (x : LineReg) : State :=
  { s with lrb := s.lrb.set r x }

def Streams.get (b : Streams) : StreamId → StreamRec
  | .s0 => b.st0
  | .s1 => b.st1

def Streams.set (b : Streams) (n : StreamId) (x : StreamRec) : Streams :=
  match n with
  | .s0 => { b with st0 := x }
  | .s1 => { b with st1 := x }

def State.str (s : State) (n : StreamId) : StreamRec :=
  s.ste.get n

def State.setStr (s : State) (n : StreamId) (x : StreamRec) : State :=
  { s with ste := s.ste.set n x }

def Sessions.get (b : Sessions) : SlotId → Session
  | .k0 => b.k0
  | .k1 => b.k1
  | .k2 => b.k2
  | .k3 => b.k3

def Sessions.set (b : Sessions) (k : SlotId) (x : Session) : Sessions :=
  match k with
  | .k0 => { b with k0 := x }
  | .k1 => { b with k1 := x }
  | .k2 => { b with k2 := x }
  | .k3 => { b with k3 := x }

def State.slot (s : State) (k : SlotId) : Session :=
  s.sst.get k

def State.setSlot (s : State) (k : SlotId) (x : Session) : State :=
  { s with sst := s.sst.set k x }

/-- The even-numbered register of a stream (R87, R112). -/
def evenReg : StreamId → LrId
  | .s0 => .lr0
  | .s1 => .lr2

/-- The odd-numbered register of a stream. -/
def oddReg : StreamId → LrId
  | .s0 => .lr1
  | .s1 => .lr3

/-- The stream a register belongs to (R55). -/
def streamOf : LrId → Option StreamId
  | .lr0 | .lr1 => some .s0
  | .lr2 | .lr3 => some .s1
  | .lr4 => none

/-- The other stream. -/
def otherStream : StreamId → StreamId
  | .s0 => .s1
  | .s1 => .s0

/-! ## The cells (R1) -/

/-- The address of a cell. -/
def cellAddress (row col : Nat) : Nat :=
  row * Config.columns + col

/-- What an address that is not listed reads as: 0x0000, or the free value in an undefined row (log entries 10, 11). -/
def Memory.unlisted (m : Memory) (address : Nat) : CellVal :=
  if m.undefinedRows.contains (address / Config.columns) then Config.undefinedCell m.epoch address else 0

/-- The value of a cell. -/
def Memory.read (m : Memory) (row col : Nat) : CellVal :=
  match m.cells.find? (fun e => e.1 == cellAddress row col) with
  | some e => e.2
  | none => m.unlisted (cellAddress row col)

/-- The listed cells of a row whose column `c` holds `f c`, when every cell of the row is defined. -/
def rowEntries (row : Nat) (f : Nat → CellVal) : List (Nat × CellVal) :=
  (List.range Config.columns).filterMap fun c => if f c = 0 then none else some (cellAddress row c, f c)

/-- Give column `c` of a row the value `f c`, for every column. -/
def Memory.setRow (m : Memory) (row : Nat) (f : Nat → CellVal) : Memory :=
  if row < Config.rows then
    { m with
      cells := m.cells.filter (fun e => decide (e.1 < cellAddress row 0)) ++ rowEntries row f
        ++ m.cells.filter (fun e => decide (cellAddress (row + 1) 0 ≤ e.1))
      undefinedRows := m.undefinedRows.filter (fun r => r != row) }
  else m

/-- The canonical form: addresses strictly rising and inside the array, and no entry equal to what its address would
read as unlisted. -/
def Memory.wf (m : Memory) : Bool :=
  decide (m.cells.Pairwise fun a b => a.1 < b.1)
    && m.cells.all fun e => decide (e.1 < Config.rows * Config.columns) && e.2 != m.unlisted e.1

/-- All 256 cells of a row (R4). -/
def State.rowCells (s : State) (row : Nat) : List CellVal :=
  (List.range Config.columns).map (s.rat.memory.read row)

/-- The cell of a register's content at a column. -/
def cellAt (content : List CellVal) (col : Nat) : CellVal :=
  content.getD col 0

/-- Write the cells `f` into the given sections of a row; the other sections keep their values (R5, R6, R7). -/
def State.writeSections (s : State) (row : Nat) (sections : SectionSet) (f : Nat → CellVal) : State :=
  let m := s.rat.memory
  let m' := m.setRow row fun c => if coversColumn sections c then f c else m.read row c
  { s with rat := { s.rat with memory := m' } }

/-! ## The row table (R10) -/

/-- The entry of a row. -/
def State.row (s : State) (r : Nat) : RowEntry :=
  s.rat.table.getD r ⟨false, false, 0, true⟩

/-- Change the entry of a row. -/
def State.updateRow (s : State) (r : Nat) (f : RowEntry → RowEntry) : State :=
  { s with rat := { s.rat with table := s.rat.table.set r (f (s.row r)) } }

/-- A row's age (R21). -/
def State.age (s : State) (r : Nat) : Nat :=
  s.clock - (s.row r).completedAt

/-- A row's age as ROW_QUERY and STATUS report it: whole µs, rounded down, saturating (R34, R35). -/
def State.ageMicros (s : State) (r : Nat) : Nat :=
  min (s.age r / 1000) 65535

/-! ## Outbound queue, notices, replies -/

/-- A frame joins the tail of the outbound queue; ATTN is high (R156, R157). -/
def State.enqueue (s : State) (f : Frame) : State :=
  { s with hlc := { s.hlc with outq := s.hlc.outq ++ [f], attn := true } }

def Frame.isMarker : Frame → Bool
  | .lossMarker .. => true
  | _ => false

def Frame.isNotice : Frame → Bool
  | .notice _ => true
  | _ => false

/-- One more discarded notice for a queued loss marker (R182); both figures saturate (R183). -/
def Frame.countDiscard : Frame → Frame
  | .lossMarker count added => .lossMarker (satAdd count 1) (satAdd added 1)
  | f => f

/-- Notices in the outbound queue, the loss marker not counted (R182). -/
def State.noticeCount (s : State) : Nat :=
  (s.hlc.outq.filter Frame.isNotice).length

/-- A block's report reaches the notice unit: first the mask, then the quota (R180, R181, R182). -/
def State.report (s : State) (n : Notice) : State :=
  if n.enabled s.ntu.mask then
    if s.hlc.outq.any Frame.isMarker then
      { s with
        hlc := { s.hlc with outq := s.hlc.outq.map Frame.countDiscard }
        ntu := { s.ntu with lostTotal := satAdd s.ntu.lostTotal 1 } }
    else if s.noticeCount < Config.maxNotices then s.enqueue (.notice n)
    else { s.enqueue (.lossMarker 1 1) with ntu := { s.ntu with lostTotal := satAdd s.ntu.lostTotal 1 } }
  else s

/-- The request in execution completes: its reply is queued and it leaves the request queue (R163, R165). -/
def State.finish (s : State) (status : Status) (flags : Byte) (data : List Byte) : State :=
  match s.rqe.queue with
  | [] => s
  | r :: rest =>
    { s with rqe := { s.rqe with queue := rest, phase := .free } }.enqueue (.reply r.tag status flags data)

/-- A request refused by a check: no data, flags 0 (R165). -/
def State.refuse (s : State) (status : Status) : State :=
  s.finish status 0 []

/-- The request engine goes on with the head request: what it waits for. -/
def State.setPhase (s : State) (p : Phase) : State :=
  { s with rqe := { s.rqe with phase := p } }

/-! ## The arbiter -/

/-- The class is above HOST (R40): it closes a held row (R48). -/
def ClaimClass.aboveHost : ClaimClass → Bool
  | .urgent | .stream | .scrub => true
  | .host | .routine => false

/-- The operation in flight, if any. -/
def State.inFlight (s : State) : Option Operation :=
  match s.arb.circuit with
  | .operating op => some op
  | _ => none

/-- A row operation on the row is granted or in flight (R21). -/
def State.inFlightOn (s : State) (row : Nat) : Bool :=
  match s.inFlight with
  | some op => op.claim.row == row
  | none => false

def State.setCircuit (s : State) (c : Circuit) : State :=
  { s with arb := { s.arb with circuit := c } }

/-- A claimant raises a claim: it joins the pending claims (R41). `settle` then makes the grant or preemption. -/
def State.raiseClaim (s : State) (c : Claim) : State :=
  { s with arb := { s.arb with claims := s.arb.claims ++ [c] } }

/-- Claims are withdrawn (R51): those that satisfy `p` leave the pending claims. -/
def State.withdraw (s : State) (p : Claim → Bool) : State :=
  { s with arb := { s.arb with claims := s.arb.claims.filter (fun c => !p c) } }

/-- A SCRUB is always grantable; another claim unless its row has scrub pending (R42). -/
def State.grantable (s : State) (c : Claim) : Bool :=
  c.kind == .scrub || !(s.row c.row).scrubPending

/-- The first claim whose row stands earliest in a list of rows (R44). -/
def oldestClaim : List Nat → List Claim → Option Claim
  | [], _ => none
  | r :: rs, cs =>
    match cs.find? (fun c => c.row == r) with
    | some c => some c
    | none => oldestClaim rs cs

/-- The take number of the segment a claim serves. -/
def State.claimSeq (s : State) (c : Claim) : Nat :=
  match c.claimant with
  | .register r => (s.lr r).takeSeq
  | _ => 0

/-- The claim whose segment was taken earliest (R45). -/
def State.earliestTaken (s : State) : List Claim → Option Claim
  | [] => none
  | c :: cs =>
    match s.earliestTaken cs with
    | none => some c
    | some d => if s.claimSeq c ≤ s.claimSeq d then some c else some d

/-- The claim is one of the stream's. -/
def Claim.ofStream (c : Claim) (n : StreamId) : Bool :=
  match c.claimant with
  | .register r => streamOf r == some n
  | _ => false

/-- The choice within the STREAM class: the preferred stream first, then the earlier-taken segment (R45). -/
def State.chooseStream (s : State) (cs : List Claim) : Option Claim :=
  let preferred := cs.filter (fun c => c.ofStream s.arb.preferred)
  let other := cs.filter (fun c => c.ofStream (otherStream s.arb.preferred))
  if preferred.isEmpty then s.earliestTaken other else s.earliestTaken preferred

/-- The grantable claims of a class. -/
def State.grantableOf (s : State) (k : ClaimClass) : List Claim :=
  s.arb.claims.filter (fun c => c.cls == k && s.grantable c)

/-- The claim a grant decision takes: the highest class with a grantable claim, then R44 and R45 (R43). -/
def State.chooseGrant (s : State) : Option Claim :=
  (oldestClaim s.rfe.order (s.grantableOf .urgent)).or <|
    (s.chooseStream (s.grantableOf .stream)).or <|
      (oldestClaim s.rfe.scrubList (s.grantableOf .scrub)).or <|
        (s.grantableOf .host).head?.or (s.grantableOf .routine).head?

/-- What the grant of a claim fixes (R46): the sections it writes, its value, its source-lost state. -/
def State.operationOf (s : State) (c : Claim) : Operation :=
  let sections :=
    match c.kind with
    | .commit => match c.claimant with
      | .register r => (s.lr r).filled
      | _ => 0
    | .scrub => allSections
    | .fill _ mask => mask
    | .copyCommit sections => sections
    | _ => 0
  let value :=
    match c.kind with
    | .scrub => if s.rat.state = .init then 0 else s.rat.lossFill
    | .fill value _ => value
    | _ => 0
  { claim := c
    grantedAt := s.clock
    sections := sections
    value := value
    sourceLost := match c.kind with
      | .copyCommit _ => s.lrb.lr4.sourceLost
      | _ => false
    discarded := false }

/-- The grant's effect on the line register (R46): a reload's register passes to LOADING, a commit's to COMMITTING with
its hold timer stopped. -/
def LineReg.granted (x : LineReg) (kind : ClaimKind) : LineReg :=
  match kind with
  | .load => { x with state := .loading }
  | .commit => { x with state := .committing, holdTimer := none }
  | .copyCommit _ => { x with state := .committing, holdTimer := none }
  | _ => x

/-- The register a claim loads or commits. -/
def Claim.register? (c : Claim) : Option LrId :=
  match c.claimant with
  | .register r => some r
  | .requestEngine => match c.kind with
    | .copyLoad => some .lr4
    | .copyCommit _ => some .lr4
    | _ => none
  | _ => none

/-- Grant a claim (R43, R45, R46). -/
def State.grant (s : State) (c : Claim) : State :=
  let preferred :=
    match c.cls, c.claimant with
    | .stream, .register r => match streamOf r with
      | some n => otherStream n
      | none => s.arb.preferred
    | _, _ => s.arb.preferred
  let s' := { s with
    arb := { circuit := .operating (s.operationOf c), claims := s.arb.claims.erase c, preferred := preferred } }
  match c.register? with
  | some r => s'.setLr r ((s.lr r).granted c.kind)
  | none => s'

/-- The grant decision of a FREE circuit (R43). -/
def State.grantDecision (s : State) : State :=
  match s.chooseGrant with
  | some c => s.grant c
  | none => s

/-- A session's row is closed: it is PARKED while in use (R48). -/
def State.park (s : State) (k : SlotId) : State :=
  s.setSlot k { s.slot k with state := .parked }

/-- Close the held row: the circuit is FREE, the session PARKED (R48). -/
def State.closeHeld (s : State) : State :=
  match s.arb.circuit with
  | .held k _ => (s.park k).setCircuit .free
  | _ => s

/-- A grantable claim of a class above HOST is pending (R48). -/
def State.preempting (s : State) : Bool :=
  s.arb.claims.any (fun c => c.cls.aboveHost && s.grantable c)

/-- What the arbiter does at the end of every event: preempt a held row (R48, R49), decide a grant in FREE (R43). -/
def State.settle (s : State) : State :=
  match s.arb.circuit with
  | .free => s.grantDecision
  | .held _ _ => if s.preempting then s.closeHeld.grantDecision else s
  | _ => s

/-! ## The refresh engine -/

/-- A claim of the refresh engine on a row, SCRUB apart (R25). -/
def Claim.isRefreshOf (c : Claim) (row : Nat) : Bool :=
  (c.cls == .routine || c.cls == .urgent) && c.row == row

/-- A claim of a class is pending or in flight. -/
def State.holdsClaim (s : State) (p : Claim → Bool) : Bool :=
  s.arb.claims.any p || (match s.inFlight with
    | some op => p op.claim
    | none => false)

/-- Raise a ROUTINE claim for the head of the order list when R23's conditions hold. -/
def State.checkRoutine (s : State) : State :=
  match s.rfe.order with
  | [] => s
  | head :: _ =>
    if s.rfe.mode = .auto ∧ s.holdsClaim (fun c => c.cls == .routine) = false ∧ Config.routineAge ≤ s.age head
        ∧ (s.row head).scrubPending = false ∧ s.holdsClaim (fun c => c.cls == .urgent && c.row == head) = false
        ∧ s.inFlightOn head = false then
      s.raiseClaim ⟨.refresh, head, .refreshEngine, .routine⟩
    else s

/-- Move a row to the tail of the order list (R20). -/
def toTail (row : Nat) (order : List Nat) : List Nat :=
  if order.contains row then order.erase row ++ [row] else order

/-- The part of a completion that is common to every kind (R3, R25, R47): the completion time, the order list, the
refresh engine's claims on the row, the circuit no longer in the operation, and R23 for the head. The grant decision
is `settle`'s, after the claimant has acted. -/
def State.rowCompleted (s : State) (row : Nat) : State :=
  let s₁ := s.updateRow row fun e => { e with completedAt := s.clock, crossed := false }
  let s₂ := { s₁ with rfe := { s₁.rfe with order := toTail row s₁.rfe.order } }
  ((s₂.withdraw fun c => c.isRefreshOf row).setCircuit .free).checkRoutine

/-- The row can take a threshold event: no scrub pending, nothing on it granted or in flight (R21). -/
def State.undisturbed (s : State) (row : Nat) : Bool :=
  !(s.row row).scrubPending && !s.inFlightOn row

/-- The rows a change of mode finds past 7.0 ms, oldest first (R27, R28). -/
def State.agedRows (s : State) : List Nat :=
  s.rfe.order.filter fun r => decide (Config.urgentAge ≤ s.age r) && s.undisturbed r

/-- Raise an URGENT claim for a row that has none (R24, R40). -/
def State.raiseUrgent (s : State) (row : Nat) : State :=
  if s.holdsClaim (fun c => c.cls == .urgent && c.row == row) then s
  else s.raiseClaim ⟨.refresh, row, .refreshEngine, .urgent⟩

/-- A change from HOSTED to AUTO (R28). -/
def State.toAuto (s : State) : State :=
  let s' := { s with rfe := { s.rfe with mode := .auto } }
  (s'.agedRows.foldl State.raiseUrgent s').checkRoutine

/-- A row's urgent crossing counts as taken. -/
def State.markCrossed (s : State) (row : Nat) : State :=
  s.updateRow row fun e => { e with crossed := true }

/-- The row is reported at a change to HOSTED: at exactly 7.0 ms only if its crossing has been taken, for otherwise
the crossing itself reports it (R27, R30; log entry 18). -/
def State.inherited (s : State) (row : Nat) : Bool :=
  (s.row row).crossed || decide (Config.urgentAge < s.age row)

/-- A change from AUTO to HOSTED (R27). -/
def State.toHosted (s : State) : State :=
  let s₁ := { s with rfe := { s.rfe with mode := .hosted } }
  let s' := s₁.withdraw fun c => c.cls == .routine || c.cls == .urgent
  (s'.agedRows.filter s'.inherited).foldl (fun t r => (t.markCrossed r).report (.rowAging r)) s'

/-- CONFIGURE's mode: a mode already in force changes nothing (R22). -/
def State.setMode (s : State) (m : RefreshMode) : State :=
  if s.rfe.mode = m then s
  else
    match m with
    | .auto => s.toAuto
    | .hosted => s.toHosted

/-! ## Sessions -/

/-- The session a handle names, if the slot is in use with that generation (R129). -/
def State.findSession (s : State) (slotByte generation : Byte) : Option SlotId :=
  match slotOfCode slotByte with
  | some k => if (s.slot k).inUse = true ∧ (s.slot k).generation = generation then some k else none
  | none => none

/-- The lowest-numbered free slot (R130). -/
def State.freeSlot (s : State) : Option SlotId :=
  [SlotId.k0, .k1, .k2, .k3].find? fun k => !(s.slot k).inUse

/-- Slots in use (R128). -/
def State.slotsInUse (s : State) : Nat :=
  ([SlotId.k0, .k1, .k2, .k3].filter fun k => (s.slot k).inUse).length

/-- A request on the session begins: its idle timer stops (R139). -/
def State.stopIdle (s : State) (k : SlotId) : State :=
  s.setSlot k { s.slot k with idleTimer := none }

/-- The reply of a request on the session is queued: its idle timer restarts (R139). -/
def State.restartIdle (s : State) (k : SlotId) : State :=
  s.setSlot k { s.slot k with idleTimer := some s.clock }

/-- A slot is freed, its generation kept (R138, R139, R145). -/
def State.freeSession (s : State) (k : SlotId) : State :=
  s.setSlot k { s.slot k with inUse := false, state := .parked, idleTimer := none }

/-- The next request is a well-formed column request on the session (R135). -/
def State.nextIsOn (s : State) (k : SlotId) : Bool :=
  match s.rqe.queue with
  | [] => false
  | r :: _ =>
    match r.columnFields with
    | some f => s.findSession f.slot f.generation == some k
    | none => false

/-- The keep rule (R135): a row is held and the next request is on its session. -/
def State.keepsRow (s : State) : Bool :=
  match s.arb.circuit with
  | .held k _ => s.nextIsOn k
  | _ => false

/-- The next request begins at this event (R163), and what it raises or withdraws is to be taken first. -/
def State.awaitsNext (s : State) (tie : TieOrder) : Bool :=
  tie == .raiseFirst && s.rqe.phase == .free && !s.rqe.queue.isEmpty

/-- The arbiter's part at an event that can end a request: a row that the keep rule keeps stays held unless a claim
preempts it (R48, R135); else the held row is closed and the grant decision made (R43, R47), or both wait for the next
request's beginning at the same event, which makes them (log entry 5). -/
def State.conclude (s : State) (tie : TieOrder) : State :=
  if s.keepsRow then s.settle
  else if s.awaitsNext tie then s
  else s.closeHeld.settle

/-! ## Line registers -/

/-- The register's claim kind in discard pending (R56). -/
def ClaimKind.discardKind : ClaimKind → Option DiscardKind
  | .load => some .load
  | .commit => some .commit
  | .copyLoad => some .copyLoad
  | .copyCommit _ => some .copyCommit
  | _ => none

/-- An EMPTY register: every field but the content and discard pending cleared (R71). The cells stay as they are, at a
take too, whose cells outside the received part R55 leaves without a defined value: the model's choice, log entry 23. -/
def LineReg.cleared (x : LineReg) (discard : Option DiscardKind) : LineReg :=
  { LineReg.atInit with content := x.content, discardPending := discard }

/-- The claim is the register's. -/
def Claim.isOf (c : Claim) (r : LrId) : Bool :=
  c.register? == some r

/-- A claim of the register is pending. -/
def State.claimPending (s : State) (r : LrId) : Bool :=
  s.arb.claims.any (fun c => c.isOf r)

/-- The kind of the register's operation granted or in flight, if any. -/
def State.operationKind (s : State) (r : LrId) : Option DiscardKind :=
  match s.inFlight with
  | some op => if op.claim.isOf r then op.claim.kind.discardKind else none
  | none => none

/-- The owner empties a register (R71): a pending claim is withdrawn, an operation in flight becomes discard pending. -/
def State.emptyReg (s : State) (r : LrId) : State :=
  (s.withdraw fun c => c.isOf r).setLr r ((s.lr r).cleared (s.operationKind r))

/-- The register is EMPTY with nothing to discard: it may take a segment (R58, R65). -/
def LineReg.isFree (x : LineReg) : Bool :=
  x.state == .empty && x.discardPending == none

end Sys2Proof.Machine
end

