-- ==== Sys2Proof/Machine/StreamOps.lean ====
section
/-! DEFINITION. What both stream directions share: segments, counters, the registers of a stream, the passage to IDLE. -/

namespace Sys2Proof.Machine

/-- Range length in cells (R79). -/
def Segment.range (g : Segment) : Nat :=
  g.count * Config.sectionCells

/-- The segment record fits R79's ranges for a stream of the direction (R83). -/
def Segment.valid (g : Segment) (d : Direction) : Bool :=
  decide (g.row < Config.rows ∧ g.first < 4 ∧ 1 ≤ g.count ∧ g.count ≤ 4 - g.first
    ∧ 1 ≤ g.repeats ∧ g.repeats ≤ (if d = .capture then 1 else 64))

def State.mapStr (s : State) (n : StreamId) (f : StreamRec → StreamRec) : State :=
  s.setStr n (f (s.str n))

def State.mapLr (s : State) (r : LrId) (f : LineReg → LineReg) : State :=
  s.setLr r (f (s.lr r))

/-- Count in a stream's counters (R107). -/
def State.count (s : State) (n : StreamId) (f : Counters → Counters) : State :=
  s.mapStr n fun x => { x with counters := f x.counters }

/-- The registers of a stream that hold a segment, earlier-taken first (R78). -/
def State.heldRegs (s : State) (n : StreamId) : List LrId :=
  let e := evenReg n
  let o := oddReg n
  match (s.lr e).segment.isSome, (s.lr o).segment.isSome with
  | true, true => if (s.lr e).takeSeq ≤ (s.lr o).takeSeq then [e, o] else [o, e]
  | true, false => [e]
  | false, true => [o]
  | false, false => []

/-- Both registers of the stream are EMPTY with nothing to discard. -/
def State.regsFree (s : State) (n : StreamId) : Bool :=
  (s.lr (evenReg n)).isFree && (s.lr (oddReg n)).isFree

/-- The segment total of R80 and R110. -/
def State.segmentTotal (s : State) (n : StreamId) : Nat :=
  let x := s.str n
  x.queue.length + (s.heldRegs n).length + (if x.overrunSegment.isSome then 1 else 0) + x.waiting.length

/-- Set or clear the loss reported flag of a register (R78). -/
def StreamRec.setLossReported (x : StreamRec) (r : LrId) (b : Bool) : StreamRec :=
  match r with
  | .lr0 | .lr2 => { x with lossReportedEven := b }
  | .lr1 | .lr3 => { x with lossReportedOdd := b }
  | .lr4 => x

def StreamRec.lossReported (x : StreamRec) (r : LrId) : Bool :=
  match r with
  | .lr0 | .lr2 => x.lossReportedEven
  | .lr1 | .lr3 => x.lossReportedOdd
  | .lr4 => false

/-- A register takes the head of its stream's queue (R58, R65): the queue's rest, a new number, the register's fields. -/
def State.takeHead (s : State) (n : StreamId) (r : LrId) (g : Segment) (rest : List Segment) (st : LrState) : State :=
  let seq := (s.str n).taken
  let s' := s.mapStr n fun x => { x.setLossReported r false with queue := rest, taken := seq + 1 }
  s'.mapLr r fun x =>
    { x.cleared none with state := st, segment := some g, passesLeft := g.repeats, takeSeq := seq }

/-- The passage to IDLE by a stop (R106, R124): lines released, stop request cleared, the STREAM_STOP reply, then
STREAM_STOPPED. -/
def State.streamToIdle (s : State) (n : StreamId) : State :=
  let kind := (s.str n).stopRequest
  let s₁ := s.mapStr n fun x => { x with state := .idle, sd := none, smk := false, stopRequest := none }
  let s₂ := if s₁.rqe.phase = .stopping n then s₁.finish .ok 0 [] else s₁
  match kind with
  | some k => s₂.report (.streamStopped n k)
  | none => s₂

/-- A stop has taken effect: STOPPING while a register has an operation to complete, else IDLE (R103, R122). -/
def State.stopNext (s : State) (n : StreamId) : State :=
  if s.regsFree n then s.streamToIdle n else s.mapStr n fun x => { x with state := .stopping }

/-- In STOPPING, the last outstanding operation has ended (R106, R124). -/
def State.checkStopped (s : State) (n : StreamId) : State :=
  if (s.str n).state = .stopping ∧ s.regsFree n = true then s.streamToIdle n else s

/-- The passage to DRAINED (R100, R120). -/
def State.drain (s : State) (n : StreamId) : State :=
  (s.mapStr n fun x => { x with state := .drained }).report (.streamDrained n)

end Sys2Proof.Machine
end

