-- ==== Sys2Proof/Machine/CaptureOps.lean ====
section
/-! DEFINITION. The capture stream engine (chapter 6): takes, receipts, commits, overruns, rings, stops. -/

namespace Sys2Proof.Machine

/-- The register receives: ACTIVE with no commit claimed (R110). -/
def State.isReceiving (s : State) (r : LrId) : Bool :=
  (s.lr r).state == .active && !s.claimPending r

/-- The receiving register of a capture stream, if any (R110). -/
def State.receiving (s : State) (n : StreamId) : Option LrId :=
  [evenReg n, oddReg n].find? s.isReceiving

/-- The stream takes segments when it has no receiving register (R112). -/
def State.capTaking (s : State) (n : StreamId) : Bool :=
  let x := s.str n
  x.direction == .capture && x.stopRequest == none
    && (x.state == .ready || x.state == .running || (x.state == .overrun && x.overrunSegment == none))
    && s.receiving n == none

/-- A free register, the even-numbered first, takes the head and becomes the receiving register (R65, R112); at an
overrun boundary the stream passes to RUNNING (R118). -/
def State.capTake (s : State) (n : StreamId) : State :=
  if s.capTaking n then
    match [evenReg n, oddReg n].find? (fun r => (s.lr r).isFree), (s.str n).queue with
    | some r, g :: rest =>
      let s' := s.takeHead n r g rest .active
      if (s.str n).state = .overrun then s'.mapStr n fun x => { x with state := .running } else s'
    | _, _ => s
  else s

/-- The take numbers of the segments the stream holds, in registers or as the overrun segment (R125). -/
def State.heldSeqs (s : State) (n : StreamId) : List Nat :=
  (s.heldRegs n).map (fun r => (s.lr r).takeSeq) ++
    match (s.str n).overrunSegment with
    | some t => [t.seq]
    | none => []

/-- Insert a waiting copy in take order. -/
def insertTaken (t : Taken) : List Taken → List Taken
  | [] => [t]
  | u :: us => if t.seq ≤ u.seq then t :: u :: us else u :: insertTaken t us

/-- Waiting copies with no earlier-taken segment held join the tail in take order (R125). -/
def State.releaseCopies (s : State) (n : StreamId) : State :=
  let held := s.heldSeqs n
  let ready := fun (t : Taken) => held.all fun q => decide (t.seq < q)
  s.mapStr n fun x =>
    { x with
      queue := x.queue ++ (x.waiting.filter ready).map Taken.segment
      waiting := x.waiting.filter fun t => !ready t }

/-- A capture segment no longer held has finished (R125): its copy joins the tail or waits, and copies that waited for
it join; a copy that joins in DRAINED passes the stream to READY (R120). -/
def State.capFinish (s : State) (n : StreamId) (t : Taken) : State :=
  if (s.str n).cyclic then
    let atOnce := (s.heldSeqs n).all fun q => decide (t.seq < q)
    let s₁ := s.mapStr n fun x =>
      if atOnce then { x with queue := x.queue ++ [t.segment] } else { x with waiting := insertTaken t x.waiting }
    let s₂ := s₁.releaseCopies n
    if (s₂.str n).state = .drained ∧ (s₂.str n).stopRequest = none ∧ (s₂.str n).queue ≠ [] then
      s₂.mapStr n fun x => { x with state := .ready }
    else s₂
  else s

/-- Count a segment abandoned with `given` received cells given up (R126). -/
def State.capAbandonCount (s : State) (n : StreamId) (given : Nat) : State :=
  s.count n fun c => { c with dropped := satAdd c.dropped 1, discarded := satAdd c.discarded given }

/-- The overrun segment is abandoned (R117 steps 1 to 4, R122 step 1). Its cells were counted at their edges. -/
def State.capAbandonOverrun (s : State) (n : StreamId) (t : Taken) (cells : Nat) : State :=
  let s₁ := (s.report (.segmentAbandoned n t.segment.row .overrun cells)).capAbandonCount n 0
  (s₁.mapStr n fun x => { x with overrunSegment := none, overrunCount := 0 }).capFinish n t

/-- Raise the COMMIT of a register (R67). -/
def State.raiseCommit (s : State) (r : LrId) (g : Segment) : State :=
  s.raiseClaim ⟨.commit, g.row, .register r, .stream⟩

/-- What a stop does with the receiving register (R122 step 2). -/
def State.capStopReceiving (s : State) (n : StreamId) (r : LrId) (g : Segment) : State :=
  let x := s.lr r
  if x.position = 0 then
    ((s.emptyReg r).mapStr n fun y => { y with queue := g :: y.queue }).releaseCopies n
  else if x.filled = 0 then
    let s₁ := (s.report (.segmentAbandoned n g.row .stop x.position)).capAbandonCount n x.position
    (s₁.emptyReg r).capFinish n ⟨x.takeSeq, g⟩
  else s.raiseCommit r g

/-- A stop of a capture stream takes effect (R122). -/
def State.capStopEffect (s : State) (n : StreamId) : State :=
  let s₁ :=
    match (s.str n).overrunSegment with
    | some t => s.capAbandonOverrun n t (s.str n).overrunCount
    | none => s
  let s₂ :=
    match s₁.receiving n with
    | some r =>
      match (s₁.lr r).segment with
      | some g => s₁.capStopReceiving n r g
      | none => s₁
    | none => s₁
  s₂.stopNext n

/-- The receiving register holds a begun segment (R122, R123). -/
def State.capBegun (s : State) (n : StreamId) : Bool :=
  match s.receiving n with
  | some r => decide (1 ≤ (s.lr r).position)
  | none => false

/-- One cell into a register (R66): content, position, filled sections, hold timer. -/
def LineReg.received (x : LineReg) (g : Segment) (cell : CellVal) (clock : Nat) : LineReg :=
  let position := x.position + 1
  { x with
    content := x.content.set (Config.sectionCells * g.first + x.position) cell
    position := position
    filled :=
      if position % Config.sectionCells = 0 then x.filled ||| rangeSections (g.first + position / Config.sectionCells - 1) 1
      else x.filled
    holdTimer := some clock
    begun := true
    state := if position = g.range then .full else x.state }

/-- The range is full: a waiting stop, the next segment, or DRAINED (R113, R120, R123). -/
def State.capRangeFull (s : State) (n : StreamId) : State :=
  if (s.str n).stopRequest = some .afterSegment then s.capStopEffect n
  else if (s.str n).queue = [] then s.drain n
  else s.capTake n

/-- A cell received into the receiving register `r` (R113). -/
def State.capReceive (s : State) (n : StreamId) (r : LrId) (g : Segment) (cell : CellVal) : State :=
  let s₁ := s.mapStr n fun x =>
    { x with state := .running, counters := { x.counters with cellsMoved := satAdd x.counters.cellsMoved 1 } }
  let s₂ := s₁.mapLr r fun x => x.received g cell s.clock
  if (s₂.lr r).state = .full then (s₂.raiseCommit r g).capRangeFull n else s₂

/-- An edge whose cell is discarded (R120, R124). -/
def State.capDiscard (s : State) (n : StreamId) : State :=
  s.count n fun c => { c with discarded := satAdd c.discarded 1 }

/-- The overrun segment's count has ended (R117). -/
def State.capOverrunEnd (s : State) (n : StreamId) (t : Taken) : State :=
  let s₁ := s.capAbandonOverrun n t t.segment.range
  if (s₁.str n).queue = [] then s₁.drain n else s₁.capTake n

/-- An edge's cell counted against an overrun segment (R116). -/
def State.capOverrunCount (s : State) (n : StreamId) (t : Taken) (before : Nat) : State :=
  let s₁ := s.mapStr n fun x =>
    { x with
      state := .overrun
      overrunSegment := some t
      overrunCount := before + 1
      counters := { x.counters with
        starvedCells := satAdd x.counters.starvedCells 1
        discarded := satAdd x.counters.discarded 1 } }
  if before + 1 = t.segment.range then s₁.capOverrunEnd n t else s₁

/-- The head of the queue becomes the overrun segment and takes the edge's cell (R116). -/
def State.capOverrunTake (s : State) (n : StreamId) (g : Segment) (rest : List Segment) : State :=
  let seq := (s.str n).taken
  (s.mapStr n fun x => { x with queue := rest, taken := seq + 1 }).capOverrunCount n ⟨seq, g⟩ 0

/-- An edge on a capture stream (R111, R113, R114, R116, R120, R124). -/
def State.capEdge (s : State) (n : StreamId) (cell : CellVal) : State :=
  match (s.str n).state with
  | .disabled | .idle | .priming | .starved => s
  | .drained | .stopping => s.capDiscard n
  | .ready | .running =>
    match s.receiving n with
    | some r =>
      match (s.lr r).segment with
      | some g => s.capReceive n r g cell
      | none => s
    | none =>
      match (s.str n).queue with
      | [] => (s.drain n).capDiscard n
      | g :: rest =>
        (s.count n fun c => { c with underruns := satAdd c.underruns 1 }).capOverrunTake n g rest
  | .overrun =>
    match (s.str n).overrunSegment with
    | some t => s.capOverrunCount n t (s.str n).overrunCount
    | none =>
      match (s.str n).queue with
      | [] => (s.drain n).capDiscard n
      | g :: rest => s.capOverrunTake n g rest

/-- The stream engine's part of a commit's completion (R115): mark, counting, cyclic copy, take, stopping. `x` is the
register as it stood in COMMITTING. -/
def State.capCommitted (s : State) (n : StreamId) (r : LrId) (x : LineReg) (g : Segment) : State :=
  let s₁ :=
    match g.mark with
    | some m => s.report (.segmentMark n m g.row)
    | none => s
  let s₂ :=
    if x.position = g.range then s₁.count n fun c => { c with completed := satAdd c.completed 1 }
    else
      let given := x.position - Config.sectionCells * sectionCount x.filled
      (s₁.report (.segmentAbandoned n g.row .stop given)).capAbandonCount n given
  let s₃ := (s₂.setLr r (x.cleared none)).capFinish n ⟨x.takeSeq, g⟩
  (s₃.capTake n).checkStopped n

/-- The hold expiry of a capture register that holds segment `g` (R68, R121). -/
def State.capExpiry (s : State) (n : StreamId) (r : LrId) (g : Segment) : State :=
  let x := s.lr r
  let wasReceiving := s.isReceiving r
  let s₁ := (s.report (.segmentAbandoned n g.row .stale x.position)).capAbandonCount n x.position
  let s₂ := (s₁.emptyReg r).capFinish n ⟨x.takeSeq, g⟩
  if wasReceiving then
    if (s₂.str n).stopRequest = some .afterSegment then s₂.capStopEffect n
    else if (s₂.str n).queue = [] then s₂.drain n
    else s₂.capTake n
  else (s₂.capTake n).checkStopped n

end Sys2Proof.Machine
end

