-- ==== Sys2Proof/Machine/PlaybackOps.lean ====
section
/-! DEFINITION. The playback stream engine (chapter 5): takes, reads, segment ends, underruns, drops, stops. -/

namespace Sys2Proof.Machine

/-- The current register of a playback stream: the earlier-taken one that holds a segment (R78). -/
def State.playCurrent (s : State) (n : StreamId) : Option LrId :=
  (s.heldRegs n).head?

/-- The stream is in a state that takes segments (R87). -/
def StreamRec.playTaking (x : StreamRec) : Bool :=
  x.direction == .playback && x.stopRequest == none
    && (x.state == .priming || x.state == .ready || x.state == .running || x.state == .starved)

/-- A free register takes the head of the queue and claims its load (R58, R87). -/
def State.playTakeOne (s : State) (n : StreamId) (r : LrId) : State :=
  if (s.lr r).isFree then
    match (s.str n).queue with
    | [] => s
    | g :: rest => (s.takeHead n r g rest .loading).raiseClaim ⟨.load, g.row, .register r, .stream⟩
  else s

/-- The free registers take, the even-numbered first (R87). -/
def State.playTakes (s : State) (n : StreamId) : State :=
  if (s.str n).playTaking then (s.playTakeOne n (evenReg n)).playTakeOne n (oddReg n) else s

/-- The remaining cells of a segment held by a register (R96). -/
def LineReg.remaining (x : LineReg) (g : Segment) : Nat :=
  (x.passesLeft - 1) * g.range + g.range - x.position

/-- The register moved on by one position; at a pass's end the next pass; none at the end of the last (R60, R61). -/
def LineReg.advanced (x : LineReg) (g : Segment) : Option LineReg :=
  if x.position + 1 < g.range then some { x with position := x.position + 1 }
  else if 1 < x.passesLeft then some { x with position := 0, passesLeft := x.passesLeft - 1 }
  else none

/-- In cyclic mode the finished segment's record joins the tail (R101). -/
def State.playCopy (s : State) (n : StreamId) (g : Segment) : State :=
  if (s.str n).cyclic then s.mapStr n fun x => { x with queue := x.queue ++ [g] } else s

/-- A stop takes effect with no begun segment held (R103): held segments return to the head in take order, the
registers are emptied, the stream passes to STOPPING or IDLE. -/
def State.playStopEffect (s : State) (n : StreamId) : State :=
  let back := (s.heldRegs n).filterMap fun r => (s.lr r).segment
  let s₁ := s.mapStr n fun x => { x with queue := back ++ x.queue, starvedRun := 0 }
  ((s₁.emptyReg (evenReg n)).emptyReg (oddReg n)).stopNext n

/-- The current register holds a begun segment (R103). In STARVED it is the waited segment, whether or not an edge has
met it since the drop that made it current (R104; log entry 25). -/
def State.playBegun (s : State) (n : StreamId) : Bool :=
  match s.playCurrent n with
  | some r => (s.lr r).begun || (s.str n).state == .starved
  | none => false

/-- A stop that takes effect at its execution (R104, R105): a begun segment is abandoned or, in STARVED, dropped. -/
def State.playStopNow (s : State) (n : StreamId) : State :=
  match s.playCurrent n with
  | none => s.playStopEffect n
  | some r =>
    let x := s.lr r
    match x.segment, s.playBegun n with
    | some g, true =>
      let s₁ :=
        if (s.str n).state = .starved then
          s.report (.streamUnderrun n g.row (s.str n).starvedRun .dropped)
        else s.report (.segmentAbandoned n g.row .stop (x.remaining g))
      let s₂ := s₁.count n fun c => { c with dropped := satAdd c.dropped 1 }
      ((s₂.emptyReg r).playCopy n g).playStopEffect n
    | _, _ => s.playStopEffect n

/-- The free registers take; with no segment held then the stream drains (R90 steps 4 and 5, R97 steps 6 and 7). -/
def State.playRefill (s : State) (n : StreamId) : State :=
  let s' := s.playTakes n
  if (s'.heldRegs n).isEmpty then s'.drain n else s'

/-- After a segment ended by completion (R90, R105). -/
def State.playAfterEnd (s : State) (n : StreamId) : State :=
  if (s.str n).stopRequest = some .afterSegment then s.playStopEffect n else s.playRefill n

/-- After a segment was dropped (R97, R105): a LOADED standby ends the episode. -/
def State.playAfterDrop (s : State) (n : StreamId) : State :=
  if (s.str n).stopRequest = some .afterSegment then s.playStopEffect n
  else
    match s.playCurrent n with
    | some r =>
      if (s.lr r).state = .loaded then (s.mapStr n fun x => { x with state := .running }).playRefill n
      else s.playRefill n
    | none => s.playRefill n

/-- An edge outputs a register cell (R60, R89, R91); `r` is the current register, LOADED or ACTIVE, and `g` its
segment. -/
def State.playRead (s : State) (n : StreamId) (r : LrId) (g : Segment) : State :=
  let x := s.lr r
  let cell := cellAt x.content (Config.sectionCells * g.first + x.position)
  let first := x.position == 0 && x.passesLeft == g.repeats
  let s₁ := s.mapStr n fun y => { y with state := .running, sd := some cell, smk := first && g.mark.isSome }
  let s₂ := s₁.count n fun c => { c with cellsMoved := satAdd c.cellsMoved 1 }
  let s₃ :=
    match g.mark with
    | some m => if first then s₂.report (.segmentMark n m g.row) else s₂
    | none => s₂
  match x.advanced g with
  | some x' => s₃.setLr r { x' with state := .active, holdTimer := some s.clock, begun := true }
  | none =>
    let s₄ := (s₃.emptyReg r).count n fun c => { c with completed := satAdd c.completed 1 }
    (s₄.playCopy n g).playAfterEnd n

/-- The waited segment is dropped under ALIGN (R97). -/
def State.playDrop (s : State) (n : StreamId) (r : LrId) (g : Segment) : State :=
  let run := (s.str n).starvedRun
  let s₁ := (s.emptyReg r).report (.streamUnderrun n g.row run .dropped)
  let s₂ := s₁.mapStr n fun x =>
    { x with starvedRun := 0, counters := { x.counters with dropped := satAdd x.counters.dropped 1 } }
  (s₂.playCopy n g).playAfterDrop n

/-- An edge that outputs the fill value (R81, R91). -/
def StreamRec.outputFill (x : StreamRec) : StreamRec :=
  { x with sd := some x.fill, smk := false }

/-- A starved edge against the waited segment `g` of register `r` (R94, R95, R96). -/
def State.playStarved (s : State) (n : StreamId) (r : LrId) (g : Segment) : State :=
  let s₁ := s.mapStr n fun x =>
    { x.outputFill with
      starvedRun := satAdd x.starvedRun 1
      counters := { x.counters with starvedCells := satAdd x.counters.starvedCells 1 } }
  match (s.str n).policy with
  | .hold => s₁.mapLr r fun x => { x with begun := true }
  | .align =>
    match (s.lr r).advanced g with
    | some x' => s₁.setLr r { x' with begun := true }
    | none => s₁.playDrop n r g

/-- An edge on a playback stream (R81, R88, R89, R94). -/
def State.playEdge (s : State) (n : StreamId) : State :=
  match (s.str n).state with
  | .disabled | .idle | .overrun => s
  | .priming | .drained | .stopping =>
    (s.mapStr n StreamRec.outputFill).count n fun c => { c with fillCells := satAdd c.fillCells 1 }
  | .ready | .running =>
    match s.playCurrent n with
    | none => s
    | some r =>
      match (s.lr r).segment, (s.lr r).state with
      | some g, .loaded | some g, .active => s.playRead n r g
      | some g, .loading | some g, .stale =>
        let s₁ := s.mapStr n fun x =>
          { x with state := .starved, counters := { x.counters with underruns := satAdd x.counters.underruns 1 } }
        s₁.playStarved n r g
      | _, _ => s
  | .starved =>
    match s.playCurrent n with
    | none => s
    | some r =>
      match (s.lr r).segment with
      | some g => s.playStarved n r g
      | none => s

/-- The register takes the row at a load's completion (R59). -/
def LineReg.loadedWith (x : LineReg) (cells : List CellVal) (lost : Bool) (clock : Nat) : LineReg :=
  { x with state := .loaded, content := cells, sourceLost := lost, holdTimer := some clock, reloading := false }

/-- A load that found its row LOST gives SEGMENT_LOST once for the segment held (R92). -/
def State.reportLoss (s : State) (n : StreamId) (r : LrId) (row : Nat) : State :=
  if (s.lr r).sourceLost && !(s.str n).lossReported r then
    (s.mapStr n fun x => x.setLossReported r true).report (.segmentLost n row)
  else s

/-- The waited load has completed: output resumes (R95, R96). -/
def State.playResume (s : State) (n : StreamId) (row : Nat) : State :=
  let run := (s.str n).starvedRun
  (s.mapStr n fun x => { x with state := .running, starvedRun := 0 }).report (.streamUnderrun n row run .resumed)

/-- The stream engine's part of a load's completion (R88, R92, R95, R96). -/
def State.playLoaded (s : State) (n : StreamId) (r : LrId) (g : Segment) (wasReload : Bool) : State :=
  let s₁ := if wasReload then s.count n fun c => { c with reloads := satAdd c.reloads 1 } else s
  let s₂ := s₁.reportLoss n r g.row
  if s₂.playCurrent n = some r then
    match (s₂.str n).state with
    | .priming => s₂.mapStr n fun x => { x with state := .ready }
    | .starved =>
      match (s₂.str n).policy with
      | .hold => s₂.playResume n g.row
      | .align => if 2 ≤ (s₂.lr r).remaining g then s₂.playResume n g.row else s₂
    | _ => s₂
  else s₂

/-- The hold expiry of a playback register (R63, R93). -/
def State.playExpiry (s : State) (n : StreamId) (r : LrId) (g : Segment) : State :=
  let wasCurrent := s.playCurrent n == some r
  let s₁ := s.mapLr r fun x => { x with state := .stale, holdTimer := none, reloading := true }
  let s₂ := s₁.raiseClaim ⟨.load, g.row, .register r, .stream⟩
  if (s.str n).state = .ready ∧ wasCurrent = true then s₂.mapStr n fun x => { x with state := .priming } else s₂

end Sys2Proof.Machine
end

