-- ==== Sys2Proof/Machine/SessionOps.lean ====
section
/-! DEFINITION. What the session requests and the completions of their claims share: the open session, bursts, reopens,
and COPY_ROW's beginning. -/

namespace Sys2Proof.Machine

/-- The OPEN operation left the row held for the session (R131, R132). -/
def State.openSession (s : State) (k : SlotId) : State :=
  s.setSlot k { s.slot k with state := .opened, holdStart := s.clock }

/-- A burst starts on the held row (R48, R132). -/
def State.startBurst (s : State) (k : SlotId) (row : Nat) (job : ColumnJob) : State :=
  (s.setCircuit (.bursting (some k) row job s.clock)).setPhase .bursting

/-- The reopen of a parked session for a column request (R132). -/
def State.raiseReopen (s : State) (k : SlotId) (job : ColumnJob) : State :=
  (s.raiseClaim ⟨.openRow, (s.slot k).row, .requestEngine, .host⟩).setPhase (.reopening k job)

/-- The column lies in the job's range. -/
def ColumnJob.covers (j : ColumnJob) (c : Nat) : Bool :=
  decide (j.first ≤ c ∧ c < j.first + j.count)

/-- What a burst leaves in column `c`, whose value was `old` (R133, R134). -/
def ColumnJob.newCell (j : ColumnJob) (c : Nat) (old : CellVal) : CellVal :=
  if j.covers c then
    let new := cellAt j.data (c - j.first)
    match j.action with
    | .read => old
    | .write none => new
    | .write (some mask) => (new &&& mask) ||| (old &&& ~~~mask)
    | .exchange => new
  else old

/-- The burst's effect on the cells of its row; no other row changes, no completion is recorded (R1, R2). -/
def State.applyBurst (s : State) (row : Nat) (j : ColumnJob) : State :=
  match j.action with
  | .read => s
  | _ =>
    let m := s.rat.memory
    { s with rat := { s.rat with memory := m.setRow row fun c => j.newCell c (m.read row c) } }

/-- The values a READ or EXCHANGE returns: those before the burst writes, in ascending column order (R133). -/
def State.burstData (s : State) (row : Nat) (j : ColumnJob) : List Byte :=
  match j.action with
  | .write _ => []
  | _ => (List.range j.count).flatMap fun i => cellBytes (s.rat.memory.read row (j.first + i))

/-- The flags of a column reply: LOST_DATA for a READ or EXCHANGE of a LOST row (R13, R168). -/
def State.burstFlags (s : State) (row : Nat) (j : ColumnJob) : Byte :=
  match j.action with
  | .write _ => 0
  | _ => replyFlags (s.row row).lost false

/-- The count a column request may carry (R132). -/
def ColumnJob.maxCount (j : ColumnJob) : Nat :=
  match j.action with
  | .exchange => 16
  | _ => 64

/-- The count and range checks of a column request (R132). -/
def ColumnJob.inRange (j : ColumnJob) : Bool :=
  decide (1 ≤ j.count ∧ j.count ≤ j.maxCount ∧ j.first + j.count ≤ Config.columns)

/-- A burst of the job started now ends within the open limit of the session's hold (R136). -/
def State.withinOpenLimit (s : State) (k : SlotId) (j : ColumnJob) : Bool :=
  decide (s.clock - (s.slot k).holdStart + j.count * Config.tCol ≤ Config.openLimit)

/-- COPY_ROW begins through LR4 (R72 step 1). -/
def State.startCopy (s : State) (job : CopyJob) : State :=
  let s₁ := s.setLr .lr4 { s.lrb.lr4.cleared none with state := .loading, copy := some job }
  (s₁.raiseClaim ⟨.copyLoad, job.source, .requestEngine, .host⟩).setPhase .copying

/-- LR4's discarded operation has completed: a COPY_ROW that waits for it begins (R74, R142). -/
def State.lr4Discarded (s : State) : State :=
  let s₁ := s.setLr .lr4 { s.lrb.lr4 with discardPending := none }
  match s₁.rqe.phase with
  | .copyWaiting job => s₁.startCopy job
  | _ => s₁

end Sys2Proof.Machine
end

