-- ==== Sys2Proof/Machine/Completions.lean ====
section
/-! DEFINITION. Completions of row operations and the end of a column burst (R3 to R9, R12, R47, R132). -/

namespace Sys2Proof.Machine

/-- The operation in flight, 250 ns or more after its grant (R39). -/
def State.completing (s : State) : Option Operation :=
  match s.inFlight with
  | some op => if s.live && s.elapsed op.grantedAt Config.tRow then some op else none
  | none => none

/-- A stream engine is told that a register is free (R71). -/
def State.streamTakes (s : State) (n : StreamId) : State :=
  match (s.str n).direction with
  | .playback => s.playTakes n
  | .capture => s.capTake n
  | .none => s

/-- A stream register's discarded operation has completed (R71, R106, R124). -/
def State.regDiscarded (s : State) (n : StreamId) (r : LrId) : State :=
  ((s.mapLr r fun x => { x with discardPending := none }).streamTakes n).checkStopped n

/-- LOAD_COMPLETION (R4, R59, R64, R71, R92). -/
def loadCompletion (tie : TieOrder) (s : State) : State :=
  match s.completing with
  | some op =>
    match op.claim.kind, op.claim.claimant with
    | .load, .register r =>
      match streamOf r with
      | some n =>
        let row := op.claim.row
        let lost := (s.row row).lost
        let s₁ := s.rowCompleted row
        if (s.lr r).discardPending = some .load then (s₁.regDiscarded n r).conclude tie
        else
          match (s.lr r).segment with
          | some g =>
            let s₂ := s₁.mapLr r fun x => x.loadedWith (s.rowCells row) lost s.clock
            (s₂.playLoaded n r g (s.lr r).reloading).conclude tie
          | none => s₁.settle
      | none => s
    | _, _ => s
  | none => s

/-- COMMIT_COMPLETION (R5, R12, R67, R71, R115). -/
def commitCompletion (tie : TieOrder) (s : State) : State :=
  match s.completing with
  | some op =>
    match op.claim.kind, op.claim.claimant with
    | .commit, .register r =>
      match streamOf r with
      | some n =>
        let row := op.claim.row
        let x := s.lr r
        let s₁ := s.writeSections row op.sections (cellAt x.content)
        let s₂ := s₁.updateRow row fun e => { e with lost := lostAfterWrite op.sections e.lost }
        let s₃ := s₂.rowCompleted row
        if x.discardPending = some .commit then (s₃.regDiscarded n r).conclude tie
        else
          match x.segment with
          | some g => (s₃.capCommitted n r x g).conclude tie
          | none => s₃.settle
      | none => s
    | _, _ => s
  | none => s

/-- COPY_LOAD_COMPLETION (R4, R72, R74). -/
def copyLoadCompletion (s : State) : State :=
  match s.completing with
  | some op =>
    match op.claim.kind with
    | .copyLoad =>
      let row := op.claim.row
      let x := s.lrb.lr4
      let lost := (s.row row).lost
      let s₁ := s.rowCompleted row
      if x.discardPending = some .copyLoad then s₁.lr4Discarded.settle
      else
        match x.copy with
        | some job =>
          let s₂ := s₁.setLr .lr4 (x.loadedWith (s.rowCells row) lost s.clock)
          (s₂.raiseClaim ⟨.copyCommit (rangeSections job.first job.count), job.dest, .requestEngine, .host⟩).settle
        | none => s₁.settle
    | _ => s
  | none => s

/-- COPY_COMMIT_COMPLETION (R6, R12, R72, R74, R142). -/
def copyCommitCompletion (tie : TieOrder) (s : State) : State :=
  match s.completing with
  | some op =>
    match op.claim.kind with
    | .copyCommit sections =>
      let row := op.claim.row
      let x := s.lrb.lr4
      let s₁ := s.writeSections row sections (cellAt x.content)
      let s₂ := s₁.updateRow row fun e => { e with lost := lostAfterCopy sections op.sourceLost e.lost }
      let s₃ := s₂.rowCompleted row
      if x.discardPending = some .copyCommit then s₃.lr4Discarded.settle
      else ((s₃.setLr .lr4 (x.cleared none)).finish .ok (replyFlags false op.sourceLost) []).conclude tie
    | _ => s
  | none => s

/-- FILL_COMPLETION (R7, R12, R140, R141). -/
def fillCompletion (tie : TieOrder) (s : State) : State :=
  match s.completing with
  | some op =>
    match op.claim.kind with
    | .fill value mask =>
      let row := op.claim.row
      let s₁ := s.writeSections row mask fun _ => value
      let s₂ := s₁.updateRow row fun e => { e with lost := lostAfterWrite mask e.lost }
      let s₃ := s₂.rowCompleted row
      if op.discarded then s₃.settle
      else
        match s.rqe.phase with
        | .filling first last current v m =>
          if current < last then
            let s₄ := s₃.raiseClaim ⟨.fill v m, current + 1, .requestEngine, .host⟩
            (s₄.setPhase (.filling first last (current + 1) v m)).settle
          else (s₃.finish .ok 0 (natBytes2 (last - first + 1))).conclude tie
        | _ => s₃.settle
    | _ => s
  | none => s

/-- REFRESH_COMPLETION (R9, R25, R32, R33). -/
def refreshCompletion (tie : TieOrder) (s : State) : State :=
  match s.completing with
  | some op =>
    match op.claim.kind with
    | .refresh =>
      let s₁ := s.rowCompleted op.claim.row
      if op.claim.cls = .host ∧ op.discarded = false then
        match s.rqe.phase with
        | .refreshing first last current =>
          if current < last then
            let s₂ := s₁.raiseClaim ⟨.refresh, current + 1, .requestEngine, .host⟩
            (s₂.setPhase (.refreshing first last (current + 1))).settle
          else (s₁.finish .ok 0 (natBytes2 (last - first + 1))).conclude tie
        | _ => s₁.settle
      else s₁.settle
    | _ => s
  | none => s

/-- The end of the initial scrub (R18). -/
def State.initDone (s : State) (row : Nat) : State :=
  if s.rat.state = .init ∧ row = 511 then
    { s with rat := { s.rat with state := .ready } }.report .initDone
  else s

/-- SCRUB_COMPLETION (R8, R17, R18, R31). -/
def scrubCompletion (s : State) : State :=
  match s.completing with
  | some op =>
    match op.claim.kind with
    | .scrub =>
      let row := op.claim.row
      let s₁ := s.writeSections row allSections fun _ => op.value
      let s₂ := s₁.updateRow row fun e => { e with scrubPending := false }
      let s₃ := { s₂ with rfe := { s₂.rfe with scrubList := s₂.rfe.scrubList.erase row } }
      ((s₃.rowCompleted row).initDone row).settle
    | _ => s
  | none => s

/-- OPEN_COMPLETION (R9, R49, R131, R132, R145). -/
def openCompletion (tie : TieOrder) (s : State) : State :=
  match s.completing with
  | some op =>
    match op.claim.kind with
    | .openRow =>
      let row := op.claim.row
      let s₁ := s.rowCompleted row
      if op.discarded then s₁.settle
      else
        match s.rqe.phase with
        | .opening k =>
          let s₂ := (s₁.setCircuit (.held k row)).openSession k
          let s₃ := s₂.finish .ok 0 [slotCode k, (s.slot k).generation]
          (s₃.restartIdle k).conclude tie
        | .reopening k job => (s₁.openSession k).startBurst k row job
        | _ => s₁.settle
    | _ => s
  | none => s

/-- COLUMN_BURST_END (R48, R132 to R135, R145; log entry 12). -/
def columnBurstEnd (tie : TieOrder) (s : State) : State :=
  match s.arb.circuit with
  | .bursting slot row job start =>
    if s.live && s.elapsed start (job.count * Config.tCol) then
      let s₁ := s.applyBurst row job
      match slot with
      | none => (s₁.setCircuit .free).settle
      | some k =>
        let s₂ := (s₁.setCircuit (.held k row)).finish .ok (s.burstFlags row job) (s.burstData row job)
        (s₂.restartIdle k).conclude tie
    else s
  | _ => s

def execLoadCompletion (m : Moment) (s : State) : Host.Outcome State Fault Refusal :=
  .next (loadCompletion m.tie (s.advance m.dt))

def execCommitCompletion (m : Moment) (s : State) : Host.Outcome State Fault Refusal :=
  .next (commitCompletion m.tie (s.advance m.dt))

def execCopyLoadCompletion (dt : Nat) (s : State) : Host.Outcome State Fault Refusal :=
  .next (copyLoadCompletion (s.advance dt))

def execCopyCommitCompletion (m : Moment) (s : State) : Host.Outcome State Fault Refusal :=
  .next (copyCommitCompletion m.tie (s.advance m.dt))

def execFillCompletion (m : Moment) (s : State) : Host.Outcome State Fault Refusal :=
  .next (fillCompletion m.tie (s.advance m.dt))

def execRefreshCompletion (m : Moment) (s : State) : Host.Outcome State Fault Refusal :=
  .next (refreshCompletion m.tie (s.advance m.dt))

def execScrubCompletion (dt : Nat) (s : State) : Host.Outcome State Fault Refusal :=
  .next (scrubCompletion (s.advance dt))

def execOpenCompletion (dt : Nat) (tie : TieOrder) (s : State) : Host.Outcome State Fault Refusal :=
  .next (openCompletion tie (s.advance dt))

def execColumnBurstEnd (dt : Nat) (tie : TieOrder) (s : State) : Host.Outcome State Fault Refusal :=
  .next (columnBurstEnd tie (s.advance dt))

end Sys2Proof.Machine
end

