-- ==== Sys2Proof/Machine/Link.lean ====
section
/-! DEFINITION. The host link (chapter 8) and RESET, which takes effect at its admission (R173). -/

namespace Sys2Proof.Machine

/-! ## HDO -/

/-- The level of HDO at the rising edge `k` of HCK of a transaction in progress (R147, R148); none is high impedance. -/
def HostLink.hdo (h : HostLink) (k : Nat) : Option Bool :=
  h.txn.map fun t => frameBit t.frame k

/-! ## HCS_FALL -/

/-- The frame the fall of HCS selects, with every byte fixed (R148, R154). -/
def State.selectFrame (s : State) : Transaction :=
  match s.hlc.outq with
  | [] => ⟨false, frameBytes s.hlc.admTag s.hlc.admResult 0x00 []⟩
  | f :: _ => ⟨true, frameBytes s.hlc.admTag s.hlc.admResult f.typeCode f.body⟩

/-- A loss marker whose bytes have just been fixed (R183). -/
def Frame.fixed : Frame → Frame
  | .lossMarker count _ => .lossMarker count 0
  | f => f

/-- HCS_FALL (R148, R159). -/
def hcsFall (s : State) : State :=
  if s.live && s.hlc.hcsHigh then
    let outq :=
      match s.hlc.outq with
      | [] => []
      | f :: rest => f.fixed :: rest
    { s with hlc := { s.hlc with hcsHigh := false, txn := some s.selectFrame, outq := outq } }
  else { s with hlc := { s.hlc with hcsHigh := false } }

/-! ## RESET -/

/-- The circuit at a RESET (R52, R145): a host operation in flight is discarded, a burst in flight loses its session,
a held row is closed. -/
def Circuit.abandoned : Circuit → Circuit
  | .operating op => .operating { op with discarded := op.discarded || op.claim.cls == .host }
  | .held _ _ => .free
  | .bursting _ row job start => .bursting none row job start
  | c => c

/-- RESET at its admission, block by block (R173, R174). -/
def State.resetRequest (s : State) (req : Request) : State :=
  let s₁ := s.withdraw fun c => c.cls == .stream || c.cls == .host
  let s₂ := ((((s₁.emptyReg .lr0).emptyReg .lr1).emptyReg .lr2).emptyReg .lr3).emptyReg .lr4
  let s₃ := (((s₂.freeSession .k0).freeSession .k1).freeSession .k2).freeSession .k3
  let status : Status := if req.payload = [] then .ok else .badPayload
  { s₃ with
    rat := { s₃.rat with lossFill := 0 }
    arb := { s₃.arb with circuit := s₃.arb.circuit.abandoned, preferred := .s0 }
    ste := .atInit
    rqe := { queue := [], tags := [req.tag], phase := .free }
    hlc := { s₃.hlc with outq := [.reply req.tag status 0 []], attn := true }
    ntu := .atInit }.setMode .auto

/-! ## TRANSACTION_END -/

/-- The removal of the frame sent, if its last byte was shifted out (R155, R183). -/
def State.removeSent (s : State) (t : Transaction) (n : Nat) : State :=
  if t.queued && decide (t.frame.length ≤ n) then
    match s.hlc.outq with
    | [] => s
    | .reply tag _ _ _ :: rest =>
      { s with
        hlc := { s.hlc with outq := rest, attn := !rest.isEmpty }
        rqe := { s.rqe with tags := s.rqe.tags.erase tag } }
    | .notice _ :: rest => { s with hlc := { s.hlc with outq := rest, attn := !rest.isEmpty } }
    | .lossMarker _ added :: rest =>
      if added = 0 then { s with hlc := { s.hlc with outq := rest, attn := !rest.isEmpty } }
      else { s with hlc := { s.hlc with outq := .lossMarker added added :: rest } }
  else s

/-- The admission result of the bytes received (R151). -/
def State.admission (s : State) (bytes : List Byte) : AdmResult :=
  match parseInbound bytes with
  | .error r => r
  | .ok req =>
    if s.rqe.tags.contains req.tag then .dupTag
    else if s.rqe.tags.length < Config.maxOutstanding ∨ req.kind = .reset then .accepted
    else .full

/-- The admission: an accepted request joins the queue and its tag the set; a RESET takes effect (R152, R173). -/
def State.admitFrame (s : State) (bytes : List Byte) : State :=
  match parseInbound bytes with
  | .error _ => s
  | .ok req =>
    if s.admission bytes = .accepted then
      if req.kind = .reset then s.resetRequest req
      else { s with rqe := { s.rqe with queue := s.rqe.queue ++ [req], tags := s.rqe.tags ++ [req.tag] } }
    else s

/-- The end of a transaction in progress, in R152's order: removal, admission, report. As many whole bytes were shifted
out as in (R147). -/
def State.endTransaction (s : State) (t : Transaction) (bits : List Bool) : State :=
  let bytes := bytesOf bits
  let s₁ := s.removeSent t bytes.length
  let s₂ := s₁.admitFrame bytes
  { s₂ with
    hlc := { s₂.hlc with
      hcsHigh := true
      txn := none
      admTag := receivedTag bytes
      admResult := s₁.admission bytes
      lastSent := (List.range bits.length).map (frameBit t.frame) } }.settle

/-- TRANSACTION_END: the rise of HCS; without a transaction in progress it is no transaction end (R151, R159). -/
def transactionEnd (bits : List Bool) (s : State) : State :=
  match s.hlc.txn with
  | some t => if s.live then s.endTransaction t bits else { s with hlc := { s.hlc with hcsHigh := true } }
  | none => { s with hlc := { s.hlc with hcsHigh := true } }

def execHcsFall (dt : Nat) (s : State) : Host.Outcome State Fault Refusal :=
  .next (hcsFall (s.advance dt))

def execTransactionEnd (dt : Nat) (bits : List Bool) (s : State) : Host.Outcome State Fault Refusal :=
  .next (transactionEnd bits (s.advance dt))

end Sys2Proof.Machine
end

