-- ==== Sys2Proof/Machine/Ports.lean ====
section
/-! DEFINITION. Edges of the cell clocks (R81, R89, R113) and the expiries of timers (R63, R73, R121, R139). -/

namespace Sys2Proof.Machine

/-- PLAYBACK_EDGE: a rising SCKn edge on a stream set up for playback (R81, R89; log entry 20). -/
def playbackEdge (n : StreamId) (s : State) : State :=
  if s.live = true ∧ (s.str n).direction = .playback then (s.playEdge n).settle else s

/-- CAPTURE_EDGE: a rising SCKn edge on a stream set up for capture, with SDn's level as its cell (R110, R113). -/
def captureEdge (n : StreamId) (cell : CellVal) (s : State) : State :=
  if s.live = true ∧ (s.str n).direction = .capture then (s.capEdge n cell).settle else s

/-- The register's hold timer has run out (R62). -/
def State.holdExpired (s : State) (r : LrId) : Bool :=
  match (s.lr r).holdTimer with
  | some start => s.elapsed start Config.holdLimit
  | none => false

/-- PLAYBACK_HOLD_EXPIRY of a register LOADED or ACTIVE (R63, R93). -/
def playbackHoldExpiry (r : LrId) (s : State) : State :=
  match streamOf r, (s.lr r).segment with
  | some n, some g =>
    if s.live = true ∧ (s.str n).direction = .playback ∧ s.holdExpired r = true
        ∧ ((s.lr r).state = .loaded ∨ (s.lr r).state = .active) then
      (s.playExpiry n r g).settle
    else s
  | _, _ => s

/-- CAPTURE_HOLD_EXPIRY of a register ACTIVE or FULL (R68, R121). -/
def captureHoldExpiry (r : LrId) (s : State) : State :=
  match streamOf r, (s.lr r).segment with
  | some n, some g =>
    if s.live = true ∧ (s.str n).direction = .capture ∧ s.holdExpired r = true
        ∧ ((s.lr r).state = .active ∨ (s.lr r).state = .full) then
      (s.capExpiry n r g).settle
    else s
  | _, _ => s

/-- LR4_HOLD_EXPIRY in LOADED: the COPY_COMMIT is withdrawn and the copy answered STALE (R73). -/
def lr4HoldExpiry (s : State) : State :=
  if s.live = true ∧ s.holdExpired .lr4 = true ∧ s.lrb.lr4.state = .loaded then
    ((s.emptyReg .lr4).finish .stale 0 []).settle
  else s

/-- IDLE_EXPIRY of a slot (R139: "the session is PARKED when its timer expires"): the slot is freed and SESSION_EXPIRED
reported. -/
def idleExpiry (k : SlotId) (s : State) : State :=
  match (s.slot k).idleTimer with
  | some start =>
    if s.live = true ∧ (s.slot k).inUse = true ∧ (s.slot k).state = .parked
        ∧ s.elapsed start Config.idleLimit = true then
      (s.freeSession k).report (.sessionExpired k (s.slot k).generation)
    else s
  | none => s

def execPlaybackEdge (dt : Nat) (n : StreamId) (s : State) : Host.Outcome State Fault Refusal :=
  .next (playbackEdge n (s.advance dt))

def execCaptureEdge (dt : Nat) (n : StreamId) (cell : CellVal) (s : State) : Host.Outcome State Fault Refusal :=
  .next (captureEdge n cell (s.advance dt))

def execPlaybackHoldExpiry (dt : Nat) (r : LrId) (s : State) : Host.Outcome State Fault Refusal :=
  if (streamOf r).isSome then .next (playbackHoldExpiry r (s.advance dt)) else .fault .notAStreamRegister

def execCaptureHoldExpiry (dt : Nat) (r : LrId) (s : State) : Host.Outcome State Fault Refusal :=
  if (streamOf r).isSome then .next (captureHoldExpiry r (s.advance dt)) else .fault .notAStreamRegister

def execLr4HoldExpiry (dt : Nat) (s : State) : Host.Outcome State Fault Refusal :=
  .next (lr4HoldExpiry (s.advance dt))

def execIdleExpiry (dt : Nat) (k : SlotId) (s : State) : Host.Outcome State Fault Refusal :=
  .next (idleExpiry k (s.advance dt))

end Sys2Proof.Machine
end

