-- ==== Sys2Proof/Machine/Requests.lean ====
section
/-! DEFINITION. The beginning of the head request (R163): IDENTIFY, STATUS, CONFIGURE, FILL_ROWS, COPY_ROW, REFRESH,
ROW_QUERY. -/

namespace Sys2Proof.Machine

/-- The payload of the head request, where it is of the kind and has not been begun (R163; log entry 4). -/
def State.beginning (s : State) (k : RequestKind) : Option (List Byte) :=
  if s.live = true ∧ s.rqe.phase = .free then
    match s.rqe.queue with
    | r :: _ => if r.kind = k then some r.payload else none
    | [] => none
  else none

/-- The end of a beginning that leaves no row held (R135): a close that waited for it is made (R43), then the arbiter
acts, or the next request is begun. -/
def State.begun (s : State) (tie : TieOrder) : State :=
  s.closeHeld.conclude tie

/-- The array is in INIT (R169). -/
def State.inInit (s : State) : Bool :=
  s.rat.state == .init

/-- IDENTIFY's fixed values (R170, R178). -/
def identityData : List Byte :=
  [0x4B] ++ cellBytes 0x2516 ++ [0x01] ++ natBytes2 512 ++ natBytes2 256 ++ [0x05]

/-- IDENTIFY (R170). -/
def identify (tie : TieOrder) (s : State) : State :=
  match s.beginning .identify with
  | none => s
  | some payload => (if payload = [] then s.finish .ok 0 identityData else s.refuse .badPayload).begun tie

/-- Rows whose LOST flag is set (R35). -/
def State.lostRows (s : State) : Nat :=
  (s.rat.table.filter RowEntry.lost).length

/-- The age of the head of the order list, as reported (R35). -/
def State.headAge (s : State) : Nat :=
  match s.rfe.order with
  | [] => 0
  | r :: _ => s.ageMicros r

/-- STATUS's values (R171, R178). -/
def State.statusData (s : State) : List Byte :=
  [s.rat.state.code, s.rfe.mode.code] ++ natBytes2 s.lostRows ++ natBytes2 s.headAge
    ++ [s.ste.st0.state.code, s.ste.st1.state.code, natByte s.slotsInUse, natByte s.rqe.tags.length]
    ++ cellBytes s.ntu.lostTotal

/-- STATUS (R171). -/
def status (tie : TieOrder) (s : State) : State :=
  match s.beginning .status with
  | none => s
  | some payload => (if payload = [] then s.finish .ok 0 s.statusData else s.refuse .badPayload).begun tie

/-- The three settings (R172, R178). -/
def State.settingsData (s : State) : List Byte :=
  [s.rfe.mode.code] ++ cellBytes s.rat.lossFill ++ cellBytes (s.ntu.mask.setWidth 16)

/-- The present fields take effect: notice mask, loss fill value, refresh mode (R172). -/
def State.applySettings (s : State) (mode : Option RefreshMode) (lossFill mask : Option CellVal) : State :=
  let s₁ := match mask with
    | some m => { s with ntu := { s.ntu with mask := m.setWidth 10 } }
    | none => s
  let s₂ := match lossFill with
    | some v => { s₁ with rat := { s₁.rat with lossFill := v } }
    | none => s₁
  match mode with
  | some m => s₂.setMode m
  | none => s₂

/-- A present mode's code is known, and a present mask has no bit above the ten (R172). -/
def ConfigureFields.inRange (f : ConfigureFields) : Bool :=
  (match f.mode with
    | some b => (RefreshMode.ofCode b).isSome
    | none => true)
    && (match f.mask with
      | some m => decide (m.toNat < 1024)
      | none => true)

/-- CONFIGURE (R172). -/
def configure (tie : TieOrder) (s : State) : State :=
  match s.beginning .configure with
  | none => s
  | some payload =>
    match parseConfigure payload with
    | none => (s.refuse .badPayload).begun tie
    | some f =>
      if f.inRange then
        let s₁ := s.applySettings (f.mode.bind RefreshMode.ofCode) f.lossFill f.mask
        (s₁.finish .ok 0 s₁.settingsData).begun tie
      else (s.refuse .range).begun tie

/-- The section mask byte is in range: some section, and no bit above the four (R140). -/
def fillMaskOk (m : Byte) : Bool :=
  decide (1 ≤ m.toNat ∧ m.toNat ≤ 15)

/-- FILL_ROWS (R140). -/
def fillRows (tie : TieOrder) (s : State) : State :=
  match s.beginning .fillRows with
  | none => s
  | some payload =>
    match parseFill payload with
    | none => (s.refuse .badPayload).begun tie
    | some (first, last, value, m) =>
      if Config.rows ≤ last ∨ last < first ∨ fillMaskOk m = false then (s.refuse .range).begun tie
      else if s.inInit then (s.refuse .notReady).begun tie
      else
        let mask : SectionSet := m.setWidth 4
        let s₁ := s.raiseClaim ⟨.fill value mask, first, .requestEngine, .host⟩
        (s₁.setPhase (.filling first last first value mask)).begun tie

/-- The fields of a COPY_ROW are in range (R142). -/
def CopyJob.inRange (j : CopyJob) : Bool :=
  decide (j.source < Config.rows ∧ j.dest < Config.rows ∧ j.first ≤ 3 ∧ 1 ≤ j.count ∧ j.count ≤ 4 - j.first)

/-- COPY_ROW (R72, R74, R142). -/
def copyRow (tie : TieOrder) (s : State) : State :=
  match s.beginning .copyRow with
  | none => s
  | some payload =>
    match parseCopy payload with
    | none => (s.refuse .badPayload).begun tie
    | some job =>
      if job.inRange = false then (s.refuse .range).begun tie
      else if s.inInit then (s.refuse .notReady).begun tie
      else if s.lrb.lr4.discardPending.isSome then (s.setPhase (.copyWaiting job)).begun tie
      else (s.startCopy job).begun tie

/-- REFRESH (R32). -/
def refresh (tie : TieOrder) (s : State) : State :=
  match s.beginning .refresh with
  | none => s
  | some payload =>
    match parseRefresh payload with
    | none => (s.refuse .badPayload).begun tie
    | some (first, last) =>
      if Config.rows ≤ last ∨ last < first then (s.refuse .range).begun tie
      else if s.inInit then (s.refuse .notReady).begun tie
      else
        let s₁ := s.raiseClaim ⟨.refresh, first, .requestEngine, .host⟩
        (s₁.setPhase (.refreshing first last first)).begun tie

/-- One entry of a ROW_QUERY reply (R34, R178). -/
def State.rowQueryEntry (s : State) (r : Nat) : List Byte :=
  (boolByte (s.row r).lost ||| (if (s.row r).scrubPending then 0x02 else 0x00)) :: natBytes2 (s.ageMicros r)

/-- ROW_QUERY (R34). -/
def rowQuery (tie : TieOrder) (s : State) : State :=
  match s.beginning .rowQuery with
  | none => s
  | some payload =>
    match parseRowQuery payload with
    | none => (s.refuse .badPayload).begun tie
    | some (first, count) =>
      if count = 0 ∨ 64 < count ∨ Config.rows ≤ first ∨ Config.rows < first + count then (s.refuse .range).begun tie
      else (s.finish .ok 0 ((List.range count).flatMap fun i => s.rowQueryEntry (first + i))).begun tie

def execIdentify (m : Moment) (s : State) : Host.Outcome State Fault Refusal :=
  .next (identify m.tie (s.advance m.dt))

def execStatus (m : Moment) (s : State) : Host.Outcome State Fault Refusal :=
  .next (status m.tie (s.advance m.dt))

def execConfigure (m : Moment) (s : State) : Host.Outcome State Fault Refusal :=
  .next (configure m.tie (s.advance m.dt))

def execFillRows (m : Moment) (s : State) : Host.Outcome State Fault Refusal :=
  .next (fillRows m.tie (s.advance m.dt))

def execCopyRow (m : Moment) (s : State) : Host.Outcome State Fault Refusal :=
  .next (copyRow m.tie (s.advance m.dt))

def execRefresh (m : Moment) (s : State) : Host.Outcome State Fault Refusal :=
  .next (refresh m.tie (s.advance m.dt))

def execRowQuery (m : Moment) (s : State) : Host.Outcome State Fault Refusal :=
  .next (rowQuery m.tie (s.advance m.dt))

end Sys2Proof.Machine
end

