-- ==== Sys2Proof/Machine/Retention.lean ====
section
/-! DEFINITION. The thresholds of a row's age (R21, R23, R24, R26, R29). -/

namespace Sys2Proof.Machine

/-- ROUTINE_THRESHOLD: the head row's age has reached 4.0 ms (R23). -/
def routineThreshold (s : State) : State :=
  if s.live then s.checkRoutine.settle else s

/-- URGENT_CROSSING of a row: taken at 7.0 ms, once between two completions, with nothing on the row and no scrub
pending (R21); an URGENT claim in AUTO (R24), ROW_AGING in HOSTED (R26). -/
def urgentCrossing (row : Nat) (s : State) : State :=
  if s.live = true ∧ Config.urgentAge ≤ s.age row ∧ (s.row row).crossed = false ∧ s.undisturbed row = true then
    let s₁ := s.markCrossed row
    match s.rfe.mode with
    | .auto => ((s₁.withdraw fun c => c.cls == .routine && c.row == row).raiseUrgent row).settle
    | .hosted => s₁.report (.rowAging row)
  else s

/-- DEADLINE of a row: taken at 8.0 ms with nothing on the row and no scrub pending (R21). LOST and scrub pending, the
scrub list, a SCRUB claim, ROW_LOST (R11, R29). -/
def deadline (row : Nat) (s : State) : State :=
  if s.live = true ∧ Config.deadlineAge ≤ s.age row ∧ s.undisturbed row = true then
    let s₁ := s.updateRow row fun e => { e with lost := true, scrubPending := true }
    let s₂ := { s₁ with rfe := { s₁.rfe with scrubList := s₁.rfe.scrubList ++ [row] } }
    ((s₂.raiseClaim ⟨.scrub, row, .refreshEngine, .scrub⟩).report (.rowLost row)).settle
  else s

def execRoutineThreshold (dt : Nat) (s : State) : Host.Outcome State Fault Refusal :=
  .next (routineThreshold (s.advance dt))

def execUrgentCrossing (dt row : Nat) (s : State) : Host.Outcome State Fault Refusal :=
  if row < Config.rows then .next (urgentCrossing row (s.advance dt)) else .fault .noSuchRow

def execDeadline (dt row : Nat) (s : State) : Host.Outcome State Fault Refusal :=
  if row < Config.rows then .next (deadline row (s.advance dt)) else .fault .noSuchRow

end Sys2Proof.Machine
end

