-- ==== Sys2Proof/Machine/SessionRequests.lean ====
section
/-! DEFINITION. OPEN, CLOSE, READ, WRITE and EXCHANGE (chapter 7). -/

namespace Sys2Proof.Machine

/-- OPEN (R130). -/
def openRow (tie : TieOrder) (s : State) : State :=
  match s.beginning .openRow with
  | none => s
  | some payload =>
    match parseOpen payload with
    | none => (s.refuse .badPayload).begun tie
    | some row =>
      if Config.rows ≤ row then (s.refuse .range).begun tie
      else if s.inInit then (s.refuse .notReady).begun tie
      else
        match s.freeSlot with
        | none => (s.refuse .noSlot).begun tie
        | some k =>
          let x := s.slot k
          let s₁ := s.setSlot k
            { x with inUse := true, generation := x.generation + 1, row := row, state := .parked, idleTimer := none }
          ((s₁.raiseClaim ⟨.openRow, row, .requestEngine, .host⟩).setPhase (.opening k)).begun tie

/-- CLOSE (R138). -/
def close (tie : TieOrder) (s : State) : State :=
  match s.beginning .close with
  | none => s
  | some payload =>
    match parseHandle payload with
    | none => (s.refuse .badPayload).begun tie
    | some (slotByte, generation) =>
      match s.findSession slotByte generation with
      | none => (s.refuse .noSession).begun tie
      | some k => ((s.closeHeld.freeSession k).finish .ok 0 []).begun tie

/-- The reopen of the session for its request, a held row closed before or after the raising (R43, R132). -/
def State.reopen (s : State) (k : SlotId) (job : ColumnJob) (tie : TieOrder) : State :=
  match tie with
  | .closeFirst => (s.closeHeld.settle.raiseReopen k job).settle
  | .raiseFirst => (s.raiseReopen k job).closeHeld.settle

/-- A column request whose payload is well formed (R132, R136, R139). -/
def State.columnRequest (s : State) (f : ColumnFields) (tie : TieOrder) : State :=
  match s.findSession f.slot f.generation with
  | none => (s.refuse .noSession).begun tie
  | some k =>
    if f.job.inRange = false then
      let s₁ := ((s.stopIdle k).refuse .range).restartIdle k
      match s.arb.circuit with
      | .held k' _ => if k' = k then s₁.conclude tie else s₁.begun tie
      | _ => s₁.begun tie
    else
      let s₁ := s.stopIdle k
      match s.arb.circuit with
      | .held k' row =>
        if k' = k then
          if s.withinOpenLimit k f.job then s₁.startBurst k row f.job else s₁.reopen k f.job tie
        else s₁.reopen k f.job .raiseFirst
      | _ => s₁.reopen k f.job .raiseFirst

/-- READ (R132, R133). -/
def read (tie : TieOrder) (s : State) : State :=
  match s.beginning .read with
  | none => s
  | some payload =>
    match parseRead payload with
    | none => (s.refuse .badPayload).begun tie
    | some f => s.columnRequest f tie

/-- WRITE (R132, R134). -/
def write (tie : TieOrder) (s : State) : State :=
  match s.beginning .write with
  | none => s
  | some payload =>
    match parseWrite payload with
    | none => (s.refuse .badPayload).begun tie
    | some f => s.columnRequest f tie

/-- EXCHANGE (R132, R133). -/
def exchange (tie : TieOrder) (s : State) : State :=
  match s.beginning .exchange with
  | none => s
  | some payload =>
    match parseExchange payload with
    | none => (s.refuse .badPayload).begun tie
    | some f => s.columnRequest f tie

def execOpenRow (m : Moment) (s : State) : Host.Outcome State Fault Refusal :=
  .next (openRow m.tie (s.advance m.dt))

def execClose (m : Moment) (s : State) : Host.Outcome State Fault Refusal :=
  .next (close m.tie (s.advance m.dt))

def execRead (dt : Nat) (tie : TieOrder) (s : State) : Host.Outcome State Fault Refusal :=
  .next (read tie (s.advance dt))

def execWrite (dt : Nat) (tie : TieOrder) (s : State) : Host.Outcome State Fault Refusal :=
  .next (write tie (s.advance dt))

def execExchange (dt : Nat) (tie : TieOrder) (s : State) : Host.Outcome State Fault Refusal :=
  .next (exchange tie (s.advance dt))

end Sys2Proof.Machine
end

