-- ==== Sys2Proof/Machine/StreamRequests.lean ====
section
/-! DEFINITION. The stream requests (sections 5.3, 5.7 and 6.8). -/

namespace Sys2Proof.Machine

/-- The three enumerated fields of a STREAM_SETUP, decoded (R78, R82). -/
def SetupFields.decoded (f : SetupFields) : Option (Direction × Policy × Bool) :=
  match Direction.ofCode f.direction, Policy.ofCode f.policy, cyclicOfCode f.cyclic with
  | some d, some p, some c => some (d, p, c)
  | _, _, _ => none

/-- The stream is DISABLED or IDLE. -/
def StreamRec.unstarted (x : StreamRec) : Bool :=
  x.state == .disabled || x.state == .idle

/-- The record after an accepted STREAM_SETUP (R82, R127). -/
def StreamRec.setUp (x : StreamRec) (d : Direction) (p : Policy) (fill : CellVal) (cyclic : Bool) : StreamRec :=
  { x with
    direction := d
    state := if d = .none then .disabled else .idle
    policy := p
    fill := fill
    cyclic := cyclic
    queue := []
    stopRequest := none
    starvedRun := 0
    counters := .zero
    overrunSegment := none
    overrunCount := 0
    waiting := [] }

/-- STREAM_SETUP (R82). -/
def streamSetup (tie : TieOrder) (s : State) : State :=
  match s.beginning .streamSetup with
  | none => s
  | some payload =>
    match parseSetup payload with
    | none => (s.refuse .badPayload).begun tie
    | some f =>
      match streamOfCode f.stream with
      | none => (s.refuse .range).begun tie
      | some n =>
        if (s.str n).unstarted = false then (s.refuse .state).begun tie
        else
          match f.decoded with
          | none => (s.refuse .range).begun tie
          | some (d, p, c) => ((s.mapStr n fun x => x.setUp d p f.fill c).finish .ok 0 []).begun tie

/-- The segments join the tail; a stream in DRAINED leaves it; free registers take (R83, R87, R100, R112, R120). SDn keeps
its level until the next edge (R81; log entry 24). -/
def State.appendSegments (s : State) (n : StreamId) (gs : List Segment) : State :=
  let s₁ := s.mapStr n fun x => { x with queue := x.queue ++ gs }
  match (s.str n).direction with
  | .playback =>
    (if (s.str n).state = .drained then s₁.mapStr n fun x => { x with state := .priming } else s₁).playTakes n
  | .capture =>
    (if (s.str n).state = .drained then s₁.mapStr n fun x => { x with state := .ready } else s₁).capTake n
  | .none => s₁

/-- STREAM_APPEND (R83). -/
def streamAppend (tie : TieOrder) (s : State) : State :=
  match s.beginning .streamAppend with
  | none => s
  | some payload =>
    match parseAppend payload with
    | none => (s.refuse .badPayload).begun tie
    | some (b, gs) =>
      match streamOfCode b with
      | none => (s.refuse .range).begun tie
      | some n =>
        if (s.str n).state = .disabled then (s.refuse .state).begun tie
        else if (gs.all fun g => g.valid (s.str n).direction) = false then (s.refuse .range).begun tie
        else if Config.maxSegments < s.segmentTotal n + gs.length then (s.refuse .queueFull).begun tie
        else
          let s₁ := s.appendSegments n gs
          (s₁.finish .ok 0 [natByte (s₁.str n).queue.length, natByte (s₁.heldRegs n).length]).begun tie

/-- The stream is started (R84, R87, R112). -/
def State.startStream (s : State) (n : StreamId) : State :=
  match (s.str n).direction with
  | .playback =>
    (s.mapStr n fun x => { x with state := .priming, sd := some x.fill, smk := false, starvedRun := 0 }).playTakes n
  | .capture => (s.mapStr n fun x => { x with state := .ready }).capTake n
  | .none => s

/-- STREAM_START (R84). -/
def streamStart (tie : TieOrder) (s : State) : State :=
  match s.beginning .streamStart with
  | none => s
  | some payload =>
    match parseStream payload with
    | none => (s.refuse .badPayload).begun tie
    | some b =>
      match streamOfCode b with
      | none => (s.refuse .range).begun tie
      | some n =>
        if s.inInit then (s.refuse .notReady).begun tie
        else if (s.str n).state ≠ .idle then (s.refuse .state).begun tie
        else ((s.startStream n).finish .ok 0 []).begun tie

/-- The stop is recorded; it takes effect at once, or waits for the end of the begun segment (R104, R105, R122,
R123). -/
def State.stopStream (s : State) (n : StreamId) (k : StopKind) : State :=
  let s₁ := (s.mapStr n fun x => { x with stopRequest := some k }).setPhase (.stopping n)
  match (s.str n).direction, k with
  | .playback, .now => s₁.playStopNow n
  | .playback, .afterSegment => if s.playBegun n then s₁ else s₁.playStopEffect n
  | .capture, .now => s₁.capStopEffect n
  | .capture, .afterSegment => if s.capBegun n then s₁ else s₁.capStopEffect n
  | .none, _ => s₁.stopNext n

/-- STREAM_STOP (R102): its reply waits for the stream's passage to IDLE. -/
def streamStop (tie : TieOrder) (s : State) : State :=
  match s.beginning .streamStop with
  | none => s
  | some payload =>
    match parseStop payload with
    | none => (s.refuse .badPayload).begun tie
    | some (b, kindByte) =>
      match streamOfCode b with
      | none => (s.refuse .range).begun tie
      | some n =>
        if (s.str n).unstarted then (s.refuse .state).begun tie
        else
          match StopKind.ofCode kindByte with
          | none => (s.refuse .range).begun tie
          | some k => (s.stopStream n k).begun tie

/-- STREAM_FLUSH (R85). -/
def streamFlush (tie : TieOrder) (s : State) : State :=
  match s.beginning .streamFlush with
  | none => s
  | some payload =>
    match parseStream payload with
    | none => (s.refuse .badPayload).begun tie
    | some b =>
      match streamOfCode b with
      | none => (s.refuse .range).begun tie
      | some n =>
        if (s.str n).state = .disabled then (s.refuse .state).begun tie
        else
          let removed := (s.str n).queue.length
          ((s.mapStr n fun x => { x with queue := [] }).finish .ok 0 [natByte removed]).begun tie

/-- The current register as STREAM_QUERY reports it (R86, R110). -/
def State.currentReg (s : State) (n : StreamId) : Option LrId :=
  match (s.str n).direction with
  | .playback => s.playCurrent n
  | .capture => s.receiving n
  | .none => none

/-- STREAM_QUERY's current segment: presence byte, row, position, passes left (R86, R110, R178; log entry 22). -/
def State.currentData (s : State) (n : StreamId) : List Byte :=
  match (s.str n).overrunSegment with
  | some t => [0x02] ++ natBytes2 t.segment.row ++ natBytes2 (s.str n).overrunCount ++ [0x01]
  | none =>
    match s.currentReg n with
    | some r =>
      let x := s.lr r
      let row := match x.segment with
        | some g => g.row
        | none => 0
      [0x01] ++ natBytes2 row ++ natBytes2 x.position ++ [natByte x.passesLeft]
    | none => [0x00] ++ natBytes2 0 ++ natBytes2 0 ++ [0x00]

/-- The eight counters in the order of R107's table (R178). -/
def Counters.bytes (c : Counters) : List Byte :=
  wordBytes c.cellsMoved ++ wordBytes c.fillCells ++ wordBytes c.starvedCells ++ wordBytes c.underruns
    ++ wordBytes c.completed ++ wordBytes c.dropped ++ wordBytes c.reloads ++ wordBytes c.discarded

/-- STREAM_QUERY's 48 bytes (R178). -/
def State.streamData (s : State) (n : StreamId) : List Byte :=
  let x := s.str n
  let current := s.currentData n
  [x.direction.code, x.state.code, x.policy.code] ++ cellBytes x.fill
    ++ [boolByte x.cyclic, stopRequestCode x.stopRequest, natByte x.queue.length, natByte (s.heldRegs n).length]
    ++ current ++ [natByte x.waiting.length] ++ x.counters.bytes

/-- STREAM_QUERY (R86). -/
def streamQuery (tie : TieOrder) (s : State) : State :=
  match s.beginning .streamQuery with
  | none => s
  | some payload =>
    match parseStream payload with
    | none => (s.refuse .badPayload).begun tie
    | some b =>
      match streamOfCode b with
      | none => (s.refuse .range).begun tie
      | some n => (s.finish .ok 0 (s.streamData n)).begun tie

def execStreamSetup (m : Moment) (s : State) : Host.Outcome State Fault Refusal :=
  .next (streamSetup m.tie (s.advance m.dt))

def execStreamAppend (m : Moment) (s : State) : Host.Outcome State Fault Refusal :=
  .next (streamAppend m.tie (s.advance m.dt))

def execStreamStart (m : Moment) (s : State) : Host.Outcome State Fault Refusal :=
  .next (streamStart m.tie (s.advance m.dt))

def execStreamStop (m : Moment) (s : State) : Host.Outcome State Fault Refusal :=
  .next (streamStop m.tie (s.advance m.dt))

def execStreamFlush (m : Moment) (s : State) : Host.Outcome State Fault Refusal :=
  .next (streamFlush m.tie (s.advance m.dt))

def execStreamQuery (m : Moment) (s : State) : Host.Outcome State Fault Refusal :=
  .next (streamQuery m.tie (s.advance m.dt))

end Sys2Proof.Machine
end

