-- ==== Sys2Proof/Machine/Supply.lean ====
section
/-! DEFINITION. Supply, HRST and the end of the warm-up (R15, R16, R17, R53). -/

namespace Sys2Proof.Machine

/-- Every block takes its power-on values, the cells undefined (R15, R16, R36, R53, R75, R108, R127, R144, R159, R175,
R185). The warm-up runs from `start`, or not at all while HRST stays asserted or the supply is not valid (R38). -/
def State.powerOnValues (s : State) (start : Option Nat) : State :=
  { s with
    rat := .atInit s.clock (s.rat.memory.epoch + 1)
    rfe := .atInit
    arb := .atInit start
    lrb := .atInit
    ste := .atInit
    sst := .atInit
    rqe := .atInit
    hlc := .atInit s.hlc.hcsHigh
    ntu := .atInit }

/-- POWER_ON: the supply is valid; INIT begins, or waits for the deassertion of HRST (R15, R159; log entry 14). -/
def powerOn (s : State) : State :=
  let start := if s.hrst then none else some s.clock
  { s.powerOnValues start with powered := true }

/-- HRST_ASSERT: what the circuit does has no completion, and every block is inert at its power-on values (R16). -/
def hrstAssert (s : State) : State :=
  if s.hrst then s
  else if s.powered then { s.powerOnValues none with hrst := true }
  else { s with hrst := true }

/-- HRST_DEASSERT: INIT begins with its warm-up (R15, R16, R53). -/
def hrstDeassert (s : State) : State :=
  if s.hrst then
    if s.powered then { s.powerOnValues (some s.clock) with hrst := false }
    else { s with hrst := false }
  else s

/-- POWER_LOSS: what the circuit does has no completion; the part is inert until POWER_ON (R3). -/
def powerLoss (s : State) : State :=
  { s.powerOnValues none with powered := false }

/-- WARMUP_END: the circuit is FREE and one SCRUB claim for each row is raised in ascending order (R17, R53). -/
def warmupEnd (s : State) : State :=
  match s.arb.circuit with
  | .warmup (some start) =>
    if s.live && s.elapsed start Config.warmup then
      let claims := s.rfe.scrubList.map fun r => Claim.mk .scrub r .rowTable .scrub
      { s with arb := { s.arb with circuit := .free, claims := s.arb.claims ++ claims } }.settle
    else s
  | _ => s

def execPowerOn (dt : Nat) (s : State) : Host.Outcome State Fault Refusal :=
  .next (powerOn (s.advance dt))

def execHrstAssert (dt : Nat) (s : State) : Host.Outcome State Fault Refusal :=
  .next (hrstAssert (s.advance dt))

def execHrstDeassert (dt : Nat) (s : State) : Host.Outcome State Fault Refusal :=
  .next (hrstDeassert (s.advance dt))

def execPowerLoss (dt : Nat) (s : State) : Host.Outcome State Fault Refusal :=
  .next (powerLoss (s.advance dt))

def execWarmupEnd (dt : Nat) (s : State) : Host.Outcome State Fault Refusal :=
  .next (warmupEnd (s.advance dt))

end Sys2Proof.Machine
end

