-- ==== Sys2Proof/Machine/Dispatch.lean ====
section
/-! DEFINITION. The meaning of each command. -/

namespace Sys2Proof.Machine

def exec (i : Instr) (s : State) : Host.Outcome State Fault Refusal :=
  match i with
  | .powerOn dt => Sys2Proof.Machine.execPowerOn dt s
  | .hrstAssert dt => Sys2Proof.Machine.execHrstAssert dt s
  | .hrstDeassert dt => Sys2Proof.Machine.execHrstDeassert dt s
  | .warmupEnd dt => Sys2Proof.Machine.execWarmupEnd dt s
  | .loadCompletion m => Sys2Proof.Machine.execLoadCompletion m s
  | .commitCompletion m => Sys2Proof.Machine.execCommitCompletion m s
  | .copyLoadCompletion dt => Sys2Proof.Machine.execCopyLoadCompletion dt s
  | .copyCommitCompletion m => Sys2Proof.Machine.execCopyCommitCompletion m s
  | .fillCompletion m => Sys2Proof.Machine.execFillCompletion m s
  | .refreshCompletion m => Sys2Proof.Machine.execRefreshCompletion m s
  | .scrubCompletion dt => Sys2Proof.Machine.execScrubCompletion dt s
  | .openCompletion dt tie => Sys2Proof.Machine.execOpenCompletion dt tie s
  | .columnBurstEnd dt tie => Sys2Proof.Machine.execColumnBurstEnd dt tie s
  | .routineThreshold dt => Sys2Proof.Machine.execRoutineThreshold dt s
  | .urgentCrossing dt row => Sys2Proof.Machine.execUrgentCrossing dt row s
  | .deadline dt row => Sys2Proof.Machine.execDeadline dt row s
  | .hcsFall dt => Sys2Proof.Machine.execHcsFall dt s
  | .transactionEnd dt bits => Sys2Proof.Machine.execTransactionEnd dt bits s
  | .identify m => Sys2Proof.Machine.execIdentify m s
  | .status m => Sys2Proof.Machine.execStatus m s
  | .configure m => Sys2Proof.Machine.execConfigure m s
  | .openRow m => Sys2Proof.Machine.execOpenRow m s
  | .close m => Sys2Proof.Machine.execClose m s
  | .read dt tie => Sys2Proof.Machine.execRead dt tie s
  | .write dt tie => Sys2Proof.Machine.execWrite dt tie s
  | .exchange dt tie => Sys2Proof.Machine.execExchange dt tie s
  | .fillRows m => Sys2Proof.Machine.execFillRows m s
  | .copyRow m => Sys2Proof.Machine.execCopyRow m s
  | .refresh m => Sys2Proof.Machine.execRefresh m s
  | .rowQuery m => Sys2Proof.Machine.execRowQuery m s
  | .streamSetup m => Sys2Proof.Machine.execStreamSetup m s
  | .streamAppend m => Sys2Proof.Machine.execStreamAppend m s
  | .streamStart m => Sys2Proof.Machine.execStreamStart m s
  | .streamStop m => Sys2Proof.Machine.execStreamStop m s
  | .streamFlush m => Sys2Proof.Machine.execStreamFlush m s
  | .streamQuery m => Sys2Proof.Machine.execStreamQuery m s
  | .playbackEdge dt stream => Sys2Proof.Machine.execPlaybackEdge dt stream s
  | .captureEdge dt stream cell => Sys2Proof.Machine.execCaptureEdge dt stream cell s
  | .playbackHoldExpiry dt register => Sys2Proof.Machine.execPlaybackHoldExpiry dt register s
  | .captureHoldExpiry dt register => Sys2Proof.Machine.execCaptureHoldExpiry dt register s
  | .lr4HoldExpiry dt => Sys2Proof.Machine.execLr4HoldExpiry dt s
  | .idleExpiry dt slot => Sys2Proof.Machine.execIdleExpiry dt slot s
  | .powerLoss dt => Sys2Proof.Machine.execPowerLoss dt s

end Sys2Proof.Machine
end

