-- ==== Sys2Proof/WellFormed.lean ====
section
/-! DEFINITION. Which commands name something the part has. -/

namespace Sys2Proof

/-- The register serves a stream (R55): every register but LR4. -/
def LrId.isStream : LrId → Bool
  | .lr4 => false
  | _ => true

/-- A row operand is a row of the array (R10); a hold expiry of a stream's register names LR0 to LR3 (R63, R121). -/
def Instr.wellFormed : Instr → Bool
  | .urgentCrossing _ row => decide (row < Config.rows)
  | .deadline _ row => decide (row < Config.rows)
  | .playbackHoldExpiry _ r => r.isStream
  | .captureHoldExpiry _ r => r.isStream
  | _ => true

end Sys2Proof
end

