-- ==== Sys2Proof/Safety.lean ====
section
/-! DEFINITION. What the part keeps true whatever it is sent: the laws of the spec as predicates of a state, and the
words the claims use. -/

namespace Sys2Proof

/-! ## Of the commands -/

/-- The time in ns since the command before. -/
def Instr.elapsed : Instr → Nat
  | .loadCompletion m | .commitCompletion m | .copyCommitCompletion m | .fillCompletion m | .refreshCompletion m
  | .identify m | .status m | .configure m | .openRow m | .close m | .fillRows m | .copyRow m | .refresh m | .rowQuery m
  | .streamSetup m | .streamAppend m | .streamStart m | .streamStop m | .streamFlush m | .streamQuery m => m.dt
  | .powerOn dt | .hrstAssert dt | .hrstDeassert dt | .warmupEnd dt | .copyLoadCompletion dt | .scrubCompletion dt
  | .openCompletion dt _ | .columnBurstEnd dt _ | .routineThreshold dt | .urgentCrossing dt _ | .deadline dt _
  | .hcsFall dt | .transactionEnd dt _ | .read dt _ | .write dt _ | .exchange dt _ | .playbackEdge dt _
  | .captureEdge dt _ _ | .playbackHoldExpiry dt _ | .captureHoldExpiry dt _ | .lr4HoldExpiry dt | .idleExpiry dt _
  | .powerLoss dt => dt

/-- The commands of the supply and of HRST. -/
def Instr.isSupply : Instr → Bool
  | .powerOn _ | .hrstAssert _ | .hrstDeassert _ | .powerLoss _ => true
  | _ => false

/-- The level of HCS after the command. -/
def Instr.hcsAfter (i : Instr) (level : Bool) : Bool :=
  match i with
  | .hcsFall _ => false
  | .transactionEnd _ _ => true
  | _ => level

/-- The other register of the register's stream. -/
def LrId.partner : LrId → LrId
  | .lr0 => .lr1
  | .lr1 => .lr0
  | .lr2 => .lr3
  | .lr3 => .lr2
  | .lr4 => .lr4

end Sys2Proof

namespace Sys2Proof.Machine

/-! ## The laws of the spec -/

/-- ATTN is high exactly while the outbound queue holds a frame, and the queue is empty while the part is inert (R157,
R159). -/
def State.attnFollowsQueue (s : State) : Prop :=
  s.hlc.attn = !s.hlc.outq.isEmpty ∧ (s.live = false → s.hlc.outq = [])

/-- At most 15 notices and at most one loss marker are queued (R182). -/
def State.noticesInQuota (s : State) : Prop :=
  s.noticeCount ≤ 15 ∧ (s.hlc.outq.filter Frame.isMarker).length ≤ 1

/-- The tag of a reply. -/
def Frame.replyTag : Frame → Option Byte
  | .reply tag _ _ _ => some tag
  | _ => none

/-- The outstanding tags are those of the request queue and of the queued replies (R161), each once, at most 8, none
of them 0 (R162). -/
def State.tagsOutstanding (s : State) : Prop :=
  s.rqe.tags.Perm (s.rqe.queue.map Request.tag ++ s.hlc.outq.filterMap Frame.replyTag)
    ∧ s.rqe.tags.Nodup ∧ s.rqe.tags.length ≤ 8 ∧ (0 : Byte) ∉ s.rqe.tags

/-- The order list holds every row once, oldest completion first (R20). -/
def State.orderedByAge (s : State) : Prop :=
  s.rat.table.length = 512 ∧ s.rfe.order.Perm (List.range 512)
    ∧ s.rfe.order.Pairwise (fun a b => (s.row a).completedAt ≤ (s.row b).completedAt)
    ∧ ∀ r, r < 512 → (s.row r).completedAt ≤ s.clock

/-- A SCRUB claim, of the refresh engine or of the row table, for the row (R40). -/
def Claim.scrubs (c : Claim) (r : Nat) : Bool :=
  c.kind == .scrub && c.row == r && c.cls == .scrub && (c.claimant == .refreshEngine || c.claimant == .rowTable)

/-- The circuit is in its warm-up, or waits for it (R38). -/
def Circuit.isWarmup : Circuit → Bool
  | .warmup _ => true
  | _ => false

/-- The scrub list holds the rows whose scrub is pending, none twice (R31), and once the warm-up is over each of them
has its SCRUB pending or in flight (R10). -/
def State.scrubsOwed (s : State) : Prop :=
  s.rat.table.length = 512 ∧ s.rfe.scrubList.Nodup
    ∧ (∀ r, r ∈ s.rfe.scrubList ↔ r < 512 ∧ (s.row r).scrubPending = true)
    ∧ (s.arb.circuit.isWarmup = false → ∀ r ∈ s.rfe.scrubList, s.holdsClaim (fun c => c.scrubs r) = true)

/-- An operation in flight on a row with a scrub pending is that row's SCRUB (R42). -/
def State.scrubBlocks (s : State) : Prop :=
  ∀ op, s.inFlight = some op → op.claim.kind ≠ .scrub → (s.row op.claim.row).scrubPending = false

/-- At most one ROUTINE claim, for the head of the order list (R23), and none pending beside one in flight; in HOSTED
mode no claim of the refresh engine but SCRUBs is pending (R26, R27). -/
def State.routineHeld (s : State) : Prop :=
  (s.arb.claims.filter (fun c => c.cls == .routine)).length ≤ 1
    ∧ (∀ c, s.holdsClaim (fun d => d == c && d.cls == .routine) = true → s.rfe.order.head? = some c.row)
    ∧ (∀ op, s.inFlight = some op → op.claim.cls = .routine → ∀ c ∈ s.arb.claims, c.cls ≠ .routine)
    ∧ (s.rfe.mode = .hosted → ∀ c ∈ s.arb.claims, c.cls ≠ .routine ∧ c.cls ≠ .urgent)

/-- The circuit holds, or runs a burst on, a row for the session (R38). -/
def Circuit.servesSession : Circuit → SlotId → Bool
  | .held k _, q => k == q
  | .bursting (some k) _ _ _, q => k == q
  | _, _ => false

/-- A session waits for the OPEN of its row. -/
def Phase.opensFor : Phase → SlotId → Bool
  | .opening k, q => k == q
  | .reopening k _, q => k == q
  | _, _ => false

/-- A session in use is OPEN exactly while the circuit serves it (R38, R128); a session whose OPEN or reopen is claimed
is in use with its idle timer stopped (R139); a request in execution is the head of the request queue (R161); a burst of
a session is the work of the request in execution (R132), and so is a copy in LR4 (R72). -/
def State.sessionsMatchCircuit (s : State) : Prop :=
  (∀ k, s.arb.circuit.servesSession k = true ↔ (s.slot k).inUse = true ∧ (s.slot k).state = .opened)
    ∧ (∀ k, s.rqe.phase.opensFor k = true → (s.slot k).inUse = true ∧ (s.slot k).idleTimer = none)
    ∧ (s.rqe.phase ≠ .free → s.rqe.queue ≠ [])
    ∧ (∀ k row job start, s.arb.circuit = .bursting (some k) row job start → s.rqe.phase = .bursting)
    ∧ (s.lrb.lr4.copy.isSome = true ∨ s.lrb.lr4.state = .loaded → s.rqe.phase = .copying)

/-- A claim of a register, or for it: a LOAD or COMMIT is a stream register's, of class STREAM; a COPY_LOAD or
COPY_COMMIT is the request engine's, of class HOST; and a register claims nothing else (R40). -/
def Claim.inPlace (c : Claim) : Bool :=
  match c.kind, c.claimant with
  | .load, .register r => (streamOf r).isSome && c.cls == .stream
  | .commit, .register r => (streamOf r).isSome && c.cls == .stream
  | .load, _ => false
  | .commit, _ => false
  | .copyLoad, k => k == .requestEngine && c.cls == .host
  | .copyCommit _, k => k == .requestEngine && c.cls == .host
  | _, .register _ => false
  | _, _ => true

/-- A register in the state may have a claim of the kind pending (R57). -/
def ClaimKind.pendsIn : ClaimKind → LrState → Bool
  | .load, x => x == .loading || x == .stale
  | .commit, x => x == .active || x == .full
  | .copyLoad, x => x == .loading
  | .copyCommit _, x => x == .loaded
  | _, _ => false

/-- A register in the state may have an operation of the kind in flight that it is not to discard (R46, R57). -/
def ClaimKind.runsIn : ClaimKind → LrState → Bool
  | .load, x => x == .loading
  | .commit, x => x == .committing
  | .copyLoad, x => x == .loading
  | .copyCommit _, x => x == .committing
  | _, _ => false

/-- A register has at most one claim or operation (R71), which suits its state (R46, R57); one to discard exactly when it
was emptied with the operation in flight. A COMMIT is claimed in capture only, a stream in DISABLED or IDLE has its
registers EMPTY (R106, R124), and LR4 is used only by the COPY_ROW in execution (R72). -/
def State.registersMatchClaims (s : State) : Prop :=
  (∀ c, s.holdsClaim (fun d => d == c) = true → c.inPlace = true)
    ∧ (∀ r, (s.arb.claims.filter fun c => c.isOf r).length + (if s.operationKind r = none then 0 else 1) ≤ 1)
    ∧ (∀ r, ∀ c ∈ s.arb.claims, c.isOf r = true → c.kind.pendsIn (s.lr r).state = true)
    ∧ (∀ r op, s.inFlight = some op → op.claim.isOf r = true →
        (s.lr r).state = .empty ∧ (s.lr r).discardPending = op.claim.kind.discardKind
          ∨ (s.lr r).discardPending = none ∧ op.claim.kind.runsIn (s.lr r).state = true)
    ∧ (∀ r, (s.lr r).discardPending ≠ none → s.operationKind r ≠ none)
    ∧ (∀ c ∈ s.arb.claims, c.kind = .commit → ∀ r n, c.claimant = .register r → streamOf r = some n →
        (s.str n).direction = .capture)
    ∧ (∀ n, (s.str n).state = .disabled ∨ (s.str n).state = .idle →
        (s.lr (evenReg n)).state = .empty ∧ (s.lr (oddReg n)).state = .empty)
    ∧ ((s.lr .lr4).state ≠ .empty → s.rqe.phase = .copying)

/-! ## The choice of a grant -/

/-- Classes from the highest, 0, to the lowest (R40). -/
def ClaimClass.rank : ClaimClass → Nat
  | .urgent => 0
  | .stream => 1
  | .scrub => 2
  | .host => 3
  | .routine => 4

/-- Each claim has its place in the order of its class: an URGENT claim's row in the order list, a SCRUB's in the scrub
list, a STREAM claim in the name of a stream's register (R20, R31, R40). -/
def State.claimsRanked (s : State) : Prop :=
  ∀ c ∈ s.arb.claims, (c.cls = .urgent → c.row ∈ s.rfe.order) ∧ (c.cls = .scrub → c.row ∈ s.rfe.scrubList)
    ∧ (c.cls = .stream → ∃ r n, c.claimant = .register r ∧ streamOf r = some n)

/-- Among the STREAM claims left pending, none stood before that of the stream `n` whose segment has the take number
`seq`: the preferred stream's go first, then the earlier-taken (R45). -/
def State.streamFirst (t : State) (preferred n : StreamId) (seq : Nat) : Prop :=
  ∀ c ∈ t.arb.claims, c.cls = .stream → t.grantable c = true → ∀ q m, c.claimant = .register q → streamOf q = some m →
    (m = n → seq ≤ (t.lr q).takeSeq) ∧ (m ≠ n → n = preferred)

/-- A grant decision has been made at this moment among the claims `cs`. With none grantable the circuit is FREE. Else
one, of the highest class that has one grantable, is in flight: in URGENT the oldest row's, in SCRUB the one nearest the
front of the scrub list, in STREAM the preferred stream's, earlier-taken first; then the other stream is preferred (R43,
R44, R45). -/
def State.decided (t : State) (cs : List Claim) (preferred : StreamId) : Prop :=
  (t.arb.circuit = .free ∧ t.arb.claims = cs ∧ t.arb.preferred = preferred ∧ ∀ c ∈ cs, t.grantable c = false)
    ∨ ∃ op, t.arb.circuit = .operating op ∧ op.claim ∈ cs ∧ t.arb.claims = cs.erase op.claim ∧ op.grantedAt = t.clock
      ∧ t.grantable op.claim = true
      ∧ (∀ c ∈ cs, t.grantable c = true → op.claim.cls.rank ≤ c.cls.rank)
      ∧ (op.claim.cls = .urgent → ∀ c ∈ cs, c.cls = .urgent → t.grantable c = true →
          t.rfe.order.idxOf op.claim.row ≤ t.rfe.order.idxOf c.row)
      ∧ (op.claim.cls = .scrub → ∀ c ∈ cs, c.cls = .scrub → t.grantable c = true →
          t.rfe.scrubList.idxOf op.claim.row ≤ t.rfe.scrubList.idxOf c.row)
      ∧ (op.claim.cls = .stream → ∃ r n, op.claim.claimant = .register r ∧ streamOf r = some n
          ∧ t.streamFirst preferred n (t.lr r).takeSeq ∧ t.arb.preferred = otherStream n)
      ∧ (op.claim.cls ≠ .stream → t.arb.preferred = preferred)

/-- The circuit is FREE, or a grant has been made at this moment. -/
def State.circuitFreed (t : State) : Prop :=
  t.arb.circuit = .free ∨ ∃ op, t.arb.circuit = .operating op ∧ op.grantedAt = t.clock

/-! ## The words the claims use -/

/-- The command completes: exec answers a next state, of which `φ` holds. -/
def Completes (i : Instr) (s : State) (φ : State → Prop) : Prop :=
  ∃ t, exec i s = .next t ∧ φ t

/-- The operation in flight is due at a command `dt` ns later (R39). -/
def State.due (s : State) (dt : Nat) (op : Operation) : Prop :=
  s.live = true ∧ s.arb.circuit = .operating op ∧ op.grantedAt + 250 ≤ s.clock + dt

/-- A LOAD or COMMIT is a stream register's (R40). -/
def Claim.wellPlaced (c : Claim) : Bool :=
  match c.kind, c.claimant with
  | .load, .register r => (streamOf r).isSome
  | .commit, .register r => (streamOf r).isSome
  | .load, _ => false
  | .commit, _ => false
  | _, _ => true

/-- The command that completes an operation of the kind. -/
def ClaimKind.completion (k : ClaimKind) (dt : Nat) (tie : TieOrder) : Instr :=
  match k with
  | .load => .loadCompletion ⟨dt, tie⟩
  | .commit => .commitCompletion ⟨dt, tie⟩
  | .refresh => .refreshCompletion ⟨dt, tie⟩
  | .scrub => .scrubCompletion dt
  | .openRow => .openCompletion dt tie
  | .fill _ _ => .fillCompletion ⟨dt, tie⟩
  | .copyLoad => .copyLoadCompletion dt
  | .copyCommit _ => .copyCommitCompletion ⟨dt, tie⟩

/-- The head request, ready to be begun (R163). -/
def State.heads (s : State) (tag : Byte) (k : RequestKind) (payload : List Byte) (rest : List Request) : Prop :=
  s.live = true ∧ s.rqe.phase = .free ∧ s.rqe.queue = ⟨tag, k, payload⟩ :: rest

/-- The command that begins a request of the kind; RESET has none, since it acts at its admission. -/
def RequestKind.command (k : RequestKind) (dt : Nat) (tie : TieOrder) : Option Instr :=
  match k with
  | .identify => some (.identify ⟨dt, tie⟩)
  | .status => some (.status ⟨dt, tie⟩)
  | .configure => some (.configure ⟨dt, tie⟩)
  | .reset => none
  | .openRow => some (.openRow ⟨dt, tie⟩)
  | .close => some (.close ⟨dt, tie⟩)
  | .read => some (.read dt tie)
  | .write => some (.write dt tie)
  | .exchange => some (.exchange dt tie)
  | .fillRows => some (.fillRows ⟨dt, tie⟩)
  | .copyRow => some (.copyRow ⟨dt, tie⟩)
  | .refresh => some (.refresh ⟨dt, tie⟩)
  | .rowQuery => some (.rowQuery ⟨dt, tie⟩)
  | .streamSetup => some (.streamSetup ⟨dt, tie⟩)
  | .streamAppend => some (.streamAppend ⟨dt, tie⟩)
  | .streamStart => some (.streamStart ⟨dt, tie⟩)
  | .streamStop => some (.streamStop ⟨dt, tie⟩)
  | .streamFlush => some (.streamFlush ⟨dt, tie⟩)
  | .streamQuery => some (.streamQuery ⟨dt, tie⟩)

/-- The request engine completes its head request, and the reply is the one frame that joins the outbound queue. -/
def State.answers (s t : State) (tag : Byte) (rest : List Request) (status : Status) (flags : Byte) (data : List Byte) :
    Prop :=
  t.rqe = { s.rqe with queue := rest, phase := .free }
    ∧ t.hlc = { s.hlc with outq := s.hlc.outq ++ [.reply tag status flags data], attn := true }

/-- Every cell reads as before. -/
def State.cellsKept (s t : State) : Prop :=
  ∀ row col, t.rat.memory.read row col = s.rat.memory.read row col

/-- The line registers keep all but what a grant changes: the state and the hold timer (R46). -/
def State.registersKept (s t : State) : Prop :=
  ∀ r, t.lr r = { s.lr r with state := (t.lr r).state, holdTimer := (t.lr r).holdTimer }

/-- The session slots keep all but what a close of the held row changes: OPEN or PARKED (R48). -/
def State.slotsKept (s t : State) : Prop :=
  ∀ k, t.slot k = { s.slot k with state := (t.slot k).state }

/-- The array, the row table, the refresh engine, the streams, the notice unit and the supply are as before. -/
def State.blocksKept (s t : State) : Prop :=
  t.rat = s.rat ∧ s.cellsKept t ∧ t.rfe = s.rfe ∧ t.ste = s.ste ∧ t.ntu = s.ntu ∧ t.powered = s.powered
    ∧ t.hrst = s.hrst

/-- The array, the row table, the refresh engine, the notice unit, the supply and the session slots are as before, the
slots but for a close of the held row. -/
def State.othersKept (s t : State) : Prop :=
  t.rat = s.rat ∧ s.cellsKept t ∧ t.rfe = s.rfe ∧ t.ntu = s.ntu ∧ s.slotsKept t ∧ t.powered = s.powered
    ∧ t.hrst = s.hrst

/-- A line register as power-on leaves it (R75); its content is not defined. -/
def LineReg.blank (x : LineReg) : Prop :=
  x.state = .empty ∧ x.segment = none ∧ x.copy = none ∧ x.position = 0 ∧ x.passesLeft = 0 ∧ x.filled = 0
    ∧ x.holdTimer = none ∧ x.sourceLost = false ∧ x.discardPending = none

/-- A stream record and its lines as power-on and RESET leave them (R108, R109, R127). -/
def StreamRec.blank (x : StreamRec) : Prop :=
  x.direction = .none ∧ x.state = .disabled ∧ x.policy = .hold ∧ x.fill = 0 ∧ x.cyclic = false ∧ x.queue = []
    ∧ x.stopRequest = none ∧ x.starvedRun = 0 ∧ x.lossReportedEven = false ∧ x.lossReportedOdd = false
    ∧ x.counters = ⟨0, 0, 0, 0, 0, 0, 0, 0⟩ ∧ x.overrunSegment = none ∧ x.overrunCount = 0 ∧ x.waiting = []
    ∧ x.sd = none ∧ x.smk = false

/-- Every block at the values its chapter gives for power-on and HRST (R15, R36, R53, R75, R108, R127, R144, R159, R175,
R185), with the warm-up begun at `start`, or not begun. -/
def State.atPowerOn (t : State) (start : Option Nat) : Prop :=
  (t.rat.state = .init ∧ t.rat.lossFill = 0
      ∧ ∀ r, r < 512 → (t.row r).lost = true ∧ (t.row r).scrubPending = true ∧ (t.row r).completedAt = t.clock)
    ∧ (t.rfe.mode = .auto ∧ t.rfe.order = List.range 512 ∧ t.rfe.scrubList = List.range 512)
    ∧ (t.arb.circuit = .warmup start ∧ t.arb.claims = [] ∧ t.arb.preferred = .s0)
    ∧ (∀ r, (t.lr r).blank) ∧ (∀ n, (t.str n).blank)
    ∧ (∀ k, (t.slot k).inUse = false ∧ (t.slot k).generation = 0 ∧ (t.slot k).idleTimer = none)
    ∧ (t.rqe.queue = [] ∧ t.rqe.tags = [] ∧ t.rqe.phase = .free)
    ∧ (t.hlc.txn = none ∧ t.hlc.admTag = 0 ∧ t.hlc.admResult = .none ∧ t.hlc.outq = [] ∧ t.hlc.attn = false)
    ∧ (t.ntu.mask = 0x3FF ∧ t.ntu.lostTotal = 0)

/-- No more than the arbiter's acts at the end of an event besides the request engine and the outbound queue. -/
def State.onlyArbiterActs (s t : State) : Prop :=
  s.blocksKept t ∧ s.registersKept t ∧ s.slotsKept t

/-- The arbiter has nothing to do at the end of an event: no row is held, and a free circuit has no claim (R43, R48). -/
def State.arbiterAtRest (s : State) : Prop :=
  (∀ k row, s.arb.circuit ≠ .held k row) ∧ (s.arb.circuit = .free → s.arb.claims = [])

/-- A report made only on a condition. -/
def State.reportIf (s : State) (b : Bool) (n : Notice) : State :=
  if b then s.report n else s

/-- The claim is pending or in flight. -/
def State.hasClaim (s : State) (c : Claim) : Prop :=
  s.holdsClaim (fun d => d == c) = true

/-- The part acts on the request engine and the outbound queue only by the reply, and the arbiter raises nothing. -/
def State.raisesNothing (s t : State) : Prop :=
  s.onlyArbiterActs t ∧ ∀ c, t.hasClaim c → s.hasClaim c

/-- A well-formed column request on the session stands next (R135). -/
def State.columnNext (s : State) (k : SlotId) (rest : List Request) : Bool :=
  match rest with
  | [] => false
  | q :: _ =>
    match q.columnFields with
    | some f => s.findSession f.slot f.generation == some k
    | none => false

/-- The session's row is claimed for a reopen, and no row is held (R132). -/
def State.reopens (s t : State) (k : SlotId) (job : ColumnJob) : Prop :=
  t.hasClaim ⟨.openRow, (s.slot k).row, .requestEngine, .host⟩ ∧ t.rqe = { s.rqe with phase := .reopening k job }
    ∧ t.slot k = { s.slot k with state := (t.slot k).state, idleTimer := none }
    ∧ (∀ row, s.arb.circuit = .held k row → (t.slot k).state = .parked)
    ∧ ∀ q row, t.arb.circuit ≠ .held q row

/-- COPY_ROW starts through LR4 (R72). -/
def State.copyStarts (s t : State) (job : CopyJob) : Prop :=
  t.lr .lr4 = { (s.lr .lr4).cleared none with state := .loading, copy := some job }
    ∧ t.hasClaim ⟨.copyLoad, job.source, .requestEngine, .host⟩ ∧ t.rqe = { s.rqe with phase := .copying }

/-! ## The checks of requests, in the order of their rules -/

/-- The bytes are exactly `n` segment records: five bytes each, six where bit 15 marks a mark (R176, R177). -/
def segmentsFill : Nat → List Byte → Bool
  | 0, p => p.isEmpty
  | n + 1, p =>
    let size := if (p.getD 0 0).getLsbD 7 then 6 else 5
    decide (size ≤ p.length) && segmentsFill n (p.drop size)

/-- The payload has its kind's layout (R166, R177). -/
def RequestKind.wellLaid (k : RequestKind) (p : List Byte) : Bool :=
  let b := fun i => (p.getD i 0).toNat
  match k with
  | .identify | .status | .reset => p.length == 0
  | .configure => decide (b 0 < 8 ∧ p.length = 1 + b 0 % 2 + 2 * (b 0 / 2 % 2) + 2 * (b 0 / 4))
  | .openRow | .close | .streamStop => p.length == 2
  | .read | .refresh => p.length == 4
  | .write => decide (b 4 < 2 ∧ p.length = 5 + 2 * b 4 + 2 * b 3)
  | .exchange => decide (p.length = 4 + 2 * b 3)
  | .fillRows => p.length == 7
  | .copyRow | .streamSetup => p.length == 6
  | .rowQuery => p.length == 3
  | .streamAppend => decide (2 ≤ p.length ∧ 1 ≤ b 1 ∧ b 1 ≤ 8) && segmentsFill (b 1) (p.drop 2)
  | .streamStart | .streamFlush | .streamQuery => p.length == 1

/-- The kind is a column request. -/
def RequestKind.isColumn : RequestKind → Bool
  | .read | .write | .exchange => true
  | _ => false

/-- The refusal of a request of the kind: the first check of its rule that fails, or none. -/
def State.refusal (s : State) (k : RequestKind) (p : List Byte) : Option Status :=
  let b := fun i => (p.getD i 0).toNat
  let num := fun i => b i * 256 + b (i + 1)
  let notReady : Option Status := if s.rat.state = .init then some .notReady else none
  let column := fun most =>
    if s.findSession (p.getD 0 0) (p.getD 1 0) = none then some Status.noSession
    else if b 3 = 0 ∨ most < b 3 ∨ 256 < b 2 + b 3 then some Status.range else none
  if k.wellLaid p = false then some .badPayload
  else
    match k with
    | .identify | .status | .reset => none
    | .configure =>
      if (b 0 % 2 = 1 ∧ 1 < b 1) ∨ (4 ≤ b 0 ∧ 1024 ≤ num (p.length - 2)) then some .range else none
    | .openRow =>
      if 512 ≤ num 0 then some .range
      else notReady.or (if s.slotsInUse = 4 then some .noSlot else none)
    | .close => if s.findSession (p.getD 0 0) (p.getD 1 0) = none then some .noSession else none
    | .read | .write => column 64
    | .exchange => column 16
    | .fillRows => if 512 ≤ num 2 ∨ num 2 < num 0 ∨ b 6 = 0 ∨ 16 ≤ b 6 then some .range else notReady
    | .copyRow =>
      if 512 ≤ num 0 ∨ 512 ≤ num 2 ∨ 4 ≤ b 4 ∨ b 5 = 0 ∨ 4 < b 4 + b 5 then some .range else notReady
    | .refresh => if 512 ≤ num 2 ∨ num 2 < num 0 then some .range else notReady
    | .rowQuery => if b 2 = 0 ∨ 64 < b 2 ∨ 512 < num 0 + b 2 then some .range else none
    | .streamSetup =>
      match streamOfCode (p.getD 0 0) with
      | none => some .range
      | some n =>
        if (s.str n).state ≠ .disabled ∧ (s.str n).state ≠ .idle then some .state
        else if 2 < b 1 ∨ 1 < b 2 ∨ 1 < b 5 then some .range else none
    | .streamAppend =>
      match streamOfCode (p.getD 0 0), parseAppend p with
      | some n, some (_, gs) =>
        if (s.str n).state = .disabled then some .state
        else if gs.all (fun g => g.valid (s.str n).direction) = false then some .range
        else if 32 < s.segmentTotal n + gs.length then some .queueFull else none
      | _, _ => some .range
    | .streamStart =>
      match streamOfCode (p.getD 0 0) with
      | none => some .range
      | some n => notReady.or (if (s.str n).state = .idle then none else some .state)
    | .streamStop =>
      match streamOfCode (p.getD 0 0) with
      | none => some .range
      | some n =>
        if (s.str n).state = .disabled ∨ (s.str n).state = .idle then some .state
        else if 1 < b 1 then some .range else none
    | .streamFlush =>
      match streamOfCode (p.getD 0 0) with
      | none => some .range
      | some n => if (s.str n).state = .disabled then some .state else none
    | .streamQuery => if streamOfCode (p.getD 0 0) = none then some .range else none

/-! ## The end of a transaction -/

/-- The admission result of the bytes received, the checks in R151's order, against the tags outstanding. -/
def admissionOf (tags : List Byte) (bytes : List Byte) : AdmResult :=
  let len := (bytes.getD 1 0).toNat
  if bytes.head? ≠ some 0xC3 then .none
  else if bytes.length < 2 ∨ 248 < len ∨ bytes.length < 6 + len then .badLength
  else if cellOf (bytes.getD (4 + len) 0) (bytes.getD (5 + len) 0) ≠ crc ((bytes.drop 1).take (3 + len)) then .badCheck
  else if bytes.getD 2 0 = 0 then .badTag
  else if RequestKind.ofCode (bytes.getD 3 0) = none then .badKind
  else if bytes.getD 2 0 ∈ tags then .dupTag
  else if 8 ≤ tags.length ∧ bytes.getD 3 0 ≠ 0x04 then .full
  else .accepted

/-- The frame selected was a queued one, and its last byte is among the `n` shifted out (R155). -/
def Transaction.sentWhole (x : Transaction) (n : Nat) : Bool :=
  x.queued && decide (x.frame.length ≤ n)

/-- The outbound queue after the removal: a loss marker that has counted discards since its bytes were fixed stays with
those (R155, R183). -/
def HostLink.queueAfter (h : HostLink) (x : Transaction) (n : Nat) : List Frame :=
  if x.sentWhole n then
    match h.outq with
    | [] => []
    | .lossMarker _ added :: rest => if added = 0 then rest else .lossMarker added added :: rest
    | _ :: rest => rest
  else h.outq

/-- The outstanding tags after the removal (R155, R162). -/
def State.tagsAfter (s : State) (x : Transaction) (n : Nat) : List Byte :=
  match s.hlc.outq with
  | .reply tag _ _ _ :: _ => if x.sentWhole n then s.rqe.tags.erase tag else s.rqe.tags
  | _ => s.rqe.tags

/-! ## Streams -/

/-- A register as a take leaves it (R58, R65); its cells stay as they are (log entry 23). -/
def LineReg.takenFor (x : LineReg) (g : Segment) (st : LrState) (seq : Nat) : LineReg :=
  { x.cleared none with state := st, segment := some g, passesLeft := g.repeats, takeSeq := seq }

/-- The loss reported flags of the stream: clear for the registers that take, as before for the others (R78, R87). -/
def State.lossFlags (s t : State) (n : StreamId) (takers : List LrId) : Prop :=
  ∀ r, streamOf r = some n → (t.str n).lossReported r = (!takers.contains r && (s.str n).lossReported r)

/-- The registers `free` take the segments of `all`, in their order, each claiming its load; the others of `all` stay
queued (R58, R87). -/
def State.takesFor (s t : State) (n : StreamId) (free : List LrId) (all : List Segment) : Prop :=
  (∀ i r g, free[i]? = some r → all[i]? = some g →
      t.lr r = (s.lr r).takenFor g .loading ((s.str n).taken + i)
        ∧ t.hasClaim ⟨.load, g.row, .register r, .stream⟩)
    ∧ (∀ i r, free[i]? = some r → all.length ≤ i → (t.lr r).isFree = true)
    ∧ (t.str n).queue = all.drop free.length
    ∧ (t.str n).taken = (s.str n).taken + min free.length all.length
    ∧ s.lossFlags t n (free.take all.length)

/-- A capture register, free, takes the first segment of `all` to receive into; without one nothing is taken
(R65, R112). -/
def State.receivesFor (s t : State) (n : StreamId) (free : Option LrId) (all : List Segment) : Prop :=
  match free, all with
  | some r, g :: rest =>
    t.lr r = (s.lr r).takenFor g .active (s.str n).taken ∧ (t.str n).queue = rest
      ∧ (t.str n).taken = (s.str n).taken + 1 ∧ s.lossFlags t n [r]
  | _, _ => (t.str n).queue = all ∧ (t.str n).taken = (s.str n).taken ∧ s.lossFlags t n []

/-- A capture stream of the record takes a segment when a register is free and a segment queued (R112). -/
def State.mayReceive (s : State) (n : StreamId) (x : StreamRec) : Prop :=
  x.direction = .capture ∧ x.stopRequest = none ∧ s.receiving n = none
    ∧ (x.state = .ready ∨ x.state = .running ∨ x.state = .overrun ∧ x.overrunSegment = none)

/-- A capture stream of the record `x` that may take takes into a free register, if there is one; at an overrun boundary
it is RUNNING again (R112, R118). -/
def State.receivesAs (s t : State) (n : StreamId) (free : Option LrId) (x : StreamRec) : Prop :=
  s.receivesFor t n free x.queue
    ∧ t.str n = { x with
      state := if x.state = .overrun ∧ free.isSome = true ∧ x.queue ≠ [] then .running else x.state
      queue := (t.str n).queue
      taken := (t.str n).taken
      lossReportedEven := (t.str n).lossReportedEven
      lossReportedOdd := (t.str n).lossReportedOdd }

/-- A claim in the name of a register is of class STREAM (R40). -/
def State.streamClaimsPlaced (s : State) : Prop :=
  ∀ c ∈ s.arb.claims, ∀ r, c.claimant = .register r → c.cls = .stream

/-! ## Rings (R125) -/

/-- The take numbers of the segments that the stream's registers hold, one register apart. -/
def State.takesHeld (s : State) (n : StreamId) (but : Option LrId) : List Nat :=
  ([evenReg n, oddReg n].filter fun r => (s.lr r).segment.isSome && but != some r).map fun r => (s.lr r).takeSeq

/-- No segment taken before it is among those held. -/
def Taken.isFirst (k : Taken) (held : List Nat) : Bool :=
  held.all fun q => decide (k.seq < q)

/-- The waiting copies stand in take order. -/
def StreamRec.copiesInOrder (x : StreamRec) : Prop :=
  x.waiting.Pairwise fun a b => a.seq ≤ b.seq

/-- The record after the finish of the segment `k`, with the segments of `held` still held. In a ring its copy joins the
tail, or waits in take order; then the waiting copies before which no segment is held join; a copy that joins in DRAINED
passes the stream to READY (R120, R125). -/
def StreamRec.afterFinish (x : StreamRec) (k : Taken) (held : List Nat) : StreamRec :=
  if x.cyclic then
    let joining := (if k.isFirst held then [k] else []) ++ x.waiting.filter fun u => u.isFirst held
    let queue := x.queue ++ joining.map Taken.segment
    { x with
      state := if x.state = .drained ∧ x.stopRequest = none ∧ queue ≠ [] then .ready else x.state
      queue := queue
      waiting := (x.waiting.filter (fun u => decide (u.seq < k.seq)) ++ [k]
        ++ x.waiting.filter (fun u => decide (k.seq ≤ u.seq))).filter fun u => !u.isFirst held }
  else x

/-- Only the passing of a grant changes the register. -/
def State.granted (s t : State) (r : LrId) : Prop :=
  t.lr r = { s.lr r with state := (t.lr r).state, holdTimer := (t.lr r).holdTimer }

/-- A stop of the stream takes effect on its record `x`, after the reports of `told`: the stream is IDLE, its lines
released and the request answered, or STOPPING while an operation is still to complete (R103, R106, R122, R124). -/
def State.stopped (s told t : State) (n : StreamId) (x : StreamRec) (kind : StopKind) (tag : Byte)
    (rest : List Request) (idle : Bool) : Prop :=
  t.str n = { x with
      state := if idle then .idle else .stopping
      sd := if idle then none else x.sd
      smk := if idle then false else x.smk
      stopRequest := if idle then none else some kind }
    ∧ t.str (otherStream n) = s.str (otherStream n)
    ∧ (let after := if idle then (told.enqueue (.reply tag .ok 0 [])).report (.streamStopped n kind) else told
       t.hlc = after.hlc ∧ t.ntu = after.ntu)
    ∧ t.rqe = (if idle then { s.rqe with queue := rest, phase := .free } else { s.rqe with phase := .stopping n })

/-- The register is emptied by its owner: a pending claim is withdrawn, an operation in flight becomes discard pending
(R71). -/
def State.emptied (s t : State) (r : LrId) : Prop :=
  t.lr r = (s.lr r).cleared (s.operationKind r)

/-- An emptied register of the stream would still have an operation to complete, or not. -/
def State.idles (s : State) (n : StreamId) : Bool :=
  s.operationKind (evenReg n) == none && s.operationKind (oddReg n) == none

end Sys2Proof.Machine
end

