-- ==== Sys2Proof/Certificates/Slice0/Obligations.lean ====
section
/-! DEFINITION. The statements for the provers, one def Obligations.<Name> : Prop each; OBLIGATIONS.json lists them. -/

open Sys2Proof Sys2Proof.Machine

/-! ## The machine -/

/-- A step takes the command at the front of the queue and runs it on the state with the queue's rest. With no command
waiting the part idles: the model's choice, log entry 6. -/
def Obligations.StepRunsFrontCommand : Prop :=
  (∀ (c : Instr) (rest : List Instr) (s : State), s.pending = c :: rest → step s = exec c { s with pending := rest })
    ∧ ∀ s : State, s.pending = [] → step s = .next s

/-- A command that names something the part has is never stopped, its event due or not (log entry 3): it moves the clock
on by its time and leaves the queue of commands alone. One that names nothing the part has faults (the model's choice,
log entry 21). -/
def Obligations.EveryCommandOfThePartCompletes : Prop :=
  ∀ (i : Instr) (s : State),
    (i.wellFormed = true → Completes i s fun t => t.pending = s.pending ∧ t.clock = s.clock + i.elapsed)
      ∧ (i.wellFormed = false → exec i s = .fault .noSuchRow ∨ exec i s = .fault .notAStreamRegister)

/-- While HRST is asserted or the supply is not valid no command but those of the supply and of HRST does anything: only
the clock moves, and the level of HCS is the host's. -/
def Obligations.InertPartIgnoresCommands : Prop :=
  ∀ (i : Instr) (s : State), i.wellFormed = true → i.isSupply = false → s.live = false →
    Completes i s fun t =>
      t = { s with clock := s.clock + i.elapsed, hlc := { s.hlc with hcsHigh := i.hcsAfter s.hlc.hcsHigh } }

/-! ## Supply, HRST, warm-up -/

/-- POWER_ON and HRST_DEASSERT put every block at its power-on values and start the warm-up. That a POWER_ON of a part
already supplied does so too, and an HRST pulse of any length, is the model's choice: log entries 14 and 15. -/
def Obligations.PowerUpInitialises : Prop :=
  ∀ (s : State) (dt : Nat),
    (s.hrst = false → Completes (.powerOn dt) s fun t => t.live = true ∧ t.atPowerOn (some t.clock))
      ∧ (s.powered = true → s.hrst = true →
          Completes (.hrstDeassert dt) s fun t => t.live = true ∧ t.atPowerOn (some t.clock))

/-- HRST_ASSERT and POWER_LOSS end whatever the row circuit does, put every block at its power-on values (from the
assertion on: log entry 13; at POWER_LOSS: log entries 13 and 14), start no warm-up, and leave every cell of the array
undefined: the free value of log entry 10. -/
def Obligations.ResetAndPowerLossStopThePart : Prop :=
  ∀ (s : State) (dt : Nat) (i : Instr),
    (i = .hrstAssert dt ∧ s.powered = true ∧ s.hrst = false) ∨ i = .powerLoss dt →
      Completes i s fun t => t.live = false ∧ t.atPowerOn none
        ∧ ∀ row col, row < 512 → col < 256 →
            t.rat.memory.read row col = Config.undefinedCell (s.rat.memory.epoch + 1) (row * 256 + col)

/-- The end of the warm-up raises one SCRUB for each row of the scrub list, in its order, and grants the first; in INIT
it is to write 0x0000. -/
def Obligations.WarmupEndStartsInitialScrub : Prop :=
  ∀ (s : State) (dt start first : Nat) (rest : List Nat),
    s.live = true → s.arb.circuit = .warmup (some start) → start + 2000 ≤ s.clock + dt → s.arb.claims = [] →
      s.rfe.scrubList = first :: rest → s.rat.state = .init →
    Completes (.warmupEnd dt) s fun t =>
      (∃ op, t.arb.circuit = .operating op ∧ op.claim = ⟨.scrub, first, .rowTable, .scrub⟩ ∧ op.grantedAt = t.clock
        ∧ op.value = 0 ∧ op.sections = 0xF)
      ∧ t.arb.claims = rest.map (fun r => ⟨.scrub, r, .rowTable, .scrub⟩)
      ∧ s.onlyArbiterActs t ∧ t.rqe = s.rqe ∧ t.hlc = s.hlc

/-! ## Completions of row operations -/

/-- At the completion of every kind of row operation the row's age is 0, its LOST flag is as the kind and its coverage
say, a SCRUB clears the scrub pending flag and no completion sets one, the row is the youngest of the order list, and no
ROUTINE or URGENT claim on it is left. No other row's entry changes. -/
def Obligations.CompletionUpdatesRowTable : Prop :=
  ∀ (s : State) (op : Operation) (dt : Nat) (tie : TieOrder),
    s.due dt op → op.claim.wellPlaced = true → s.rat.table.length = 512 → op.claim.row < 512 →
      op.claim.row ∈ s.rfe.order →
    Completes (op.claim.kind.completion dt tie) s fun t =>
      t.row op.claim.row =
          { lost := match op.claim.kind with
              | .fill _ mask => if mask = 0xF then false else (s.row op.claim.row).lost
              | .commit => if op.sections = 0xF then false else (s.row op.claim.row).lost
              | .copyCommit range =>
                if op.sourceLost then true else if range = 0xF then false else (s.row op.claim.row).lost
              | _ => (s.row op.claim.row).lost
            scrubPending := if op.claim.kind = .scrub then false else (s.row op.claim.row).scrubPending
            completedAt := t.clock
            crossed := false }
        ∧ (∀ q, q ≠ op.claim.row → t.row q = s.row q)
        ∧ t.rfe.order = s.rfe.order.erase op.claim.row ++ [op.claim.row]
        ∧ t.holdsClaim (fun c => (c.cls == .routine || c.cls == .urgent) && c.row == op.claim.row) = false

/-- The cells after a completion: a FILL writes its value into the sections of its mask, a COMMIT the filled sections
from the register, a COPY_COMMIT its range from LR4, a SCRUB the value its grant fixed into all four sections. Every
other cell, and every cell at the other kinds, reads as before. -/
def Obligations.CompletionWritesItsSections : Prop :=
  ∀ (s : State) (op : Operation) (dt : Nat) (tie : TieOrder),
    s.due dt op → op.claim.wellPlaced = true → op.claim.row < 512 →
    Completes (op.claim.kind.completion dt tie) s fun t =>
      ∀ row col, col < 256 → t.rat.memory.read row col =
        if row = op.claim.row then
          match op.claim.kind, op.claim.claimant with
          | .fill value mask, _ => if mask.getLsbD (col / 64) then value else s.rat.memory.read row col
          | .commit, .register r =>
            if op.sections.getLsbD (col / 64) then (s.lr r).content.getD col 0 else s.rat.memory.read row col
          | .copyCommit range, _ =>
            if range.getLsbD (col / 64) then s.lrb.lr4.content.getD col 0 else s.rat.memory.read row col
          | .scrub, _ => op.value
          | _, _ => s.rat.memory.read row col
        else s.rat.memory.read row col

/-- A LOAD that is not to be discarded fills its register with the row as it stands: all 256 cells, the row's LOST flag
as source lost, LOADED with the hold timer started; segment, position and passes stay. The other registers keep all but
what a grant changes. -/
def Obligations.LoadCompletionFillsRegister : Prop :=
  ∀ (s : State) (op : Operation) (dt : Nat) (tie : TieOrder) (r : LrId) (n : StreamId) (g : Segment),
    s.due dt op → op.claim.kind = .load → op.claim.claimant = .register r → streamOf r = some n →
      (s.lr r).segment = some g → (s.lr r).discardPending ≠ some .load → s.claimPending r = false →
    Completes (.loadCompletion ⟨dt, tie⟩) s fun t =>
      t.lr r = { s.lr r with
          state := .loaded
          content := (t.lr r).content
          sourceLost := (s.row op.claim.row).lost
          holdTimer := some t.clock
          reloading := false }
        ∧ (t.lr r).content.length = 256
        ∧ (∀ col, col < 256 → (t.lr r).content.getD col 0 = s.rat.memory.read op.claim.row col)
        ∧ s.cellsKept t
        ∧ (∀ q, q ≠ r → t.lr q = { s.lr q with state := (t.lr q).state, holdTimer := (t.lr q).holdTimer })
        ∧ t.rqe = s.rqe ∧ t.sst = s.sst ∧ t.rfe.mode = s.rfe.mode ∧ t.rfe.scrubList = s.rfe.scrubList

/-- What the stream makes of its register's load: a reload is counted; SEGMENT_LOST once for the segment when the row
was LOST; PRIMING ends in READY and, where the current register's load ends an underrun (under ALIGN with two cells or
more left), STARVED in RUNNING with STREAM_UNDERRUN, RESUMED. Where both are reported SEGMENT_LOST comes first: the
model's order, log entry 17. Nothing else of the record, and nothing of the other stream, changes. -/
def Obligations.LoadCompletionServesStream : Prop :=
  ∀ (s : State) (op : Operation) (dt : Nat) (tie : TieOrder) (r : LrId) (n : StreamId) (g : Segment),
    s.due dt op → op.claim.kind = .load → op.claim.claimant = .register r → streamOf r = some n →
      (s.lr r).segment = some g → (s.lr r).discardPending ≠ some .load →
    Completes (.loadCompletion ⟨dt, tie⟩) s fun t =>
      let x := s.str n
      let current := s.playCurrent n == some r
      let resumes := current && x.state == .starved && (x.policy == .hold || decide (2 ≤ (s.lr r).remaining g))
      let lossTold := (s.row op.claim.row).lost && !x.lossReported r
      t.str n = { (if lossTold then x.setLossReported r true else x) with
          state := if current && x.state == .priming then .ready else if resumes then .running else x.state
          starvedRun := if resumes then 0 else x.starvedRun
          counters := { x.counters with
            reloads := if (s.lr r).reloading then satAdd x.counters.reloads 1 else x.counters.reloads } }
        ∧ t.str (otherStream n) = s.str (otherStream n)
        ∧ (let told := (s.reportIf lossTold (.segmentLost n g.row)).reportIf resumes
              (.streamUnderrun n g.row x.starvedRun .resumed)
           t.hlc = told.hlc ∧ t.ntu = told.ntu)

/-- The completion of an operation to be discarded leaves its emptied register's content alone and clears discard
pending, and the register may take a segment. With the stream's queue empty, and no stop to end, that is all; a
playback stream takes and claims loads; a capture stream with no receiving register takes the head; a stop that waited
for the register ends in IDLE, or waits on for the other register. A capture register that takes keeps its cells (log
entry 23). -/
def Obligations.DiscardedCompletionFreesRegister : Prop :=
  ∀ (s : State) (op : Operation) (dt : Nat) (tie : TieOrder) (r : LrId) (n : StreamId),
    s.due dt op → (op.claim.kind = .load ∨ op.claim.kind = .commit) → op.claim.claimant = .register r →
      streamOf r = some n → (s.lr r).discardPending = op.claim.kind.discardKind → s.claimPending r = false →
    let x := s.str n
    (x.queue = [] → x.state ≠ .stopping →
      Completes (op.claim.kind.completion dt tie) s fun t =>
        t.lr r = { s.lr r with discardPending := none } ∧ t.ste = s.ste ∧ t.hlc = s.hlc ∧ t.ntu = s.ntu
          ∧ t.rqe = s.rqe)
    ∧ (x.direction = .playback → x.stopRequest = none → (s.lr r).state = .empty →
        (x.state = .priming ∨ x.state = .ready ∨ x.state = .running ∨ x.state = .starved) →
        ((s.lr r.partner).isFree = true → s.claimPending r.partner = false) →
      Completes (op.claim.kind.completion dt tie) s fun t =>
        s.takesFor t n ([evenReg n, oddReg n].filter fun p => p == r || (s.lr p).isFree) x.queue
          ∧ t.str n = { x with
            queue := (t.str n).queue
            taken := (t.str n).taken
            lossReportedEven := (t.str n).lossReportedEven
            lossReportedOdd := (t.str n).lossReportedOdd }
          ∧ t.str (otherStream n) = s.str (otherStream n) ∧ t.hlc = s.hlc ∧ t.ntu = s.ntu ∧ t.rqe = s.rqe)
    ∧ (s.mayReceive n x → (s.lr r).state = .empty → s.streamClaimsPlaced →
        ((s.lr r.partner).isFree = true → s.claimPending r.partner = false) →
      Completes (op.claim.kind.completion dt tie) s fun t =>
        let free := [evenReg n, oddReg n].find? fun p => p == r || (s.lr p).isFree
        s.receivesAs t n free x
          ∧ (free ≠ some r ∨ x.queue = [] → t.lr r = { s.lr r with discardPending := none })
          ∧ t.str (otherStream n) = s.str (otherStream n) ∧ t.hlc = s.hlc ∧ t.ntu = s.ntu ∧ t.rqe = s.rqe)
    ∧ ∀ kind req rest, x.state = .stopping → x.stopRequest = some kind → s.rqe.phase = .stopping n →
        s.rqe.queue = req :: rest → (s.lr r).state = .empty →
      Completes (op.claim.kind.completion dt tie) s fun t =>
        s.stopped s t n x kind req.tag rest (s.lr r.partner).isFree
          ∧ t.lr r = { s.lr r with discardPending := none }

/-- A COMMIT that is not to be discarded ends its segment: SEGMENT_MARK for a marked one, a completion counted for a
full range, and for a stop commit SEGMENT_ABANDONED, reason STOP, with the cells outside the filled sections, counted
as discarded, and one segment dropped. The register is EMPTY, and in a ring the segment's copy joins the queue or
waits. Then a stream without a receiving register takes the head, RUNNING again at an overrun boundary, and a stop
that waited for the register ends in IDLE, or waits on for the other register. A capture register that takes keeps its
cells (log entry 23). -/
def Obligations.CommitCompletionEndsSegment : Prop :=
  ∀ (s : State) (op : Operation) (dt : Nat) (tie : TieOrder) (r : LrId) (n : StreamId) (g : Segment),
    s.due dt op → op.claim.kind = .commit → op.claim.claimant = .register r → streamOf r = some n →
      (s.lr r).segment = some g → (s.lr r).discardPending ≠ some .commit → (s.lr r).state ≠ .active →
      s.claimPending r = false → s.streamClaimsPlaced → (s.str n).copiesInOrder →
    let x := s.str n
    let full := (s.lr r).position == g.count * 64
    let given := (s.lr r).position - 64 * sectionCount (s.lr r).filled
    let counters := if full then { x.counters with completed := satAdd x.counters.completed 1 }
      else { x.counters with
        dropped := satAdd x.counters.dropped 1
        discarded := satAdd x.counters.discarded given }
    let told := (match g.mark with
      | some m => s.report (.segmentMark n m g.row)
      | none => s).reportIf (!full) (.segmentAbandoned n g.row .stop given)
    let held := s.takesHeld n (some r) ++ (x.overrunSegment.map Taken.seq).toList
    let y : StreamRec := { x.afterFinish ⟨(s.lr r).takeSeq, g⟩ held with counters := counters }
    (x.state ≠ .stopping → ¬s.mayReceive n y ∨ y.queue = [] →
      Completes (.commitCompletion ⟨dt, tie⟩) s fun t =>
        t.lr r = (s.lr r).cleared none ∧ t.str n = y
          ∧ t.str (otherStream n) = s.str (otherStream n) ∧ t.hlc = told.hlc ∧ t.ntu = told.ntu ∧ t.rqe = s.rqe)
    ∧ (s.mayReceive n y → ((s.lr r.partner).isFree = true → s.claimPending r.partner = false) →
      Completes (.commitCompletion ⟨dt, tie⟩) s fun t =>
        let free := [evenReg n, oddReg n].find? fun p => p == r || (s.lr p).isFree
        s.receivesAs t n free y
          ∧ (free ≠ some r ∨ y.queue = [] → t.lr r = (s.lr r).cleared none)
          ∧ t.str (otherStream n) = s.str (otherStream n) ∧ t.hlc = told.hlc ∧ t.ntu = told.ntu ∧ t.rqe = s.rqe)
    ∧ ∀ kind req rest, x.state = .stopping → x.stopRequest = some kind → s.rqe.phase = .stopping n →
        s.rqe.queue = req :: rest →
      Completes (.commitCompletion ⟨dt, tie⟩) s fun t =>
        s.stopped told t n y kind req.tag rest (s.lr r.partner).isFree ∧ t.lr r = (s.lr r).cleared none

/-- In a ring, three cases of a segment whose COMMIT completes. With the next segment already being received its copy
joins the tail, since every segment still held was taken later. With an earlier-taken segment in the other register its
copy waits. In DRAINED, with a later-taken segment's copy waiting and no segment held, both copies join in take order:
the stream is READY, and takes the first of them. -/
def Obligations.CommittedRingSegmentRejoinsQueue : Prop :=
  ∀ (s : State) (op : Operation) (dt : Nat) (tie : TieOrder) (r : LrId) (n : StreamId) (g : Segment),
    s.due dt op → op.claim.kind = .commit → op.claim.claimant = .register r → streamOf r = some n →
      (s.lr r).segment = some g → (s.lr r).discardPending ≠ some .commit → (s.lr r).state ≠ .active →
      (s.str n).cyclic = true → (s.str n).overrunSegment = none →
    let x := s.str n
    (∀ q, x.state = .running → x.waiting = [] → s.receiving n = some q → (s.lr r).takeSeq < (s.lr q).takeSeq →
      Completes (.commitCompletion ⟨dt, tie⟩) s fun t =>
        (t.str n).queue = x.queue ++ [g] ∧ (t.str n).waiting = [] ∧ (t.str n).state = .running
          ∧ t.receiving n = some q ∧ (t.lr q).segment = (s.lr q).segment)
    ∧ (∀ earlier, x.state = .running → x.waiting = [] → x.queue = [] → (s.lr r.partner).segment = some earlier →
        (s.lr r.partner).takeSeq < (s.lr r).takeSeq →
      Completes (.commitCompletion ⟨dt, tie⟩) s fun t =>
        (t.str n).queue = [] ∧ (t.str n).waiting = [⟨(s.lr r).takeSeq, g⟩] ∧ (t.str n).state = .running)
    ∧ ∀ k, x.state = .drained → x.direction = .capture → x.stopRequest = none → x.queue = [] → x.waiting = [k] →
        (s.lr r).takeSeq < k.seq → (s.lr r.partner).segment = none → s.receiving n = none →
        s.claimPending r = false → s.streamClaimsPlaced →
        ((s.lr r.partner).isFree = true → s.claimPending r.partner = false) →
      Completes (.commitCompletion ⟨dt, tie⟩) s fun t =>
        (t.str n).state = .ready ∧ (t.str n).queue = [k.segment] ∧ (t.str n).waiting = []
          ∧ ∃ q, streamOf q = some n ∧ (t.lr q).state = .active ∧ (t.lr q).segment = some g

/-- A COPY_LOAD fills LR4 with the source row and its LOST flag and raises the COPY_COMMIT of the copy's range for the
destination: LR4 waits LOADED with its timer running, or is COMMITTING when the grant came at once. The COPY_COMMIT
empties LR4 and answers COPY_ROW, with SOURCE_LOST when the source was LOST at its load. Either, to be discarded and
with no COPY_ROW waiting, only clears discard pending and frees the circuit. -/
def Obligations.CopyRowLoadsCommitsAndAnswers : Prop :=
  (∀ (s : State) (op : Operation) (dt : Nat) (job : CopyJob),
      s.due dt op → op.claim.kind = .copyLoad → s.lrb.lr4.discardPending ≠ some .copyLoad →
        s.lrb.lr4.copy = some job → s.claimPending .lr4 = false →
      Completes (.copyLoadCompletion dt) s fun t =>
        let commit : Claim := ⟨.copyCommit (rangeSections job.first job.count), job.dest, .requestEngine, .host⟩
        (t.lr .lr4).content.length = 256
          ∧ (∀ col, col < 256 → (t.lr .lr4).content.getD col 0 = s.rat.memory.read op.claim.row col)
          ∧ (t.lr .lr4).sourceLost = (s.row op.claim.row).lost ∧ (t.lr .lr4).copy = some job
          ∧ ((commit ∈ t.arb.claims ∧ (t.lr .lr4).state = .loaded ∧ (t.lr .lr4).holdTimer = some t.clock)
              ∨ (∃ op', t.inFlight = some op' ∧ op'.claim = commit
                  ∧ op'.sourceLost = (s.row op.claim.row).lost
                  ∧ (t.lr .lr4).state = .committing ∧ (t.lr .lr4).holdTimer = none))
          ∧ s.cellsKept t ∧ t.rqe = s.rqe ∧ t.hlc = s.hlc ∧ t.ntu = s.ntu ∧ t.ste = s.ste)
    ∧ (∀ (s : State) (op : Operation) (dt : Nat) (tie : TieOrder) (range : SectionSet) (r : Request)
        (rest : List Request),
        s.due dt op → op.claim.kind = .copyCommit range → s.lrb.lr4.discardPending ≠ some .copyCommit →
          s.claimPending .lr4 = false → s.rqe.queue = r :: rest →
        Completes (.copyCommitCompletion ⟨dt, tie⟩) s fun t =>
          s.answers t r.tag rest .ok (if op.sourceLost then 2 else 0) []
            ∧ t.lr .lr4 = s.lrb.lr4.cleared none ∧ t.ntu = s.ntu ∧ t.ste = s.ste)
    ∧ ∀ (s : State) (op : Operation) (dt : Nat) (tie : TieOrder),
        s.due dt op → (op.claim.kind = .copyLoad ∨ ∃ range, op.claim.kind = .copyCommit range) →
          s.lrb.lr4.discardPending = op.claim.kind.discardKind → s.claimPending .lr4 = false →
          (∀ job, s.rqe.phase ≠ .copyWaiting job) →
        Completes (op.claim.kind.completion dt tie) s fun t =>
          t.lr .lr4 = { s.lrb.lr4 with discardPending := none } ∧ t.circuitFreed ∧ t.rqe = s.rqe ∧ t.hlc = s.hlc
            ∧ t.ntu = s.ntu ∧ t.ste = s.ste ∧ t.sst = s.sst

/-- FILL_ROWS raises the FILL of its first row with its value and its section mask; each FILL writes that value into
every cell of the masked sections of its row and leaves the others; and the next row's FILL carries the same value and
mask, until after the last row the reply counts the rows. A FILL whose request a RESET has abandoned writes, raises
nothing but what the refresh engine may, and answers nothing. -/
def Obligations.FillWritesValueIntoMaskedSections : Prop :=
  (∀ (s : State) (dt first last : Nat) (tie : TieOrder) (value : CellVal) (mask tag : Byte) (payload : List Byte)
      (rest : List Request),
      s.heads tag .fillRows payload rest → parseFill payload = some (first, last, value, mask) → last < 512 →
        first ≤ last → 1 ≤ mask.toNat → mask.toNat ≤ 15 → s.rat.state = .ready →
      Completes (.fillRows ⟨dt, tie⟩) s fun t =>
        t.hasClaim ⟨.fill value (mask.setWidth 4), first, .requestEngine, .host⟩
          ∧ t.rqe = { s.rqe with phase := .filling first last first value (mask.setWidth 4) }
          ∧ t.hlc = s.hlc ∧ s.onlyArbiterActs t)
    ∧ ∀ (s : State) (op : Operation) (dt first last : Nat) (tie : TieOrder) (value : CellVal) (mask : SectionSet),
        s.due dt op → op.claim.kind = .fill value mask → op.claim.row < 512 →
        Completes (.fillCompletion ⟨dt, tie⟩) s fun t =>
          (∀ row col, col < 256 → t.rat.memory.read row col =
            if row = op.claim.row ∧ mask.getLsbD (col / 64) = true then value else s.rat.memory.read row col)
          ∧ (∀ r rest, op.discarded = false → s.rqe.phase = .filling first last op.claim.row value mask →
              s.rqe.queue = r :: rest →
            (op.claim.row < last →
              t.hasClaim ⟨.fill value mask, op.claim.row + 1, .requestEngine, .host⟩
                ∧ t.rqe = { s.rqe with phase := .filling first last (op.claim.row + 1) value mask } ∧ t.hlc = s.hlc)
            ∧ (last ≤ op.claim.row → s.answers t r.tag rest .ok 0 (natBytes2 (last - first + 1))
                ∧ (rest = [] → t.circuitFreed)))
          ∧ (op.discarded = true → t.rqe = s.rqe ∧ t.hlc = s.hlc ∧ t.circuitFreed
              ∧ ∀ c, t.hasClaim c → s.hasClaim c ∨ c.cls = .routine)
          ∧ t.ste = s.ste ∧ t.ntu = s.ntu ∧ s.registersKept t ∧ t.sst = s.sst

/-- A host REFRESH goes row by row: each completion raises the next row's claim, and after the last row the reply counts
the rows; the grant decision then follows, or is left to the next request's beginning (log entry 5). A refresh of the
refresh engine, or one whose request a RESET has abandoned, raises nothing but what the refresh engine may, and answers
nothing. -/
def Obligations.RefreshGoesRowByRow : Prop :=
  ∀ (s : State) (op : Operation) (dt : Nat) (tie : TieOrder),
    s.due dt op → op.claim.kind = .refresh →
    Completes (.refreshCompletion ⟨dt, tie⟩) s fun t =>
      (∀ first last r rest, op.claim.cls = .host → op.discarded = false →
          s.rqe.phase = .refreshing first last op.claim.row → s.rqe.queue = r :: rest →
        (op.claim.row < last →
          t.hasClaim ⟨.refresh, op.claim.row + 1, .requestEngine, .host⟩
            ∧ t.rqe = { s.rqe with phase := .refreshing first last (op.claim.row + 1) } ∧ t.hlc = s.hlc)
        ∧ (last ≤ op.claim.row → s.answers t r.tag rest .ok 0 (natBytes2 (last - first + 1))
            ∧ if tie = .raiseFirst ∧ rest ≠ [] then t.arb.circuit = .free else t.circuitFreed))
      ∧ (op.claim.cls ≠ .host ∨ op.discarded = true → t.rqe = s.rqe ∧ t.hlc = s.hlc ∧ t.circuitFreed
          ∧ ∀ c, t.hasClaim c → s.hasClaim c ∨ c.cls = .routine)
      ∧ s.cellsKept t ∧ t.ste = s.ste ∧ t.ntu = s.ntu ∧ s.registersKept t ∧ t.sst = s.sst

/-- A SCRUB takes its row off the scrub list; the one of row 511 ends INIT and reports INIT_DONE. -/
def Obligations.ScrubCompletionFreesRow : Prop :=
  ∀ (s : State) (op : Operation) (dt : Nat),
    s.due dt op → op.claim.kind = .scrub →
    Completes (.scrubCompletion dt) s fun t =>
      let ends := s.rat.state == .init && op.claim.row == 511
      t.rfe.scrubList = s.rfe.scrubList.erase op.claim.row
        ∧ t.rat.state = (if ends then .ready else s.rat.state)
        ∧ t.hlc = (s.reportIf ends .initDone).hlc ∧ t.ntu = (s.reportIf ends .initDone).ntu
        ∧ t.rat.lossFill = s.rat.lossFill ∧ t.rfe.mode = s.rfe.mode ∧ t.rqe = s.rqe ∧ t.ste = s.ste ∧ t.sst = s.sst
        ∧ s.registersKept t

/-- The OPEN of an OPEN request answers with the handle and restarts the idle timer. The row stays held for a next
request that is a column request on the session, while no grantable claim above HOST waits; with another request next
it is closed at once, or at that request's beginning (log entry 5); with none it is closed. The OPEN of a reopen holds
the row for the waiting burst and starts it, whatever claims wait. An OPEN whose request a RESET has abandoned only
frees the circuit. -/
def Obligations.OpenCompletionHoldsOrFreesRow : Prop :=
  ∀ (s : State) (op : Operation) (dt : Nat) (tie : TieOrder),
    s.due dt op → op.claim.kind = .openRow →
    (∀ (k : SlotId) (r : Request) (rest : List Request), op.discarded = false → s.rqe.phase = .opening k →
        s.rqe.queue = r :: rest → (s.slot k).inUse = true →
      Completes (.openCompletion dt tie) s fun t =>
        let preempts := s.arb.claims.any fun c =>
          c.cls.aboveHost && s.grantable c && !(c.cls == .urgent && c.row == op.claim.row)
        let stays := if s.columnNext k rest then !preempts else tie == .raiseFirst && !rest.isEmpty
        s.answers t r.tag rest .ok 0 [slotCode k, (s.slot k).generation]
          ∧ t.slot k = { s.slot k with
            state := if stays then .opened else .parked
            holdStart := t.clock
            idleTimer := some t.clock }
          ∧ (if stays then t.arb.circuit = .held k op.claim.row else t.circuitFreed)
          ∧ (∀ q, q ≠ k → t.slot q = s.slot q)
          ∧ s.cellsKept t ∧ t.ntu = s.ntu ∧ t.ste = s.ste ∧ s.registersKept t)
    ∧ (∀ (k : SlotId) (job : ColumnJob), op.discarded = false → s.rqe.phase = .reopening k job →
      Completes (.openCompletion dt tie) s fun t =>
        t.arb.circuit = .bursting (some k) op.claim.row job t.clock
          ∧ t.slot k = { s.slot k with state := .opened, holdStart := t.clock }
          ∧ (∀ q, q ≠ k → t.slot q = s.slot q)
          ∧ t.rqe = { s.rqe with phase := .bursting } ∧ t.hlc = s.hlc ∧ t.ntu = s.ntu ∧ t.ste = s.ste
          ∧ t.lrb = s.lrb ∧ s.cellsKept t)
    ∧ (op.discarded = true →
      Completes (.openCompletion dt tie) s fun t =>
        t.circuitFreed ∧ (∀ c, t.hasClaim c → s.hasClaim c ∨ c.cls = .routine) ∧ t.rqe = s.rqe ∧ t.hlc = s.hlc
          ∧ t.sst = s.sst ∧ t.ntu = s.ntu ∧ t.ste = s.ste ∧ s.cellsKept t ∧ s.registersKept t)

/-- The end of a burst, where it takes effect (log entry 12): WRITE gives each cell of its columns the new value, bit by
bit where its mask is 1, EXCHANGE the new value, READ nothing; every other cell reads as before, and no row's age, LOST
flag or place changes. The reply of READ and EXCHANGE carries the values before the burst and LOST_DATA; the session's
idle timer restarts. The row stays held for a next column request on the session, while no grantable claim above HOST
waits; else it is closed, at once or, with a request waiting, at that request's beginning (log entry 5). A burst whose
request a RESET has abandoned writes its cells, frees the circuit and answers nothing. -/
def Obligations.BurstEndWritesColumnsAndAnswers : Prop :=
  ∀ (s : State) (dt row start : Nat) (tie : TieOrder) (slot : Option SlotId) (job : ColumnJob),
    s.live = true → s.arb.circuit = .bursting slot row job start → start + job.count * 40 ≤ s.clock + dt →
      row < 512 →
    Completes (.columnBurstEnd dt tie) s fun t =>
      (∀ q col, col < 256 →
        let old := s.rat.memory.read q col
        let new := job.data.getD (col - job.first) 0
        let now := t.rat.memory.read q col
        if q = row ∧ job.first ≤ col ∧ col < job.first + job.count then
          match job.action with
          | .read => now = old
          | .write none => now = new
          | .write (some mask) =>
            ∀ b, b < 16 → now.getLsbD b = if mask.getLsbD b then new.getLsbD b else old.getLsbD b
          | .exchange => now = new
        else now = old)
      ∧ t.rat.table = s.rat.table ∧ t.rfe = s.rfe ∧ t.ste = s.ste ∧ t.ntu = s.ntu ∧ s.registersKept t
      ∧ (slot = none → t.rqe = s.rqe ∧ t.hlc = s.hlc ∧ t.sst = s.sst ∧ t.circuitFreed)
      ∧ ∀ k r rest, slot = some k → s.rqe.queue = r :: rest →
        let preempts := s.arb.claims.any fun c => c.cls.aboveHost && s.grantable c
        let stays := if s.columnNext k rest then !preempts else tie == .raiseFirst && !rest.isEmpty
        (match job.action with
            | .write _ => s.answers t r.tag rest .ok 0 []
            | _ => s.answers t r.tag rest .ok (if (s.row row).lost then 1 else 0)
              ((List.range job.count).flatMap fun i => cellBytes (s.rat.memory.read row (job.first + i))))
          ∧ t.slot k = { s.slot k with
            state := if stays then (s.slot k).state else .parked
            idleTimer := some t.clock }
          ∧ (if stays then t.arb = { s.arb with circuit := .held k row } else t.circuitFreed)
          ∧ ∀ q, q ≠ k → t.slot q = s.slot q

/-! ## The arbiter -/

/-- Which claim a grant decision takes. From a FREE circuit, and from a held row when a grantable claim above HOST is
pending, one claim of the highest class that has a grantable one: the oldest row's, the one nearest the front of the
scrub list, or the preferred stream's earlier-taken; then the other stream is preferred. Without such a claim a held row
stays held. So it is at the completion of a refresh, at the end of an abandoned burst, and where a deadline finds the
circuit FREE. -/
def Obligations.GrantDecisionTakesHighestClaim : Prop :=
  ∀ s : State, s.claimsRanked →
    (s.arb.circuit = .free → s.settle.decided s.arb.claims s.arb.preferred)
    ∧ (∀ k row, s.arb.circuit = .held k row →
        if s.arb.claims.any (fun c => c.cls.aboveHost && s.grantable c) then
          s.settle.decided s.arb.claims s.arb.preferred ∧ (s.settle.slot k).state = .parked
        else s.settle = s)
    ∧ (∀ (op : Operation) (dt : Nat) (tie : TieOrder), s.due dt op → op.claim.kind = .refresh →
        op.claim.cls ≠ .host ∨ op.discarded = true →
      Completes (.refreshCompletion ⟨dt, tie⟩) s fun t => ∃ routine : Option Nat,
        t.decided ((s.arb.claims.filter fun c => !((c.cls == .routine || c.cls == .urgent) && c.row == op.claim.row))
          ++ (routine.map fun row => ⟨.refresh, row, .refreshEngine, .routine⟩).toList) s.arb.preferred)
    ∧ (∀ (dt row start : Nat) (tie : TieOrder) (job : ColumnJob), s.live = true →
        s.arb.circuit = .bursting none row job start → start + job.count * 40 ≤ s.clock + dt →
      Completes (.columnBurstEnd dt tie) s fun t => t.decided s.arb.claims s.arb.preferred)
    ∧ ∀ dt row : Nat, row < 512 → s.live = true → s.arb.circuit = .free →
        8000000 ≤ s.clock + dt - (s.row row).completedAt → (s.row row).scrubPending = false →
      Completes (.deadline dt row) s fun t =>
        t.decided (s.arb.claims ++ [⟨.scrub, row, .refreshEngine, .scrub⟩]) s.arb.preferred

/-! ## Retention -/

/-- ROUTINE_THRESHOLD raises a ROUTINE claim for the head of the order list in AUTO mode when the head's age is 4.0 ms
or more, no scrub of it is pending, no URGENT claim on it and no ROUTINE claim at all is held, and no row operation on
it is in flight. In HOSTED mode, or with a ROUTINE claim held, it raises nothing. -/
def Obligations.RoutineThresholdClaimsHeadRow : Prop :=
  ∀ (s : State) (dt head : Nat) (rest : List Nat), s.live = true → s.rfe.order = head :: rest →
    (s.rfe.mode = .auto → s.holdsClaim (fun c => c.cls == .routine) = false →
        4000000 ≤ s.clock + dt - (s.row head).completedAt → (s.row head).scrubPending = false →
        s.holdsClaim (fun c => c.cls == .urgent && c.row == head) = false →
        (∀ op, s.inFlight = some op → op.claim.row ≠ head) →
      Completes (.routineThreshold dt) s fun t =>
        t.hasClaim ⟨.refresh, head, .refreshEngine, .routine⟩ ∧ s.onlyArbiterActs t ∧ t.rqe = s.rqe ∧ t.hlc = s.hlc)
    ∧ (s.rfe.mode = .hosted ∨ s.holdsClaim (fun c => c.cls == .routine) = true →
        Completes (.routineThreshold dt) s fun t => s.raisesNothing t ∧ t.rqe = s.rqe ∧ t.hlc = s.hlc)

/-- URGENT_CROSSING of a row of 7.0 ms or more, once between two completions and with no scrub pending and nothing in
flight on the row: in AUTO mode an URGENT claim on the row is held and no ROUTINE claim on it is left; in HOSTED mode
ROW_AGING is reported and nothing else changes. A crossing already taken only moves the clock (log entry 3). -/
def Obligations.UrgentCrossingClaimsOrReports : Prop :=
  ∀ (s : State) (dt row : Nat), row < 512 → s.live = true →
    ((s.row row).crossed = true → Completes (.urgentCrossing dt row) s fun t => t = { s with clock := s.clock + dt })
    ∧ (7000000 ≤ s.clock + dt - (s.row row).completedAt → (s.row row).crossed = false →
        (s.row row).scrubPending = false → (∀ op, s.inFlight = some op → op.claim.row ≠ row) →
      (s.rfe.mode = .auto →
        Completes (.urgentCrossing dt row) s fun t =>
          t.holdsClaim (fun c => c.cls == .urgent && c.row == row) = true
            ∧ (∀ c ∈ t.arb.claims, c.cls = .routine → c.row ≠ row)
            ∧ t.row row = { s.row row with crossed := true } ∧ (∀ q, q ≠ row → t.row q = s.row q)
            ∧ s.cellsKept t ∧ t.rfe = s.rfe ∧ t.rqe = s.rqe ∧ t.hlc = s.hlc ∧ t.ntu = s.ntu ∧ t.ste = s.ste
            ∧ s.registersKept t ∧ s.slotsKept t)
      ∧ (s.rfe.mode = .hosted →
        Completes (.urgentCrossing dt row) s fun t =>
          t.hlc = (s.report (.rowAging row)).hlc ∧ t.ntu = (s.report (.rowAging row)).ntu
            ∧ t.row row = { s.row row with crossed := true } ∧ (∀ q, q ≠ row → t.row q = s.row q)
            ∧ s.cellsKept t ∧ t.rfe = s.rfe ∧ t.arb = s.arb ∧ t.lrb = s.lrb ∧ t.ste = s.ste ∧ t.sst = s.sst
            ∧ t.rqe = s.rqe))

/-- DEADLINE of a row of 8.0 ms or more with no scrub pending and nothing in flight on it: the row is LOST with a scrub
pending, joins the tail of the scrub list, has its SCRUB claimed, and ROW_LOST is reported; its cells stay as they are.
With a scrub pending, or a row operation on the row in flight, only the clock moves. -/
def Obligations.DeadlineLosesRow : Prop :=
  ∀ (s : State) (dt row : Nat), row < 512 → s.live = true → s.rat.table.length = 512 →
    ((s.row row).scrubPending = true ∨ (∃ op, s.inFlight = some op ∧ op.claim.row = row) →
      Completes (.deadline dt row) s fun t => t = { s with clock := s.clock + dt })
    ∧ (8000000 ≤ s.clock + dt - (s.row row).completedAt → (s.row row).scrubPending = false →
        (∀ op, s.inFlight = some op → op.claim.row ≠ row) →
      Completes (.deadline dt row) s fun t =>
        t.row row = { s.row row with lost := true, scrubPending := true } ∧ (∀ q, q ≠ row → t.row q = s.row q)
          ∧ s.cellsKept t ∧ t.rfe = { s.rfe with scrubList := s.rfe.scrubList ++ [row] }
          ∧ t.hasClaim ⟨.scrub, row, .refreshEngine, .scrub⟩
          ∧ t.hlc = (s.report (.rowLost row)).hlc ∧ t.ntu = (s.report (.rowLost row)).ntu
          ∧ t.rqe = s.rqe ∧ t.ste = s.ste ∧ s.registersKept t ∧ s.slotsKept t)

/-! ## Notices and the host link -/

/-- A report of a masked kind leaves no trace. Otherwise, with a loss marker queued, or with 15 notices queued, the
notice is discarded and counted by the marker and in the total; else it joins the tail of the outbound queue. -/
def Obligations.ReportPassesMaskAndQuota : Prop :=
  ∀ (s : State) (n : Notice),
    let bit := match n with
      | .initDone => 0
      | .rowLost _ => 1
      | .rowAging _ => 2
      | .segmentMark .. => 3
      | .segmentLost .. => 4
      | .streamUnderrun .. => 5
      | .segmentAbandoned .. => 6
      | .streamDrained _ => 7
      | .streamStopped .. => 8
      | .sessionExpired .. => 9
    let total := { s.ntu with lostTotal := satAdd s.ntu.lostTotal 1 }
    (s.ntu.mask.getLsbD bit = false → s.report n = s)
      ∧ (s.ntu.mask.getLsbD bit = true →
        (s.hlc.outq.any Frame.isMarker = true →
          s.report n = { s with hlc := { s.hlc with outq := s.hlc.outq.map Frame.countDiscard }, ntu := total })
        ∧ (s.hlc.outq.any Frame.isMarker = false → s.noticeCount < 15 →
          s.report n = { s with hlc := { s.hlc with outq := s.hlc.outq ++ [.notice n], attn := true } })
        ∧ (s.hlc.outq.any Frame.isMarker = false → 15 ≤ s.noticeCount →
          s.report n =
            { s with hlc := { s.hlc with outq := s.hlc.outq ++ [.lossMarker 1 1], attn := true }, ntu := total }))

/-- The fall of HCS selects the head of the outbound queue, or an IDLE frame when it is empty, and fixes every byte:
SYNC, the body's length, the admission report, the type, the body, and the check value of all but SYNC. A loss marker
selected has no discards added since its bytes were fixed. Nothing else changes; HDO carries the bytes, each from its
most significant bit, then 0. -/
def Obligations.HcsFallFixesFrame : Prop :=
  ∀ (s : State) (dt : Nat), s.live = true → s.hlc.hcsHigh = true →
    Completes (.hcsFall dt) s fun t =>
      (∀ k, t.hlc.hdo k = some (((t.hlc.txn.elim [] Transaction.frame).getD (k / 8) 0).getMsbD (k % 8))) ∧
      let sent : Byte × List Byte := match s.hlc.outq with
        | [] => (0x00, [])
        | .reply tag status flags data :: _ => (0x01, tag :: status.code :: flags :: data)
        | .notice n :: _ => (0x02, n.body)
        | .lossMarker count _ :: _ => (0x02, [0x0B, count.extractLsb' 8 8, count.extractLsb' 0 8])
      let covered := [BitVec.ofNat 8 sent.2.length, s.hlc.admTag, s.hlc.admResult.code, sent.1] ++ sent.2
      let check := crc covered
      t = { s with
        clock := s.clock + dt
        hlc := { s.hlc with
          hcsHigh := false
          txn := some ⟨!s.hlc.outq.isEmpty, 0xC3 :: covered ++ [check.extractLsb' 8 8, check.extractLsb' 0 8]⟩
          outq := match s.hlc.outq with
            | .lossMarker count _ :: rest => .lossMarker count 0 :: rest
            | outq => outq } }

/-- The end of a transaction. The levels of HDI at the rising edges of HCK, which come with it (log entry 19), make
bytes, each from its most significant bit; a last byte that is not whole is dropped. The frame sent whole leaves the
queue, and with a reply its tag leaves the outstanding set; then the bytes received are admitted or refused by R151's
checks in order; then the admission report is replaced. HDO carried the frame's bits, then 0. An accepted request,
RESET apart, joins the tail of the request queue and its tag the set; a refused one changes nothing. -/
def Obligations.TransactionEndRemovesThenAdmits : Prop :=
  ∀ (s : State) (dt : Nat) (bits : List Bool) (x : Transaction), s.live = true → s.hlc.txn = some x →
    s.attnFollowsQueue →
    let bytes := bytesOf bits
    let tags := s.tagsAfter x bytes.length
    let result := admissionOf tags bytes
    let tag := bytes.getD 2 0
    (bytes.length = bits.length / 8
      ∧ ∀ i b, i < bytes.length → b < 8 → (bytes.getD i 0).getMsbD b = bits.getD (8 * i + b) false)
    ∧ (¬(result = .accepted ∧ bytes.getD 3 0 = 0x04) →
      Completes (.transactionEnd dt bits) s fun t =>
        t.hlc = { t.hlc with
            hcsHigh := true
            txn := none
            admTag := if bytes.head? = some 0xC3 then tag else 0
            admResult := result
            outq := s.hlc.queueAfter x bytes.length
            attn := !(s.hlc.queueAfter x bytes.length).isEmpty }
          ∧ t.hlc.lastSent.length = bits.length
          ∧ (∀ k, k < bits.length → t.hlc.lastSent.getD k false = (x.frame.getD (k / 8) 0).getMsbD (k % 8))
          ∧ (if result = .accepted then
              ∃ k : RequestKind, k.code = bytes.getD 3 0 ∧ t.rqe = { s.rqe with
                queue := s.rqe.queue ++ [⟨tag, k, (bytes.drop 4).take (bytes.getD 1 0).toNat⟩]
                tags := tags ++ [tag] }
            else t.rqe = { s.rqe with tags := tags })
          ∧ s.raisesNothing t)

/-- A RESET takes effect at its admission: the queues, sessions, streams, line registers, settings and notices return
to their defaults, the reply is queued alone, and STREAM and HOST claims are gone; the array, the row table, the order
list, the scrub list, the claims that protect retention and the operation in flight stay, an operation of the host's,
or of an emptied register, to be discarded. -/
def Obligations.ResetKeepsArrayAndRetention : Prop :=
  ∀ (s : State) (dt : Nat) (bits : List Bool) (x : Transaction), s.live = true → s.hlc.txn = some x →
    let bytes := bytesOf bits
    admissionOf (s.tagsAfter x bytes.length) bytes = .accepted → bytes.getD 3 0 = 0x04 →
    Completes (.transactionEnd dt bits) s fun t =>
      let tag := bytes.getD 2 0
      (t.rat = { s.rat with lossFill := 0 } ∧ s.cellsKept t ∧ t.rfe = { s.rfe with mode := .auto })
        ∧ (t.rqe = ⟨[], [tag], .free⟩
          ∧ t.hlc.outq = [.reply tag (if bytes.getD 1 0 = 0 then .ok else .badPayload) 0 []] ∧ t.hlc.attn = true
          ∧ t.hlc.txn = none ∧ t.hlc.hcsHigh = true ∧ t.hlc.admTag = tag ∧ t.hlc.admResult = .accepted)
        ∧ (t.ntu.mask = 0x3FF ∧ t.ntu.lostTotal = 0)
        ∧ (∀ n, (t.str n).blank)
        ∧ (∀ r, s.emptied t r)
        ∧ (∀ k, t.slot k = { s.slot k with inUse := false, state := .parked, idleTimer := none })
        ∧ (t.arb.preferred = .s0
          ∧ (∀ c ∈ t.arb.claims, c.cls ≠ .stream ∧ c.cls ≠ .host)
          ∧ (∀ c ∈ s.arb.claims, c.cls ≠ .stream → c.cls ≠ .host → c.register? = none → t.hasClaim c)
          ∧ (∀ op, s.inFlight = some op →
              t.inFlight = some { op with discarded := op.discarded || op.claim.cls == .host })
          ∧ (∀ slot row job start, s.arb.circuit = .bursting slot row job start →
              t.arb.circuit = .bursting none row job start)
          ∧ (∀ k row, t.arb.circuit ≠ .held k row)
          ∧ (∀ start, s.arb.circuit = .warmup start → t.arb.circuit = .warmup start))
        ∧ (∀ row ∈ s.rfe.order, s.rfe.mode = .hosted → 7000000 ≤ s.clock + dt - (s.row row).completedAt →
            (s.row row).scrubPending = false → (∀ op, s.inFlight = some op → op.claim.row ≠ row) →
            t.holdsClaim (fun c => c.cls == .urgent && c.row == row) = true)

/-! ## Requests -/

/-- IDENTIFY is answered OK in every state of the part with the fixed values; with nothing for the arbiter to do, the
reply is all that changes. -/
def Obligations.IdentifyAnswersFixedValues : Prop :=
  ∀ (s : State) (dt : Nat) (tie : TieOrder) (tag : Byte) (rest : List Request), s.heads tag .identify [] rest →
    Completes (.identify ⟨dt, tie⟩) s fun t =>
      s.answers t tag rest .ok 0 [0x4B, 0x25, 0x16, 0x01, 0x02, 0x00, 0x01, 0x00, 0x05]
        ∧ s.raisesNothing t
        ∧ (s.arbiterAtRest → t = { s with clock := s.clock + dt, rqe := t.rqe, hlc := t.hlc })

/-- STATUS, ROW_QUERY and STREAM_QUERY answer with the values of the one moment of their execution and change nothing
but the reply. -/
def Obligations.QueriesReportTheState : Prop :=
  ∀ (s : State) (dt : Nat) (tie : TieOrder) (tag : Byte) (rest : List Request),
    (s.heads tag .status [] rest →
      Completes (.status ⟨dt, tie⟩) s fun t =>
        let age := match s.rfe.order with
          | [] => 0
          | head :: _ => min ((s.clock + dt - (s.row head).completedAt) / 1000) 65535
        s.answers t tag rest .ok 0
            ([s.rat.state.code, s.rfe.mode.code] ++ natBytes2 (s.rat.table.filter (fun e => e.lost)).length
              ++ natBytes2 age ++ [(s.str .s0).state.code, (s.str .s1).state.code, natByte s.slotsInUse,
                natByte s.rqe.tags.length] ++ cellBytes s.ntu.lostTotal)
          ∧ s.raisesNothing t)
    ∧ (∀ a b c : Byte, s.heads tag .rowQuery [a, b, c] rest → 1 ≤ c.toNat → c.toNat ≤ 64 →
        natOf a b + c.toNat ≤ 512 →
      Completes (.rowQuery ⟨dt, tie⟩) s fun t =>
        s.answers t tag rest .ok 0 ((List.range c.toNat).flatMap fun i =>
            let e := s.row (natOf a b + i)
            [(if e.lost then 1 else 0) ||| (if e.scrubPending then 2 else 0)]
              ++ natBytes2 (min ((s.clock + dt - e.completedAt) / 1000) 65535))
          ∧ s.raisesNothing t)
    ∧ (∀ (b : Byte) (n : StreamId), s.heads tag .streamQuery [b] rest → streamOfCode b = some n →
      Completes (.streamQuery ⟨dt, tie⟩) s fun t =>
        let x := s.str n
        let current := match x.direction with
          | .playback => s.playCurrent n
          | .capture => s.receiving n
          | .none => none
        let segment : List Byte := match x.overrunSegment, current with
          | some k, _ => [0x02] ++ natBytes2 k.segment.row ++ natBytes2 x.overrunCount ++ [0x01]
          | none, some r => [0x01] ++ natBytes2 ((s.lr r).segment.elim 0 Segment.row) ++ natBytes2 (s.lr r).position
              ++ [natByte (s.lr r).passesLeft]
          | none, none => [0, 0, 0, 0, 0, 0]
        s.answers t tag rest .ok 0
            ([x.direction.code, x.state.code, x.policy.code] ++ cellBytes x.fill
              ++ [if x.cyclic then 1 else 0, x.stopRequest.elim 0xFF StopKind.code, natByte x.queue.length,
                natByte (s.heldRegs n).length] ++ segment ++ [natByte x.waiting.length]
              ++ wordBytes x.counters.cellsMoved ++ wordBytes x.counters.fillCells
              ++ wordBytes x.counters.starvedCells ++ wordBytes x.counters.underruns
              ++ wordBytes x.counters.completed ++ wordBytes x.counters.dropped
              ++ wordBytes x.counters.reloads ++ wordBytes x.counters.discarded)
          ∧ s.raisesNothing t)

/-- CONFIGURE applies its present fields, the mask first, and answers with the three settings as they then stand. A mode
already in force changes nothing more. A change to HOSTED withdraws the pending ROUTINE and URGENT claims and reports
ROW_AGING, oldest row first, under the new mask, for each row past 7.0 ms whose crossing is not itself due now (log
entries 17, 18); a change to AUTO claims an URGENT refresh for each row of 7.0 ms or more. -/
def Obligations.ConfigureAppliesPresentFields : Prop :=
  ∀ (s : State) (dt : Nat) (tie : TieOrder) (tag : Byte) (payload : List Byte) (rest : List Request)
      (f : ConfigureFields) (mode : RefreshMode),
    s.heads tag .configure payload rest → parseConfigure payload = some f →
      (match f.mode with
        | some b => RefreshMode.ofCode b = some mode
        | none => mode = s.rfe.mode) →
      (∀ m, f.mask = some m → m.toNat < 1024) →
    Completes (.configure ⟨dt, tie⟩) s fun t =>
      let fill := f.lossFill.getD s.rat.lossFill
      let mask := (f.mask.getD (s.ntu.mask.setWidth 16)).setWidth 10
      let reply : Frame := .reply tag .ok 0 (mode.code :: cellBytes fill ++ cellBytes (mask.setWidth 16))
      let aged := fun row => 7000000 ≤ s.clock + dt - (s.row row).completedAt ∧ (s.row row).scrubPending = false
        ∧ ∀ op, s.inFlight = some op → op.claim.row ≠ row
      (t.rfe = { s.rfe with mode := mode } ∧ t.rat.lossFill = fill ∧ t.rat.state = s.rat.state ∧ t.ntu.mask = mask
          ∧ t.rqe = { s.rqe with queue := rest, phase := .free } ∧ t.hlc.outq.getLast? = some reply
          ∧ t.hlc.attn = true ∧ s.cellsKept t ∧ s.registersKept t ∧ s.slotsKept t ∧ t.ste = s.ste)
        ∧ (mode = s.rfe.mode →
            s.answers t tag rest .ok 0 (mode.code :: cellBytes fill ++ cellBytes (mask.setWidth 16))
              ∧ t.ntu.lostTotal = s.ntu.lostTotal ∧ t.rat.table = s.rat.table ∧ ∀ c, t.hasClaim c → s.hasClaim c)
        ∧ (s.rfe.mode = .auto → mode = .hosted →
            (∀ c ∈ t.arb.claims, c.cls ≠ .routine ∧ c.cls ≠ .urgent)
              ∧ ∃ rows : List Nat,
                rows.Sublist s.rfe.order
                  ∧ (∀ row, row ∈ rows ↔ row ∈ s.rfe.order ∧ aged row
                      ∧ ((s.row row).crossed = true ∨ 7000000 < s.clock + dt - (s.row row).completedAt))
                  ∧ (let told := rows.foldl (fun u row => u.report (.rowAging row))
                        { s with ntu := { s.ntu with mask := mask } }
                     t.hlc = { told.hlc with outq := told.hlc.outq ++ [reply], attn := true }
                      ∧ t.ntu = told.ntu))
        ∧ (s.rfe.mode = .hosted → mode = .auto →
            t.hlc.outq = s.hlc.outq ++ [reply] ∧ t.ntu.lostTotal = s.ntu.lostTotal
              ∧ ∀ row ∈ s.rfe.order, aged row →
                  t.holdsClaim (fun c => c.cls == .urgent && c.row == row) = true)

/-- A request that a check of its rule refuses is answered with the first failing check's status, no flags and no data,
and nothing else comes of it; a column request refused RANGE is the next statement's. -/
def Obligations.RefusedRequestOnlyAnswers : Prop :=
  ∀ (s : State) (dt : Nat) (tie : TieOrder) (i : Instr) (tag : Byte) (k : RequestKind) (payload : List Byte)
      (rest : List Request) (status : Status),
    s.heads tag k payload rest → k.command dt tie = some i → s.refusal k payload = some status →
      (k.isColumn = true → status ≠ .range) →
    Completes i s fun t => s.answers t tag rest status 0 [] ∧ s.raisesNothing t

/-- READ, WRITE and EXCHANGE on a session, count and range first: out of range they are answered RANGE, with the idle
timer restarted and the row kept held for a next column request on it; else, on the held row within the open limit, the
burst starts; else the held row, if any, is closed and the session's row claimed for a reopen. -/
def Obligations.ColumnRequestBurstsOrReopens : Prop :=
  ∀ (s : State) (dt : Nat) (tie : TieOrder) (i : Instr) (tag : Byte) (kind : RequestKind) (payload : List Byte)
      (rest : List Request) (f : ColumnFields) (k : SlotId),
    s.heads tag kind payload rest → kind.command dt tie = some i →
      Request.columnFields ⟨tag, kind, payload⟩ = some f → f.slot = slotCode k → (s.slot k).inUse = true →
      (s.slot k).generation = f.generation →
    Completes i s fun t =>
      let most := if kind = .exchange then 16 else 64
      (∀ q, q ≠ k → t.slot q = { s.slot q with state := (t.slot q).state })
        ∧ s.blocksKept t ∧ s.registersKept t
        ∧ if f.job.count = 0 ∨ most < f.job.count ∨ 256 < f.job.first + f.job.count then
            s.answers t tag rest .range 0 []
              ∧ t.slot k = { s.slot k with state := (t.slot k).state, idleTimer := some t.clock }
              ∧ (∀ c, t.hasClaim c → s.hasClaim c)
              ∧ (∀ row, s.arb.circuit = .held k row → s.arb.claims = [] → s.columnNext k rest = true →
                  t.arb = s.arb ∧ t.slot k = { s.slot k with idleTimer := some t.clock })
          else
            let startsNow := decide (s.clock + dt - (s.slot k).holdStart + f.job.count * 40 ≤ 10000)
            t.hlc = s.hlc
              ∧ match s.arb.circuit, startsNow with
                | .held k' row, true =>
                  if k' = k then
                    t.arb = { s.arb with circuit := .bursting (some k) row f.job t.clock }
                      ∧ t.slot k = { s.slot k with idleTimer := none } ∧ t.rqe = { s.rqe with phase := .bursting }
                      ∧ t.lrb = s.lrb
                  else s.reopens t k f.job
                | _, _ => s.reopens t k f.job

/-- OPEN takes the lowest free slot, advances its generation and claims its row; CLOSE frees the session's slot and
keeps its generation. -/
def Obligations.OpenAndCloseChangeOneSlot : Prop :=
  ∀ (s : State) (dt : Nat) (tie : TieOrder) (tag : Byte) (rest : List Request) (k : SlotId) (x y : Byte),
    (s.heads tag .openRow [x, y] rest → natOf x y < 512 → s.rat.state = .ready → (s.slot k).inUse = false →
        (∀ q, (slotCode q).toNat < (slotCode k).toNat → (s.slot q).inUse = true) →
      Completes (.openRow ⟨dt, tie⟩) s fun t =>
        t.slot k = { s.slot k with
            inUse := true
            generation := (s.slot k).generation + 1
            row := natOf x y
            state := .parked
            idleTimer := none }
          ∧ (∀ q, q ≠ k → t.slot q = { s.slot q with state := (t.slot q).state })
          ∧ t.hasClaim ⟨.openRow, natOf x y, .requestEngine, .host⟩ ∧ t.rqe = { s.rqe with phase := .opening k }
          ∧ t.hlc = s.hlc ∧ s.blocksKept t ∧ s.registersKept t)
    ∧ (s.heads tag .close [x, y] rest → x = slotCode k → (s.slot k).inUse = true → (s.slot k).generation = y →
      Completes (.close ⟨dt, tie⟩) s fun t =>
        s.answers t tag rest .ok 0 []
          ∧ t.slot k = { s.slot k with inUse := false, state := .parked, idleTimer := none }
          ∧ (∀ q, q ≠ k → t.slot q = { s.slot q with state := (t.slot q).state })
          ∧ (∀ c, t.hasClaim c → s.hasClaim c) ∧ s.blocksKept t ∧ s.registersKept t)

/-- REFRESH claims its first row. COPY_ROW starts LR4's load of the source, or waits while LR4 has an operation to
discard; the completion of that operation starts it. -/
def Obligations.RefreshAndCopyRowBegin : Prop :=
  (∀ (s : State) (dt : Nat) (tie : TieOrder) (tag a b c d : Byte) (rest : List Request),
      s.heads tag .refresh [a, b, c, d] rest → natOf a b ≤ natOf c d → natOf c d < 512 → s.rat.state = .ready →
      Completes (.refresh ⟨dt, tie⟩) s fun t =>
        t.hasClaim ⟨.refresh, natOf a b, .requestEngine, .host⟩
          ∧ t.rqe = { s.rqe with phase := .refreshing (natOf a b) (natOf c d) (natOf a b) }
          ∧ t.hlc = s.hlc ∧ s.onlyArbiterActs t)
    ∧ (∀ (s : State) (dt : Nat) (tie : TieOrder) (tag a b c d f n : Byte) (rest : List Request),
      let job : CopyJob := ⟨natOf a b, natOf c d, f.toNat, n.toNat⟩
      s.heads tag .copyRow [a, b, c, d, f, n] rest → job.source < 512 → job.dest < 512 → job.first ≤ 3 →
        1 ≤ job.count → job.count ≤ 4 - job.first → s.rat.state = .ready → s.claimPending .lr4 = false →
      Completes (.copyRow ⟨dt, tie⟩) s fun t =>
        t.hlc = s.hlc ∧ s.blocksKept t ∧ s.slotsKept t ∧ (∀ r, r ≠ .lr4 → s.granted t r)
          ∧ if s.lrb.lr4.discardPending = none then s.copyStarts t job
            else t.lr .lr4 = s.lr .lr4 ∧ t.rqe = { s.rqe with phase := .copyWaiting job }
              ∧ ∀ c, t.hasClaim c → s.hasClaim c)
    ∧ ∀ (s : State) (op : Operation) (dt : Nat) (tie : TieOrder) (job : CopyJob),
        s.due dt op → (op.claim.kind = .copyLoad ∨ ∃ range, op.claim.kind = .copyCommit range) →
          s.lrb.lr4.discardPending = op.claim.kind.discardKind → s.claimPending .lr4 = false →
          s.rqe.phase = .copyWaiting job →
        Completes (op.claim.kind.completion dt tie) s fun t => s.copyStarts t job ∧ t.hlc = s.hlc ∧ t.ntu = s.ntu

/-! ## Stream requests -/

/-- STREAM_SETUP, accepted in DISABLED or IDLE, sets the five fields, clears the queue and the counters and makes the
stream DISABLED or IDLE. STREAM_FLUSH empties the queue and answers how many segments it removed. -/
def Obligations.SetupAndFlushChangeOneRecord : Prop :=
  ∀ (s : State) (dt : Nat) (tie : TieOrder) (tag : Byte) (rest : List Request) (n : StreamId),
    (∀ (b d p hi lo c : Byte) (direction : Direction) (policy : Policy),
      s.heads tag .streamSetup [b, d, p, hi, lo, c] rest → streamOfCode b = some n →
        ((s.str n).state = .disabled ∨ (s.str n).state = .idle) → d = direction.code → p = policy.code →
        (c = 0 ∨ c = 1) →
      Completes (.streamSetup ⟨dt, tie⟩) s fun t =>
        t.str n = { s.str n with
            direction := direction
            state := if direction = .none then .disabled else .idle
            policy := policy
            fill := cellOf hi lo
            cyclic := c == 1
            queue := []
            stopRequest := none
            starvedRun := 0
            counters := ⟨0, 0, 0, 0, 0, 0, 0, 0⟩
            overrunSegment := none
            overrunCount := 0
            waiting := [] }
          ∧ t.str (otherStream n) = s.str (otherStream n) ∧ s.answers t tag rest .ok 0 [] ∧ s.othersKept t
          ∧ s.registersKept t)
    ∧ (∀ b : Byte, s.heads tag .streamFlush [b] rest → streamOfCode b = some n → (s.str n).state ≠ .disabled →
      Completes (.streamFlush ⟨dt, tie⟩) s fun t =>
        t.str n = { s.str n with queue := [] } ∧ t.str (otherStream n) = s.str (otherStream n)
          ∧ s.answers t tag rest .ok 0 [natByte (s.str n).queue.length] ∧ s.othersKept t ∧ s.registersKept t)

/-- STREAM_APPEND: the segments join the tail of the queue. A drained stream leaves DRAINED, in playback for PRIMING,
in capture for READY; that SDn and SMKn keep their levels at this append until the next edge is the model's choice on
R81 (log entry 24). In a state that takes, free registers take: in playback both, claiming their loads; in capture
one, if none receives, and at an overrun boundary the stream is RUNNING again. The reply carries the queue length and
the number of registers that hold a segment. A capture register that takes keeps its cells (log entry 23). -/
def Obligations.AppendQueuesAndWakesStream : Prop :=
  ∀ (s : State) (dt : Nat) (tie : TieOrder) (tag b : Byte) (payload : List Byte) (rest : List Request) (n : StreamId)
      (gs : List Segment),
    s.heads tag .streamAppend payload rest → parseAppend payload = some (b, gs) → streamOfCode b = some n →
      (s.str n).state ≠ .disabled → gs.all (fun g => g.valid (s.str n).direction) = true →
      s.segmentTotal n + gs.length ≤ 32 →
      (∀ r, r = evenReg n ∨ r = oddReg n → (s.lr r).isFree = true → s.claimPending r = false) →
    let x := s.str n
    let all := x.queue ++ gs
    let lengths := fun (t : State) => [natByte (t.str n).queue.length, natByte (t.heldRegs n).length]
    ((x.state = .idle ∨ x.state = .stopping
        ∨ x.state ≠ .drained ∧ (x.stopRequest ≠ none ∨ x.direction = .capture ∧ s.receiving n ≠ none
          ∨ x.direction = .capture ∧ x.state = .overrun ∧ x.overrunSegment ≠ none)) →
      Completes (.streamAppend ⟨dt, tie⟩) s fun t =>
        t.str n = { x with queue := all } ∧ t.str (otherStream n) = s.str (otherStream n)
          ∧ s.answers t tag rest .ok 0 (lengths t) ∧ s.othersKept t ∧ s.registersKept t)
    ∧ (x.direction = .playback → x.stopRequest = none →
        (x.state = .drained ∨ x.state = .priming ∨ x.state = .ready ∨ x.state = .running ∨ x.state = .starved) →
      Completes (.streamAppend ⟨dt, tie⟩) s fun t =>
        s.takesFor t n ([evenReg n, oddReg n].filter fun r => (s.lr r).isFree) all
          ∧ t.str n = { x with
              state := if x.state = .drained then .priming else x.state
              queue := (t.str n).queue
              taken := (t.str n).taken
              lossReportedEven := (t.str n).lossReportedEven
              lossReportedOdd := (t.str n).lossReportedOdd }
          ∧ (∀ r, (s.lr r).isFree = false → s.granted t r)
          ∧ t.str (otherStream n) = s.str (otherStream n) ∧ s.answers t tag rest .ok 0 (lengths t) ∧ s.othersKept t)
    ∧ (x.direction = .capture → x.stopRequest = none → s.receiving n = none →
        (x.state = .drained ∨ x.state = .ready ∨ x.state = .running
          ∨ x.state = .overrun ∧ x.overrunSegment = none) →
      Completes (.streamAppend ⟨dt, tie⟩) s fun t =>
        let free := [evenReg n, oddReg n].find? fun r => (s.lr r).isFree
        s.receivesFor t n free all
          ∧ t.str n = { x with
              state := if x.state = .drained then .ready
                else if x.state = .overrun ∧ free.isSome = true then .running else x.state
              queue := (t.str n).queue
              taken := (t.str n).taken
              lossReportedEven := (t.str n).lossReportedEven
              lossReportedOdd := (t.str n).lossReportedOdd }
          ∧ (∀ r, free ≠ some r → s.granted t r)
          ∧ t.str (otherStream n) = s.str (otherStream n) ∧ s.answers t tag rest .ok 0 (lengths t) ∧ s.othersKept t)

/-- STREAM_START of an idle stream: in playback PRIMING with the fill value driven and the free registers taking; in
capture READY with a free register taking. A capture register that takes keeps its cells (log entry 23). -/
def Obligations.StartTakesFirstSegments : Prop :=
  ∀ (s : State) (dt : Nat) (tie : TieOrder) (tag b : Byte) (rest : List Request) (n : StreamId),
    s.heads tag .streamStart [b] rest → streamOfCode b = some n → s.rat.state = .ready → (s.str n).state = .idle →
      (s.str n).stopRequest = none → s.claimPending (evenReg n) = false → s.claimPending (oddReg n) = false →
    ((s.str n).direction = .playback →
      Completes (.streamStart ⟨dt, tie⟩) s fun t =>
        s.takesFor t n ([evenReg n, oddReg n].filter fun r => (s.lr r).isFree) (s.str n).queue
          ∧ t.str n = { s.str n with
              state := .priming
              sd := some (s.str n).fill
              smk := false
              starvedRun := 0
              queue := (t.str n).queue
              taken := (t.str n).taken
              lossReportedEven := (t.str n).lossReportedEven
              lossReportedOdd := (t.str n).lossReportedOdd }
          ∧ t.str (otherStream n) = s.str (otherStream n) ∧ s.answers t tag rest .ok 0 [] ∧ s.othersKept t)
    ∧ ((s.str n).direction = .capture → s.receiving n = none →
      Completes (.streamStart ⟨dt, tie⟩) s fun t =>
        s.receivesFor t n ([evenReg n, oddReg n].find? fun r => (s.lr r).isFree) (s.str n).queue
          ∧ t.str n = { s.str n with
              state := .ready
              queue := (t.str n).queue
              taken := (t.str n).taken
              lossReportedEven := (t.str n).lossReportedEven
              lossReportedOdd := (t.str n).lossReportedOdd }
          ∧ t.str (otherStream n) = s.str (otherStream n) ∧ s.answers t tag rest .ok 0 [] ∧ s.othersKept t)

/-- STREAM_STOP of a playback stream. In STARVED the waited segment counts as begun, met by an edge since the drop that
made it current or not (log entry 25). After the segment, with a begun segment held, it is only recorded. With none
begun, the held segments return to the head of the queue and the registers are emptied. NOW with a begun segment drops
it, reporting its starved cells in STARVED and its remaining cells otherwise; in cyclic mode its copy joins the tail;
a standby's segment returns to the head. The reply and STREAM_STOPPED come with the passage to IDLE. -/
def Obligations.StopOfPlayback : Prop :=
  ∀ (s : State) (dt : Nat) (tie : TieOrder) (tag b : Byte) (kind : StopKind) (rest : List Request) (n : StreamId),
    s.heads tag .streamStop [b, kind.code] rest → streamOfCode b = some n → (s.str n).direction = .playback →
      (s.str n).state ≠ .disabled → (s.str n).state ≠ .idle →
    let x := s.str n
    (∀ r g, s.playCurrent n = some r → (s.lr r).segment = some g →
        (s.lr r).begun = true ∨ x.state = .starved →
      (kind = .afterSegment →
        Completes (.streamStop ⟨dt, tie⟩) s fun t =>
          t.str n = { x with stopRequest := some .afterSegment } ∧ t.str (otherStream n) = s.str (otherStream n)
            ∧ t.rqe = { s.rqe with phase := .stopping n } ∧ t.hlc = s.hlc ∧ t.ntu = s.ntu ∧ s.othersKept t
            ∧ s.registersKept t)
      ∧ (kind = .now →
        Completes (.streamStop ⟨dt, tie⟩) s fun t =>
          let told := s.report (if x.state = .starved then .streamUnderrun n g.row x.starvedRun .dropped
            else .segmentAbandoned n g.row .stop ((s.lr r).remaining g))
          let back := (s.lr r.partner).segment.toList
          s.stopped told t n { x with
                queue := back ++ x.queue ++ (if x.cyclic then [g] else [])
                starvedRun := 0
                counters := { x.counters with dropped := satAdd x.counters.dropped 1 } }
              .now tag rest (s.idles n)
            ∧ s.emptied t (evenReg n) ∧ s.emptied t (oddReg n) ∧ s.cellsKept t ∧ t.rfe = s.rfe))
    ∧ ((∀ r, s.playCurrent n = some r → (s.lr r).begun = false ∧ x.state ≠ .starved) →
      Completes (.streamStop ⟨dt, tie⟩) s fun t =>
        s.stopped s t n { x with
              queue := (s.heldRegs n).filterMap (fun r => (s.lr r).segment) ++ x.queue
              starvedRun := 0 }
            kind tag rest (s.idles n)
          ∧ s.emptied t (evenReg n) ∧ s.emptied t (oddReg n) ∧ s.cellsKept t ∧ t.rfe = s.rfe)

/-- STREAM_STOP of a capture stream. After the segment, with a begun segment in the receiving
register, it is only recorded. Otherwise, at once: a segment not begun returns to the head of the queue; a begun one
with no filled section is abandoned with its cells; with filled sections its COMMIT is claimed and the stream is
STOPPING; an overrun segment is abandoned with its count. In a ring the copy of an abandoned segment joins the queue or
waits, and so do the copies that waited for a segment no longer held. -/
def Obligations.StopOfCapture : Prop :=
  ∀ (s : State) (dt : Nat) (tie : TieOrder) (tag b : Byte) (kind : StopKind) (rest : List Request) (n : StreamId),
    s.heads tag .streamStop [b, kind.code] rest → streamOfCode b = some n → (s.str n).direction = .capture →
      (s.str n).state ≠ .disabled → (s.str n).state ≠ .idle → (s.str n).copiesInOrder →
    let x := s.str n
    (∀ k, x.overrunSegment = some k → s.receiving n = none →
      Completes (.streamStop ⟨dt, tie⟩) s fun t =>
        s.stopped (s.report (.segmentAbandoned n k.segment.row .overrun x.overrunCount)) t n
            { x.afterFinish k (s.takesHeld n none) with
              overrunSegment := none
              overrunCount := 0
              counters := { x.counters with dropped := satAdd x.counters.dropped 1 } }
            kind tag rest (s.regsFree n)
          ∧ s.registersKept t ∧ s.cellsKept t ∧ t.rfe = s.rfe)
    ∧ (x.overrunSegment = none → s.receiving n = none →
      Completes (.streamStop ⟨dt, tie⟩) s fun t =>
        s.stopped s t n x kind tag rest (s.regsFree n) ∧ s.registersKept t ∧ s.cellsKept t ∧ t.rfe = s.rfe)
    ∧ ∀ r g, x.overrunSegment = none → s.receiving n = some r → (s.lr r).segment = some g →
      let position := (s.lr r).position
      let idle := s.operationKind r == none && (s.lr r.partner).isFree
      let held := s.takesHeld n (some r)
      (kind = .afterSegment → 1 ≤ position →
        Completes (.streamStop ⟨dt, tie⟩) s fun t =>
          t.str n = { x with stopRequest := some .afterSegment } ∧ t.str (otherStream n) = s.str (otherStream n)
            ∧ t.rqe = { s.rqe with phase := .stopping n } ∧ t.hlc = s.hlc ∧ t.ntu = s.ntu ∧ s.othersKept t
            ∧ s.registersKept t)
      ∧ (position = 0 →
        Completes (.streamStop ⟨dt, tie⟩) s fun t =>
          s.stopped s t n { x with
                queue := g :: x.queue ++ (x.waiting.filter fun k => k.isFirst held).map Taken.segment
                waiting := x.waiting.filter fun k => !k.isFirst held }
              kind tag rest idle
            ∧ s.emptied t r
            ∧ (∀ q, q ≠ r → s.granted t q) ∧ s.cellsKept t ∧ t.rfe = s.rfe)
      ∧ (kind = .now → 1 ≤ position → (s.lr r).filled = 0 →
        Completes (.streamStop ⟨dt, tie⟩) s fun t =>
          s.stopped (s.report (.segmentAbandoned n g.row .stop position)) t n
              { x.afterFinish ⟨(s.lr r).takeSeq, g⟩ held with
                counters := { x.counters with
                  dropped := satAdd x.counters.dropped 1
                  discarded := satAdd x.counters.discarded position } }
              .now tag rest idle
            ∧ s.emptied t r ∧ (∀ q, q ≠ r → s.granted t q) ∧ s.cellsKept t ∧ t.rfe = s.rfe)
      ∧ (kind = .now → 1 ≤ position → (s.lr r).filled ≠ 0 →
        Completes (.streamStop ⟨dt, tie⟩) s fun t =>
          s.stopped s t n x .now tag rest false ∧ t.hasClaim ⟨.commit, g.row, .register r, .stream⟩
            ∧ s.registersKept t ∧ s.cellsKept t ∧ t.rfe = s.rfe)

/-! ## Edges of the cell clocks -/

/-- An edge of a playback stream whose current register is LOADED or ACTIVE puts the next cell of the segment on SD,
with SMK high and SEGMENT_MARK at the first cell of a marked segment, and counts it; at the end of a pass that is not
the last the position returns to 0. -/
def Obligations.PlaybackEdgeReadsNextCell : Prop :=
  ∀ (s : State) (dt : Nat) (n : StreamId) (r : LrId) (g : Segment),
    s.live = true → (s.str n).direction = .playback → ((s.str n).state = .ready ∨ (s.str n).state = .running) →
      s.playCurrent n = some r → (s.lr r).segment = some g →
      ((s.lr r).state = .loaded ∨ (s.lr r).state = .active) → s.claimPending r = false →
      ((s.lr r).position + 1 < g.count * 64 ∨ 1 < (s.lr r).passesLeft) →
    Completes (.playbackEdge dt n) s fun t =>
      let x := s.str n
      let first := (s.lr r).position == 0 && (s.lr r).passesLeft == g.repeats
      let passEnds := decide (g.count * 64 ≤ (s.lr r).position + 1)
      t.str n = { x with
          state := .running
          sd := some ((s.lr r).content.getD (64 * g.first + (s.lr r).position) 0)
          smk := first && g.mark.isSome
          counters := { x.counters with cellsMoved := satAdd x.counters.cellsMoved 1 } }
        ∧ t.lr r = { s.lr r with
          state := .active
          position := if passEnds then 0 else (s.lr r).position + 1
          passesLeft := if passEnds then (s.lr r).passesLeft - 1 else (s.lr r).passesLeft
          holdTimer := some t.clock
          begun := true }
        ∧ (let told := match g.mark with
            | some m => s.reportIf first (.segmentMark n m g.row)
            | none => s
           t.hlc = told.hlc ∧ t.ntu = told.ntu)
        ∧ t.str (otherStream n) = s.str (otherStream n) ∧ (∀ q, q ≠ r → s.granted t q) ∧ t.rqe = s.rqe
        ∧ s.cellsKept t ∧ t.rfe = s.rfe ∧ s.slotsKept t

/-- The edge that reads the last cell of the last pass completes the segment: the register is emptied, in cyclic mode
the segment's copy joins the tail, the free registers take, and with no segment held then the stream is DRAINED. With
a stop after the segment waiting, the stop takes effect instead. -/
def Obligations.PlaybackSegmentEnd : Prop :=
  ∀ (s : State) (dt : Nat) (n : StreamId) (r : LrId) (g : Segment),
    s.live = true → (s.str n).direction = .playback → ((s.str n).state = .ready ∨ (s.str n).state = .running) →
      s.playCurrent n = some r → (s.lr r).segment = some g →
      ((s.lr r).state = .loaded ∨ (s.lr r).state = .active) →
      g.count * 64 ≤ (s.lr r).position + 1 → (s.lr r).passesLeft ≤ 1 → s.operationKind r = none →
    let x := s.str n
    let o := r.partner
    let cell := (s.lr r).content.getD (64 * g.first + (s.lr r).position) 0
    let first := (s.lr r).position == 0 && (s.lr r).passesLeft == g.repeats
    let marked := match g.mark with
      | some m => s.reportIf first (.segmentMark n m g.row)
      | none => s
    let all := x.queue ++ (if x.cyclic then [g] else [])
    let counters := { x.counters with
      cellsMoved := satAdd x.counters.cellsMoved 1
      completed := satAdd x.counters.completed 1 }
    (x.stopRequest = none → ((s.lr o).isFree = true → s.claimPending o = false) →
      Completes (.playbackEdge dt n) s fun t =>
        let drained := all.isEmpty && (s.lr o).segment.isNone
        s.takesFor t n ([evenReg n, oddReg n].filter fun p => p == r || (s.lr p).isFree) all
          ∧ t.str n = { x with
            state := if drained then .drained else .running
            sd := some cell
            smk := first && g.mark.isSome
            queue := (t.str n).queue
            taken := (t.str n).taken
            lossReportedEven := (t.str n).lossReportedEven
            lossReportedOdd := (t.str n).lossReportedOdd
            counters := counters }
          ∧ (let told := marked.reportIf drained (.streamDrained n)
             t.hlc = told.hlc ∧ t.ntu = told.ntu)
          ∧ ((s.lr o).isFree = false → s.granted t o)
          ∧ t.str (otherStream n) = s.str (otherStream n) ∧ t.rqe = s.rqe ∧ s.cellsKept t ∧ t.rfe = s.rfe)
    ∧ (∀ req rest, x.stopRequest = some .afterSegment → s.rqe.phase = .stopping n → s.rqe.queue = req :: rest →
      Completes (.playbackEdge dt n) s fun t =>
        s.stopped marked t n { x with
              queue := (s.lr o).segment.toList ++ all
              starvedRun := 0
              sd := some cell
              smk := first && g.mark.isSome
              counters := counters }
            .afterSegment req.tag rest (s.idles n)
          ∧ s.emptied t r ∧ s.emptied t o ∧ s.cellsKept t ∧ t.rfe = s.rfe)

/-- An edge whose cell is not there: the stream is STARVED, the fill value is driven, the starved cell counted in the
run and in the counters, an underrun counted where it begins. Under HOLD the position waits; under ALIGN it moves on
as if the cell had been read. -/
def Obligations.StarvedEdgeDrivesFill : Prop :=
  ∀ (s : State) (dt : Nat) (n : StreamId) (r : LrId) (g : Segment),
    s.live = true → (s.str n).direction = .playback → s.playCurrent n = some r → (s.lr r).segment = some g →
      ((s.str n).state = .starved ∨ (((s.str n).state = .ready ∨ (s.str n).state = .running)
        ∧ ((s.lr r).state = .loading ∨ (s.lr r).state = .stale))) →
      ((s.str n).policy = .hold ∨ (s.lr r).position + 1 < g.count * 64 ∨ 1 < (s.lr r).passesLeft) →
    Completes (.playbackEdge dt n) s fun t =>
      let x := s.str n
      let moves := x.policy == .align
      let passEnds := decide (g.count * 64 ≤ (s.lr r).position + 1)
      t.str n = { x with
          state := .starved
          sd := some x.fill
          smk := false
          starvedRun := satAdd x.starvedRun 1
          counters := { x.counters with
            starvedCells := satAdd x.counters.starvedCells 1
            underruns := if x.state = .starved then x.counters.underruns else satAdd x.counters.underruns 1 } }
        ∧ t.lr r = { s.lr r with
          state := (t.lr r).state
          holdTimer := (t.lr r).holdTimer
          position := if moves then (if passEnds then 0 else (s.lr r).position + 1) else (s.lr r).position
          passesLeft := if moves && passEnds then (s.lr r).passesLeft - 1 else (s.lr r).passesLeft
          begun := true }
        ∧ t.str (otherStream n) = s.str (otherStream n) ∧ (∀ q, q ≠ r → s.granted t q) ∧ t.rqe = s.rqe
        ∧ t.hlc = s.hlc ∧ t.ntu = s.ntu ∧ s.cellsKept t ∧ t.rfe = s.rfe ∧ s.slotsKept t

/-- Under ALIGN the starved edge at the segment's last cell drops it: STREAM_UNDERRUN, DROPPED, with the run, one
segment dropped, the register emptied, in cyclic mode the copy at the tail, the free registers take. The stream is
RUNNING again if the other register's segment is LOADED, DRAINED if no segment is held, STARVED otherwise. With a stop
after the segment waiting, the stop takes effect instead. -/
def Obligations.AlignDropsStarvedSegment : Prop :=
  ∀ (s : State) (dt : Nat) (n : StreamId) (r : LrId) (g : Segment),
    s.live = true → (s.str n).direction = .playback → (s.str n).policy = .align → s.playCurrent n = some r →
      (s.lr r).segment = some g →
      ((s.str n).state = .starved ∨ (((s.str n).state = .ready ∨ (s.str n).state = .running)
        ∧ ((s.lr r).state = .loading ∨ (s.lr r).state = .stale))) →
      g.count * 64 ≤ (s.lr r).position + 1 → (s.lr r).passesLeft ≤ 1 →
    let x := s.str n
    let o := r.partner
    let all := x.queue ++ (if x.cyclic then [g] else [])
    let counters := { x.counters with
      starvedCells := satAdd x.counters.starvedCells 1
      dropped := satAdd x.counters.dropped 1
      underruns := if x.state = .starved then x.counters.underruns else satAdd x.counters.underruns 1 }
    let told := s.report (.streamUnderrun n g.row (satAdd x.starvedRun 1) .dropped)
    (x.stopRequest = none → ((s.lr o).isFree = true → s.claimPending o = false) →
      Completes (.playbackEdge dt n) s fun t =>
        let free := [evenReg n, oddReg n].filter fun p =>
          if p = r then s.operationKind r == none else (s.lr p).isFree
        let drained := (s.lr o).segment.isNone && (free.isEmpty || all.isEmpty)
        s.takesFor t n free all
          ∧ (r ∉ free → s.emptied t r)
          ∧ ((s.lr o).isFree = false → s.granted t o)
          ∧ t.str n = { x with
            state := if (s.lr o).segment.isSome && (s.lr o).state == .loaded then .running
              else if drained then .drained else .starved
            sd := some x.fill
            smk := false
            starvedRun := 0
            queue := (t.str n).queue
            taken := (t.str n).taken
            lossReportedEven := (t.str n).lossReportedEven
            lossReportedOdd := (t.str n).lossReportedOdd
            counters := counters }
          ∧ (let told' := told.reportIf drained (.streamDrained n)
             t.hlc = told'.hlc ∧ t.ntu = told'.ntu)
          ∧ t.str (otherStream n) = s.str (otherStream n) ∧ t.rqe = s.rqe ∧ s.cellsKept t ∧ t.rfe = s.rfe)
    ∧ ∀ req rest, x.stopRequest = some .afterSegment → s.rqe.phase = .stopping n → s.rqe.queue = req :: rest →
      Completes (.playbackEdge dt n) s fun t =>
        s.stopped told t n { x with
              queue := (s.lr o).segment.toList ++ all
              starvedRun := 0
              sd := some x.fill
              smk := false
              counters := counters }
            .afterSegment req.tag rest (s.idles n)
          ∧ s.emptied t r ∧ s.emptied t o ∧ s.cellsKept t ∧ t.rfe = s.rfe

/-- Edges that move no cell: a playback stream in PRIMING, DRAINED or STOPPING drives and counts its fill value; a
capture stream in DRAINED or STOPPING counts a discarded cell; a stream in IDLE or DISABLED is unchanged, and so is a
stream of the other direction (log entry 20). -/
def Obligations.EdgesThatMoveNoCell : Prop :=
  ∀ (s : State) (dt : Nat) (n : StreamId) (cell : CellVal), s.live = true →
    let x := s.str n
    let kept := fun (t : State) => t.str (otherStream n) = s.str (otherStream n) ∧ s.othersKept t ∧ s.registersKept t
      ∧ t.rqe = s.rqe ∧ t.hlc = s.hlc
    (x.direction = .playback → (x.state = .priming ∨ x.state = .drained ∨ x.state = .stopping) →
      Completes (.playbackEdge dt n) s fun t =>
        t.str n = { x with
            sd := some x.fill
            smk := false
            counters := { x.counters with fillCells := satAdd x.counters.fillCells 1 } } ∧ kept t)
    ∧ (x.direction = .capture → (x.state = .drained ∨ x.state = .stopping) →
      Completes (.captureEdge dt n cell) s fun t =>
        t.str n = { x with counters := { x.counters with discarded := satAdd x.counters.discarded 1 } } ∧ kept t)
    ∧ ((x.state = .idle ∨ x.state = .disabled) →
      Completes (.playbackEdge dt n) s (fun t => t.str n = x ∧ kept t)
        ∧ Completes (.captureEdge dt n cell) s (fun t => t.str n = x ∧ kept t))
    ∧ (x.direction ≠ .playback → Completes (.playbackEdge dt n) s fun t => t = { s with clock := s.clock + dt })
    ∧ (x.direction ≠ .capture → Completes (.captureEdge dt n cell) s fun t => t = { s with clock := s.clock + dt })

/-- A cell received goes into the receiving register at its position and is counted; the section it completes is
filled. The last cell of the range makes the register FULL and claims its COMMIT, of the filled sections; then the
head of the queue goes to the other register if that is free, and with an empty queue the stream is DRAINED; with a
stop after the segment waiting, the stream is STOPPING instead. A capture register that takes keeps its cells (log
entry 23). -/
def Obligations.CaptureEdgeReceivesCell : Prop :=
  ∀ (s : State) (dt : Nat) (n : StreamId) (cell : CellVal) (r : LrId) (g : Segment),
    s.live = true → (s.str n).direction = .capture → ((s.str n).state = .ready ∨ (s.str n).state = .running) →
      s.receiving n = some r → (s.lr r).segment = some g → (s.lr r).content.length = 256 →
      64 * g.first + (s.lr r).position < 256 → (s.str n).stopRequest ≠ some .now → (s.str n).overrunSegment = none →
      (s.lr r.partner).state ≠ .active →
      ((s.lr r.partner).isFree = true → s.claimPending r.partner = false) →
    Completes (.captureEdge dt n cell) s fun t =>
      let x := s.str n
      let o := r.partner
      let position := (s.lr r).position + 1
      let counters := { x.counters with cellsMoved := satAdd x.counters.cellsMoved 1 }
      let stops := x.stopRequest.isSome
      t.lr r = { s.lr r with
          state := (t.lr r).state
          content := (t.lr r).content
          position := position
          filled := (t.lr r).filled
          holdTimer := (t.lr r).holdTimer
          begun := true }
        ∧ (∀ col, (t.lr r).content.getD col 0 =
            if col = 64 * g.first + (s.lr r).position then cell else (s.lr r).content.getD col 0)
        ∧ (∀ i, i < 4 → (t.lr r).filled.getLsbD i =
            ((s.lr r).filled.getLsbD i || (position % 64 == 0 && i == g.first + position / 64 - 1)))
        ∧ t.str (otherStream n) = s.str (otherStream n) ∧ t.rqe = s.rqe ∧ s.cellsKept t ∧ t.rfe = s.rfe
        ∧ s.slotsKept t
        ∧ if position = g.count * 64 then
            ((t.lr r).state = .full ∧ (t.lr r).holdTimer = some t.clock
                ∨ (t.lr r).state = .committing ∧ (t.lr r).holdTimer = none)
              ∧ t.hasClaim ⟨.commit, g.row, .register r, .stream⟩
              ∧ (s.arb.circuit = .free → s.arb.claims = [] → (s.row g.row).scrubPending = false →
                  ∃ op, t.inFlight = some op ∧ op.claim = ⟨.commit, g.row, .register r, .stream⟩
                    ∧ op.sections = (t.lr r).filled ∧ op.grantedAt = t.clock)
              ∧ t.str n = { x with
                state := if stops then .stopping else if x.queue = [] then .drained else .running
                queue := (t.str n).queue
                taken := (t.str n).taken
                lossReportedEven := (t.str n).lossReportedEven
                lossReportedOdd := (t.str n).lossReportedOdd
                counters := counters }
              ∧ s.receivesFor t n (if (s.lr o).isFree && !stops then some o else none) x.queue
              ∧ ((s.lr o).isFree = false ∨ stops = true ∨ x.queue = [] → s.granted t o)
              ∧ (let told := s.reportIf (x.queue.isEmpty && !stops) (.streamDrained n)
                 t.hlc = told.hlc ∧ t.ntu = told.ntu)
          else
            (t.lr r).state = .active ∧ (t.lr r).holdTimer = some t.clock
              ∧ t.str n = { x with state := .running, counters := counters } ∧ s.granted t o
              ∧ t.hlc = s.hlc ∧ t.ntu = s.ntu

/-- A cell with no receiving register is counted against an overrun segment, the head of the queue where there is none
yet; the episode's first counts an underrun. The cell that ends the segment's count abandons it, SEGMENT_ABANDONED,
OVERRUN, in a ring with its copy: a free register then takes the head and the stream is RUNNING, or with an empty
queue it is DRAINED. A cell with no receiving register and an empty queue makes the stream DRAINED and is discarded. A
capture register that takes keeps its cells (log entry 23). -/
def Obligations.OverrunCountsAndAbandons : Prop :=
  ∀ (s : State) (dt : Nat) (n : StreamId) (cell : CellVal),
    s.live = true → (s.str n).direction = .capture → (s.str n).stopRequest = none →
      (s.str n).copiesInOrder → s.receiving n = none →
    let x := s.str n
    let counted := { x.counters with
      starvedCells := satAdd x.counters.starvedCells 1
      discarded := satAdd x.counters.discarded 1 }
    let kept := fun (t : State) => t.str (otherStream n) = s.str (otherStream n) ∧ t.rqe = s.rqe ∧ s.cellsKept t
      ∧ t.rfe = s.rfe ∧ s.slotsKept t
    (∀ g rest, x.queue = g :: rest →
        (x.state = .ready ∨ x.state = .running ∨ x.state = .overrun ∧ x.overrunSegment = none) →
      Completes (.captureEdge dt n cell) s fun t =>
        t.str n = { x with
            state := .overrun
            queue := rest
            taken := x.taken + 1
            overrunSegment := some ⟨x.taken, g⟩
            overrunCount := 1
            counters := { counted with
              underruns := if x.state = .overrun then x.counters.underruns else satAdd x.counters.underruns 1 } }
          ∧ t.hlc = s.hlc ∧ t.ntu = s.ntu ∧ s.registersKept t ∧ kept t)
    ∧ (x.queue = [] → (x.state = .ready ∨ x.state = .running ∨ x.state = .overrun ∧ x.overrunSegment = none) →
      Completes (.captureEdge dt n cell) s fun t =>
        t.str n = { x with
            state := .drained
            counters := { x.counters with discarded := satAdd x.counters.discarded 1 } }
          ∧ t.hlc = (s.report (.streamDrained n)).hlc ∧ t.ntu = (s.report (.streamDrained n)).ntu
          ∧ s.registersKept t ∧ kept t)
    ∧ ∀ k, x.state = .overrun → x.overrunSegment = some k →
      (x.overrunCount + 1 ≠ k.segment.count * 64 →
        Completes (.captureEdge dt n cell) s fun t =>
          t.str n = { x with overrunCount := x.overrunCount + 1, counters := counted }
            ∧ t.hlc = s.hlc ∧ t.ntu = s.ntu ∧ s.registersKept t ∧ kept t)
      ∧ (x.overrunCount + 1 = k.segment.count * 64 →
          (∀ r, r = evenReg n ∨ r = oddReg n → (s.lr r).isFree = true → s.claimPending r = false) →
        Completes (.captureEdge dt n cell) s fun t =>
          let free := [evenReg n, oddReg n].find? fun r => (s.lr r).isFree
          let y : StreamRec := { x.afterFinish k (s.takesHeld n none) with
            overrunSegment := none
            overrunCount := 0
            counters := { counted with dropped := satAdd x.counters.dropped 1 } }
          s.receivesAs t n free (if y.queue = [] then { y with state := .drained } else y)
            ∧ (let told := (s.report (.segmentAbandoned n k.segment.row .overrun (k.segment.count * 64))).reportIf
                  y.queue.isEmpty (.streamDrained n)
               t.hlc = told.hlc ∧ t.ntu = told.ntu)
            ∧ (∀ q, free ≠ some q ∨ y.queue = [] → s.granted t q)
            ∧ kept t)

/-! ## Expiries -/

/-- A playback register LOADED or ACTIVE whose hold timer has run 50 µs is STALE, its timer stopped, and claims a reload
of its segment's row; if it was the current register of a stream in READY, the stream is PRIMING again. -/
def Obligations.PlaybackHoldExpiryReloads : Prop :=
  ∀ (s : State) (dt start : Nat) (r : LrId) (n : StreamId) (g : Segment),
    s.live = true → streamOf r = some n → (s.lr r).segment = some g → (s.str n).direction = .playback →
      (s.lr r).holdTimer = some start → start + 50000 ≤ s.clock + dt →
      ((s.lr r).state = .loaded ∨ (s.lr r).state = .active) → s.claimPending r = false →
    Completes (.playbackHoldExpiry dt r) s fun t =>
      ((t.lr r).state = .stale ∨ (t.lr r).state = .loading)
        ∧ t.lr r = { s.lr r with state := (t.lr r).state, holdTimer := none, reloading := true }
        ∧ t.hasClaim ⟨.load, g.row, .register r, .stream⟩
        ∧ t.str n = { s.str n with state :=
            if (s.str n).state = .ready ∧ s.playCurrent n = some r then .priming else (s.str n).state }
        ∧ t.str (otherStream n) = s.str (otherStream n) ∧ (∀ q, q ≠ r → s.granted t q) ∧ s.othersKept t
        ∧ t.rqe = s.rqe ∧ t.hlc = s.hlc

/-- A capture register ACTIVE or FULL whose hold timer has run 50 µs is emptied and its segment abandoned,
SEGMENT_ABANDONED, STALE, with its cells counted as discarded; in a ring its copy joins the queue or waits. If it was
receiving, the next segment is taken, or with an empty queue the stream is DRAINED. If it was FULL, a stream without a
receiving register takes, RUNNING again at an overrun boundary, and any other is left as it is. A stop that waits for
the segment, or for the register, goes on. A capture register that takes keeps its cells (log entry 23). -/
def Obligations.CaptureHoldExpiryAbandons : Prop :=
  ∀ (s : State) (dt start : Nat) (r : LrId) (n : StreamId) (g : Segment),
    s.live = true → streamOf r = some n → (s.lr r).segment = some g → (s.str n).direction = .capture →
      (s.lr r).holdTimer = some start → start + 50000 ≤ s.clock + dt →
      ((s.lr r).state = .active ∨ (s.lr r).state = .full) → (s.str n).copiesInOrder →
    let x := s.str n
    let o := r.partner
    let counters := { x.counters with
      dropped := satAdd x.counters.dropped 1
      discarded := satAdd x.counters.discarded (s.lr r).position }
    let y : StreamRec := { x.afterFinish ⟨(s.lr r).takeSeq, g⟩
        (s.takesHeld n (some r) ++ (x.overrunSegment.map Taken.seq).toList) with counters := counters }
    let free := [evenReg n, oddReg n].find? fun p => if p = r then s.operationKind r == none else (s.lr p).isFree
    let told := s.report (.segmentAbandoned n g.row .stale (s.lr r).position)
    let kept := fun (t : State) => t.str (otherStream n) = s.str (otherStream n) ∧ t.rqe = s.rqe ∧ s.cellsKept t
      ∧ t.rfe = s.rfe ∧ s.slotsKept t
    let others := fun (t : State) => (free ≠ some r ∨ y.queue = [] → s.emptied t r)
      ∧ (free ≠ some o ∨ y.queue = [] → s.granted t o)
    (x.stopRequest = none → s.receiving n = some r → (s.lr o).state ≠ .active →
        (x.state = .ready ∨ x.state = .running) →
        ((s.lr o).isFree = true → s.claimPending o = false) →
      Completes (.captureHoldExpiry dt r) s fun t =>
        s.receivesAs t n free (if y.queue = [] then { y with state := .drained } else y)
          ∧ others t
          ∧ (let told' := told.reportIf y.queue.isEmpty (.streamDrained n)
             t.hlc = told'.hlc ∧ t.ntu = told'.ntu)
          ∧ kept t)
    ∧ ((s.lr r).state = .full → s.mayReceive n y → ((s.lr o).isFree = true → s.claimPending o = false) →
      Completes (.captureHoldExpiry dt r) s fun t =>
        s.receivesAs t n free y ∧ others t ∧ t.hlc = told.hlc ∧ t.ntu = told.ntu ∧ kept t)
    ∧ ((s.lr r).state = .full → x.state ≠ .stopping → ¬s.mayReceive n y ∨ y.queue = [] →
      Completes (.captureHoldExpiry dt r) s fun t =>
        t.str n = y ∧ s.emptied t r ∧ (∀ q, q ≠ r → s.granted t q) ∧ t.hlc = told.hlc ∧ t.ntu = told.ntu ∧ kept t)
    ∧ ∀ kind req rest, x.stopRequest = some kind →
        (x.state = .stopping ∧ s.isReceiving r = false
          ∨ kind = .afterSegment ∧ s.receiving n = some r ∧ (s.lr o).state ≠ .active ∧ x.overrunSegment = none) →
        s.rqe.phase = .stopping n → s.rqe.queue = req :: rest →
      Completes (.captureHoldExpiry dt r) s fun t =>
        s.stopped told t n y kind req.tag rest (s.operationKind r == none && (s.lr o).isFree)
          ∧ s.emptied t r ∧ (∀ q, q ≠ r → s.granted t q) ∧ s.cellsKept t ∧ t.rfe = s.rfe ∧ s.slotsKept t

/-- LR4 waiting LOADED for 50 µs: its COPY_COMMIT is withdrawn, it is emptied, and COPY_ROW is answered STALE. A parked
session idle for 2.0 ms: its slot is freed, its generation kept, and SESSION_EXPIRED reported. -/
def Obligations.CopyAndSessionTimersExpire : Prop :=
  (∀ (s : State) (dt start : Nat) (r : Request) (rest : List Request),
      s.live = true → s.lrb.lr4.state = .loaded → s.lrb.lr4.holdTimer = some start → start + 50000 ≤ s.clock + dt →
        s.rqe.queue = r :: rest →
      Completes (.lr4HoldExpiry dt) s fun t =>
        s.answers t r.tag rest .stale 0 [] ∧ s.emptied t .lr4 ∧ (∀ c ∈ t.arb.claims, c.register? ≠ some .lr4)
          ∧ (∀ q, q ≠ .lr4 → s.granted t q) ∧ s.blocksKept t ∧ s.slotsKept t)
    ∧ ∀ (s : State) (dt start : Nat) (k : SlotId),
      s.live = true → (s.slot k).inUse = true → (s.slot k).state = .parked → (s.slot k).idleTimer = some start →
        start + 2000000 ≤ s.clock + dt →
      Completes (.idleExpiry dt k) s fun t =>
        t.slot k = { s.slot k with inUse := false, idleTimer := none } ∧ (∀ q, q ≠ k → t.slot q = s.slot q)
          ∧ t.hlc = (s.report (.sessionExpired k (s.slot k).generation)).hlc
          ∧ t.ntu = (s.report (.sessionExpired k (s.slot k).generation)).ntu
          ∧ t.rat = s.rat ∧ t.rfe = s.rfe ∧ t.arb = s.arb ∧ t.lrb = s.lrb ∧ t.ste = s.ste ∧ t.rqe = s.rqe

/-! ## Invariants -/

/-- The state State.reset keeps every law that each step keeps. -/
def Obligations.ResetStateKeepsTheLaws : Prop :=
  State.reset.rat.memory.wf = true ∧ State.reset.attnFollowsQueue ∧ State.reset.noticesInQuota
    ∧ State.reset.tagsOutstanding ∧ State.reset.orderedByAge ∧ State.reset.scrubsOwed ∧ State.reset.scrubBlocks
    ∧ State.reset.routineHeld ∧ State.reset.sessionsMatchCircuit ∧ State.reset.registersMatchClaims
    ∧ ∀ n, State.reset.segmentTotal n ≤ 32

/-- Every step keeps the canonical form of the cells: the model's own, log entry 11. -/
def Obligations.StepsKeepMemoryCanonical : Prop :=
  ∀ s t : State, s.rat.memory.wf = true → step s = .next t → t.rat.memory.wf = true

/-- ATTN is high exactly while the outbound queue holds a frame. -/
def Obligations.AttnFollowsQueue : Prop :=
  ∀ s t : State, s.attnFollowsQueue → step s = .next t → t.attnFollowsQueue

/-- The outbound queue never holds more than 15 notices and one loss marker. -/
def Obligations.NoticesStayInQuota : Prop :=
  ∀ s t : State, s.noticesInQuota → step s = .next t → t.noticesInQuota

/-- The outstanding tags are those of the requests queued and of the replies queued, at most 8, each once, never 0. -/
def Obligations.TagsStayOutstanding : Prop :=
  ∀ s t : State, s.tagsOutstanding → step s = .next t → t.tagsOutstanding

/-- The order list stays a list of all rows, oldest completion first. -/
def Obligations.OrderListStaysSortedByAge : Prop :=
  ∀ s t : State, s.orderedByAge → step s = .next t → t.orderedByAge

/-- The scrub list holds the rows with scrub pending, each with its SCRUB claimed once the warm-up is over, and no other
operation is in flight on such a row. -/
def Obligations.ScrubsStayOwed : Prop :=
  ∀ s t : State, s.scrubsOwed → s.scrubBlocks → step s = .next t → t.scrubsOwed ∧ t.scrubBlocks

/-- At most one ROUTINE claim, for the head of the order list, and none of the refresh engine's in HOSTED mode. -/
def Obligations.RoutineStaysSingle : Prop :=
  ∀ s t : State, s.orderedByAge → s.routineHeld → step s = .next t → t.routineHeld

/-- A session is OPEN exactly while the circuit holds its row or runs its burst, and what the request engine does
matches what the circuit and LR4 do. -/
def Obligations.SessionsStayMatched : Prop :=
  ∀ s t : State, s.sessionsMatchCircuit → step s = .next t → t.sessionsMatchCircuit

/-- Every line register has at most one claim or operation, which suits its state and its stream's; and a stream's
segments, queued, held, overrun and waiting, never exceed 32. -/
def Obligations.StreamsAndRegistersKeepTheirLaws : Prop :=
  (∀ s t : State, s.sessionsMatchCircuit → s.registersMatchClaims → step s = .next t → t.registersMatchClaims)
    ∧ ∀ (s t : State) (n : StreamId), s.segmentTotal n ≤ 32 → step s = .next t → t.segmentTotal n ≤ 32

/-! ## Payloads -/

/-- The payloads of the column requests and of STREAM_APPEND, laid out field by field, read back as their fields, for
every value the fields admit. -/
def Obligations.PayloadsReadBack : Prop :=
  (∀ (k g : Byte) (first count : Nat), first < 256 → count < 256 →
      parseRead [k, g, natByte first, natByte count] = some ⟨k, g, ⟨.read, first, count, []⟩⟩)
    ∧ (∀ (k g : Byte) (first : Nat) (mask : Option CellVal) (cells : List CellVal), first < 256 → cells.length < 256 →
      parseWrite (k :: g :: natByte first :: natByte cells.length :: (match mask with
          | none => [0x00]
          | some m => 0x01 :: cellBytes m) ++ cells.flatMap cellBytes)
        = some ⟨k, g, ⟨.write mask, first, cells.length, cells⟩⟩)
    ∧ (∀ (k g : Byte) (first : Nat) (cells : List CellVal), first < 256 → cells.length < 256 →
      parseExchange (k :: g :: natByte first :: natByte cells.length :: cells.flatMap cellBytes)
        = some ⟨k, g, ⟨.exchange, first, cells.length, cells⟩⟩)
    ∧ (∀ (b : Byte) (gs : List Segment), 1 ≤ gs.length → gs.length ≤ 8 →
        (∀ g ∈ gs, g.row < 32768 ∧ g.first < 256 ∧ g.count < 256 ∧ g.repeats < 256) →
      parseAppend (b :: natByte gs.length :: gs.flatMap fun g =>
          natBytes2 (g.row + if g.mark.isSome then 32768 else 0) ++ [natByte g.first, natByte g.count,
            natByte g.repeats] ++ g.mark.toList)
        = some (b, gs))
end

