-- ==== Sys2Proof/Laws/State.lean ====
section
/-! SUPPORT. What each update of the state leaves in each field, and the accessors over the updates. -/

namespace Sys2Proof.Machine

variable (s : State)

/-! ### advance -/

@[simp] theorem State.advance_pending (dt : Nat) : (s.advance dt).pending = s.pending := rfl
@[simp] theorem State.advance_clock (dt : Nat) : (s.advance dt).clock = s.clock + dt := rfl
@[simp] theorem State.advance_powered (dt : Nat) : (s.advance dt).powered = s.powered := rfl
@[simp] theorem State.advance_hrst (dt : Nat) : (s.advance dt).hrst = s.hrst := rfl
@[simp] theorem State.advance_rat (dt : Nat) : (s.advance dt).rat = s.rat := rfl
@[simp] theorem State.advance_rfe (dt : Nat) : (s.advance dt).rfe = s.rfe := rfl
@[simp] theorem State.advance_arb (dt : Nat) : (s.advance dt).arb = s.arb := rfl
@[simp] theorem State.advance_lrb (dt : Nat) : (s.advance dt).lrb = s.lrb := rfl
@[simp] theorem State.advance_ste (dt : Nat) : (s.advance dt).ste = s.ste := rfl
@[simp] theorem State.advance_sst (dt : Nat) : (s.advance dt).sst = s.sst := rfl
@[simp] theorem State.advance_rqe (dt : Nat) : (s.advance dt).rqe = s.rqe := rfl
@[simp] theorem State.advance_hlc (dt : Nat) : (s.advance dt).hlc = s.hlc := rfl
@[simp] theorem State.advance_ntu (dt : Nat) : (s.advance dt).ntu = s.ntu := rfl
@[simp] theorem State.advance_lr (dt : Nat) (r' : LrId) : (s.advance dt).lr r' = s.lr r' := rfl
@[simp] theorem State.advance_str (dt : Nat) (n' : StreamId) : (s.advance dt).str n' = s.str n' := rfl
@[simp] theorem State.advance_slot (dt : Nat) (k' : SlotId) : (s.advance dt).slot k' = s.slot k' := rfl
@[simp] theorem State.advance_row (dt : Nat) (q : Nat) : (s.advance dt).row q = s.row q := rfl
@[simp] theorem State.advance_live (dt : Nat) : (s.advance dt).live = s.live := rfl

/-! ### setLr -/

@[simp] theorem State.setLr_pending (r : LrId) (x : LineReg) : (s.setLr r x).pending = s.pending := rfl
@[simp] theorem State.setLr_clock (r : LrId) (x : LineReg) : (s.setLr r x).clock = s.clock := rfl
@[simp] theorem State.setLr_powered (r : LrId) (x : LineReg) : (s.setLr r x).powered = s.powered := rfl
@[simp] theorem State.setLr_hrst (r : LrId) (x : LineReg) : (s.setLr r x).hrst = s.hrst := rfl
@[simp] theorem State.setLr_rat (r : LrId) (x : LineReg) : (s.setLr r x).rat = s.rat := rfl
@[simp] theorem State.setLr_rfe (r : LrId) (x : LineReg) : (s.setLr r x).rfe = s.rfe := rfl
@[simp] theorem State.setLr_arb (r : LrId) (x : LineReg) : (s.setLr r x).arb = s.arb := rfl
@[simp] theorem State.setLr_lrb (r : LrId) (x : LineReg) : (s.setLr r x).lrb = s.lrb.set r x := rfl
@[simp] theorem State.setLr_ste (r : LrId) (x : LineReg) : (s.setLr r x).ste = s.ste := rfl
@[simp] theorem State.setLr_sst (r : LrId) (x : LineReg) : (s.setLr r x).sst = s.sst := rfl
@[simp] theorem State.setLr_rqe (r : LrId) (x : LineReg) : (s.setLr r x).rqe = s.rqe := rfl
@[simp] theorem State.setLr_hlc (r : LrId) (x : LineReg) : (s.setLr r x).hlc = s.hlc := rfl
@[simp] theorem State.setLr_ntu (r : LrId) (x : LineReg) : (s.setLr r x).ntu = s.ntu := rfl
@[simp] theorem State.setLr_str (r : LrId) (x : LineReg) (n' : StreamId) : (s.setLr r x).str n' = s.str n' := rfl
@[simp] theorem State.setLr_slot (r : LrId) (x : LineReg) (k' : SlotId) : (s.setLr r x).slot k' = s.slot k' := rfl
@[simp] theorem State.setLr_row (r : LrId) (x : LineReg) (q : Nat) : (s.setLr r x).row q = s.row q := rfl
@[simp] theorem State.setLr_live (r : LrId) (x : LineReg) : (s.setLr r x).live = s.live := rfl

/-! ### setStr -/

@[simp] theorem State.setStr_pending (n : StreamId) (x : StreamRec) : (s.setStr n x).pending = s.pending := rfl
@[simp] theorem State.setStr_clock (n : StreamId) (x : StreamRec) : (s.setStr n x).clock = s.clock := rfl
@[simp] theorem State.setStr_powered (n : StreamId) (x : StreamRec) : (s.setStr n x).powered = s.powered := rfl
@[simp] theorem State.setStr_hrst (n : StreamId) (x : StreamRec) : (s.setStr n x).hrst = s.hrst := rfl
@[simp] theorem State.setStr_rat (n : StreamId) (x : StreamRec) : (s.setStr n x).rat = s.rat := rfl
@[simp] theorem State.setStr_rfe (n : StreamId) (x : StreamRec) : (s.setStr n x).rfe = s.rfe := rfl
@[simp] theorem State.setStr_arb (n : StreamId) (x : StreamRec) : (s.setStr n x).arb = s.arb := rfl
@[simp] theorem State.setStr_lrb (n : StreamId) (x : StreamRec) : (s.setStr n x).lrb = s.lrb := rfl
@[simp] theorem State.setStr_ste (n : StreamId) (x : StreamRec) : (s.setStr n x).ste = s.ste.set n x := rfl
@[simp] theorem State.setStr_sst (n : StreamId) (x : StreamRec) : (s.setStr n x).sst = s.sst := rfl
@[simp] theorem State.setStr_rqe (n : StreamId) (x : StreamRec) : (s.setStr n x).rqe = s.rqe := rfl
@[simp] theorem State.setStr_hlc (n : StreamId) (x : StreamRec) : (s.setStr n x).hlc = s.hlc := rfl
@[simp] theorem State.setStr_ntu (n : StreamId) (x : StreamRec) : (s.setStr n x).ntu = s.ntu := rfl
@[simp] theorem State.setStr_lr (n : StreamId) (x : StreamRec) (r' : LrId) : (s.setStr n x).lr r' = s.lr r' := rfl
@[simp] theorem State.setStr_slot (n : StreamId) (x : StreamRec) (k' : SlotId) : (s.setStr n x).slot k' = s.slot k' := rfl
@[simp] theorem State.setStr_row (n : StreamId) (x : StreamRec) (q : Nat) : (s.setStr n x).row q = s.row q := rfl
@[simp] theorem State.setStr_live (n : StreamId) (x : StreamRec) : (s.setStr n x).live = s.live := rfl

/-! ### setSlot -/

@[simp] theorem State.setSlot_pending (k : SlotId) (x : Session) : (s.setSlot k x).pending = s.pending := rfl
@[simp] theorem State.setSlot_clock (k : SlotId) (x : Session) : (s.setSlot k x).clock = s.clock := rfl
@[simp] theorem State.setSlot_powered (k : SlotId) (x : Session) : (s.setSlot k x).powered = s.powered := rfl
@[simp] theorem State.setSlot_hrst (k : SlotId) (x : Session) : (s.setSlot k x).hrst = s.hrst := rfl
@[simp] theorem State.setSlot_rat (k : SlotId) (x : Session) : (s.setSlot k x).rat = s.rat := rfl
@[simp] theorem State.setSlot_rfe (k : SlotId) (x : Session) : (s.setSlot k x).rfe = s.rfe := rfl
@[simp] theorem State.setSlot_arb (k : SlotId) (x : Session) : (s.setSlot k x).arb = s.arb := rfl
@[simp] theorem State.setSlot_lrb (k : SlotId) (x : Session) : (s.setSlot k x).lrb = s.lrb := rfl
@[simp] theorem State.setSlot_ste (k : SlotId) (x : Session) : (s.setSlot k x).ste = s.ste := rfl
@[simp] theorem State.setSlot_sst (k : SlotId) (x : Session) : (s.setSlot k x).sst = s.sst.set k x := rfl
@[simp] theorem State.setSlot_rqe (k : SlotId) (x : Session) : (s.setSlot k x).rqe = s.rqe := rfl
@[simp] theorem State.setSlot_hlc (k : SlotId) (x : Session) : (s.setSlot k x).hlc = s.hlc := rfl
@[simp] theorem State.setSlot_ntu (k : SlotId) (x : Session) : (s.setSlot k x).ntu = s.ntu := rfl
@[simp] theorem State.setSlot_lr (k : SlotId) (x : Session) (r' : LrId) : (s.setSlot k x).lr r' = s.lr r' := rfl
@[simp] theorem State.setSlot_str (k : SlotId) (x : Session) (n' : StreamId) : (s.setSlot k x).str n' = s.str n' := rfl
@[simp] theorem State.setSlot_row (k : SlotId) (x : Session) (q : Nat) : (s.setSlot k x).row q = s.row q := rfl
@[simp] theorem State.setSlot_live (k : SlotId) (x : Session) : (s.setSlot k x).live = s.live := rfl

/-! ### updateRow -/

@[simp] theorem State.updateRow_pending (r : Nat) (f : RowEntry → RowEntry) : (s.updateRow r f).pending = s.pending := rfl
@[simp] theorem State.updateRow_clock (r : Nat) (f : RowEntry → RowEntry) : (s.updateRow r f).clock = s.clock := rfl
@[simp] theorem State.updateRow_powered (r : Nat) (f : RowEntry → RowEntry) : (s.updateRow r f).powered = s.powered := rfl
@[simp] theorem State.updateRow_hrst (r : Nat) (f : RowEntry → RowEntry) : (s.updateRow r f).hrst = s.hrst := rfl
@[simp] theorem State.updateRow_rat (r : Nat) (f : RowEntry → RowEntry) : (s.updateRow r f).rat = { s.rat with table := s.rat.table.set r (f (s.row r)) } := rfl
@[simp] theorem State.updateRow_rfe (r : Nat) (f : RowEntry → RowEntry) : (s.updateRow r f).rfe = s.rfe := rfl
@[simp] theorem State.updateRow_arb (r : Nat) (f : RowEntry → RowEntry) : (s.updateRow r f).arb = s.arb := rfl
@[simp] theorem State.updateRow_lrb (r : Nat) (f : RowEntry → RowEntry) : (s.updateRow r f).lrb = s.lrb := rfl
@[simp] theorem State.updateRow_ste (r : Nat) (f : RowEntry → RowEntry) : (s.updateRow r f).ste = s.ste := rfl
@[simp] theorem State.updateRow_sst (r : Nat) (f : RowEntry → RowEntry) : (s.updateRow r f).sst = s.sst := rfl
@[simp] theorem State.updateRow_rqe (r : Nat) (f : RowEntry → RowEntry) : (s.updateRow r f).rqe = s.rqe := rfl
@[simp] theorem State.updateRow_hlc (r : Nat) (f : RowEntry → RowEntry) : (s.updateRow r f).hlc = s.hlc := rfl
@[simp] theorem State.updateRow_ntu (r : Nat) (f : RowEntry → RowEntry) : (s.updateRow r f).ntu = s.ntu := rfl
@[simp] theorem State.updateRow_lr (r : Nat) (f : RowEntry → RowEntry) (r' : LrId) : (s.updateRow r f).lr r' = s.lr r' := rfl
@[simp] theorem State.updateRow_str (r : Nat) (f : RowEntry → RowEntry) (n' : StreamId) : (s.updateRow r f).str n' = s.str n' := rfl
@[simp] theorem State.updateRow_slot (r : Nat) (f : RowEntry → RowEntry) (k' : SlotId) : (s.updateRow r f).slot k' = s.slot k' := rfl
@[simp] theorem State.updateRow_live (r : Nat) (f : RowEntry → RowEntry) : (s.updateRow r f).live = s.live := rfl

/-! ### enqueue -/

@[simp] theorem State.enqueue_pending (f : Frame) : (s.enqueue f).pending = s.pending := rfl
@[simp] theorem State.enqueue_clock (f : Frame) : (s.enqueue f).clock = s.clock := rfl
@[simp] theorem State.enqueue_powered (f : Frame) : (s.enqueue f).powered = s.powered := rfl
@[simp] theorem State.enqueue_hrst (f : Frame) : (s.enqueue f).hrst = s.hrst := rfl
@[simp] theorem State.enqueue_rat (f : Frame) : (s.enqueue f).rat = s.rat := rfl
@[simp] theorem State.enqueue_rfe (f : Frame) : (s.enqueue f).rfe = s.rfe := rfl
@[simp] theorem State.enqueue_arb (f : Frame) : (s.enqueue f).arb = s.arb := rfl
@[simp] theorem State.enqueue_lrb (f : Frame) : (s.enqueue f).lrb = s.lrb := rfl
@[simp] theorem State.enqueue_ste (f : Frame) : (s.enqueue f).ste = s.ste := rfl
@[simp] theorem State.enqueue_sst (f : Frame) : (s.enqueue f).sst = s.sst := rfl
@[simp] theorem State.enqueue_rqe (f : Frame) : (s.enqueue f).rqe = s.rqe := rfl
@[simp] theorem State.enqueue_hlc (f : Frame) : (s.enqueue f).hlc = { s.hlc with outq := s.hlc.outq ++ [f], attn := true } := rfl
@[simp] theorem State.enqueue_ntu (f : Frame) : (s.enqueue f).ntu = s.ntu := rfl
@[simp] theorem State.enqueue_lr (f : Frame) (r' : LrId) : (s.enqueue f).lr r' = s.lr r' := rfl
@[simp] theorem State.enqueue_str (f : Frame) (n' : StreamId) : (s.enqueue f).str n' = s.str n' := rfl
@[simp] theorem State.enqueue_slot (f : Frame) (k' : SlotId) : (s.enqueue f).slot k' = s.slot k' := rfl
@[simp] theorem State.enqueue_row (f : Frame) (q : Nat) : (s.enqueue f).row q = s.row q := rfl
@[simp] theorem State.enqueue_live (f : Frame) : (s.enqueue f).live = s.live := rfl

/-! ### setCircuit -/

@[simp] theorem State.setCircuit_pending (c : Circuit) : (s.setCircuit c).pending = s.pending := rfl
@[simp] theorem State.setCircuit_clock (c : Circuit) : (s.setCircuit c).clock = s.clock := rfl
@[simp] theorem State.setCircuit_powered (c : Circuit) : (s.setCircuit c).powered = s.powered := rfl
@[simp] theorem State.setCircuit_hrst (c : Circuit) : (s.setCircuit c).hrst = s.hrst := rfl
@[simp] theorem State.setCircuit_rat (c : Circuit) : (s.setCircuit c).rat = s.rat := rfl
@[simp] theorem State.setCircuit_rfe (c : Circuit) : (s.setCircuit c).rfe = s.rfe := rfl
@[simp] theorem State.setCircuit_arb (c : Circuit) : (s.setCircuit c).arb = { s.arb with circuit := c } := rfl
@[simp] theorem State.setCircuit_lrb (c : Circuit) : (s.setCircuit c).lrb = s.lrb := rfl
@[simp] theorem State.setCircuit_ste (c : Circuit) : (s.setCircuit c).ste = s.ste := rfl
@[simp] theorem State.setCircuit_sst (c : Circuit) : (s.setCircuit c).sst = s.sst := rfl
@[simp] theorem State.setCircuit_rqe (c : Circuit) : (s.setCircuit c).rqe = s.rqe := rfl
@[simp] theorem State.setCircuit_hlc (c : Circuit) : (s.setCircuit c).hlc = s.hlc := rfl
@[simp] theorem State.setCircuit_ntu (c : Circuit) : (s.setCircuit c).ntu = s.ntu := rfl
@[simp] theorem State.setCircuit_lr (c : Circuit) (r' : LrId) : (s.setCircuit c).lr r' = s.lr r' := rfl
@[simp] theorem State.setCircuit_str (c : Circuit) (n' : StreamId) : (s.setCircuit c).str n' = s.str n' := rfl
@[simp] theorem State.setCircuit_slot (c : Circuit) (k' : SlotId) : (s.setCircuit c).slot k' = s.slot k' := rfl
@[simp] theorem State.setCircuit_row (c : Circuit) (q : Nat) : (s.setCircuit c).row q = s.row q := rfl
@[simp] theorem State.setCircuit_live (c : Circuit) : (s.setCircuit c).live = s.live := rfl

/-! ### raiseClaim -/

@[simp] theorem State.raiseClaim_pending (c : Claim) : (s.raiseClaim c).pending = s.pending := rfl
@[simp] theorem State.raiseClaim_clock (c : Claim) : (s.raiseClaim c).clock = s.clock := rfl
@[simp] theorem State.raiseClaim_powered (c : Claim) : (s.raiseClaim c).powered = s.powered := rfl
@[simp] theorem State.raiseClaim_hrst (c : Claim) : (s.raiseClaim c).hrst = s.hrst := rfl
@[simp] theorem State.raiseClaim_rat (c : Claim) : (s.raiseClaim c).rat = s.rat := rfl
@[simp] theorem State.raiseClaim_rfe (c : Claim) : (s.raiseClaim c).rfe = s.rfe := rfl
@[simp] theorem State.raiseClaim_arb (c : Claim) : (s.raiseClaim c).arb = { s.arb with claims := s.arb.claims ++ [c] } := rfl
@[simp] theorem State.raiseClaim_lrb (c : Claim) : (s.raiseClaim c).lrb = s.lrb := rfl
@[simp] theorem State.raiseClaim_ste (c : Claim) : (s.raiseClaim c).ste = s.ste := rfl
@[simp] theorem State.raiseClaim_sst (c : Claim) : (s.raiseClaim c).sst = s.sst := rfl
@[simp] theorem State.raiseClaim_rqe (c : Claim) : (s.raiseClaim c).rqe = s.rqe := rfl
@[simp] theorem State.raiseClaim_hlc (c : Claim) : (s.raiseClaim c).hlc = s.hlc := rfl
@[simp] theorem State.raiseClaim_ntu (c : Claim) : (s.raiseClaim c).ntu = s.ntu := rfl
@[simp] theorem State.raiseClaim_lr (c : Claim) (r' : LrId) : (s.raiseClaim c).lr r' = s.lr r' := rfl
@[simp] theorem State.raiseClaim_str (c : Claim) (n' : StreamId) : (s.raiseClaim c).str n' = s.str n' := rfl
@[simp] theorem State.raiseClaim_slot (c : Claim) (k' : SlotId) : (s.raiseClaim c).slot k' = s.slot k' := rfl
@[simp] theorem State.raiseClaim_row (c : Claim) (q : Nat) : (s.raiseClaim c).row q = s.row q := rfl
@[simp] theorem State.raiseClaim_live (c : Claim) : (s.raiseClaim c).live = s.live := rfl

/-! ### withdraw -/

@[simp] theorem State.withdraw_pending (p : Claim → Bool) : (s.withdraw p).pending = s.pending := rfl
@[simp] theorem State.withdraw_clock (p : Claim → Bool) : (s.withdraw p).clock = s.clock := rfl
@[simp] theorem State.withdraw_powered (p : Claim → Bool) : (s.withdraw p).powered = s.powered := rfl
@[simp] theorem State.withdraw_hrst (p : Claim → Bool) : (s.withdraw p).hrst = s.hrst := rfl
@[simp] theorem State.withdraw_rat (p : Claim → Bool) : (s.withdraw p).rat = s.rat := rfl
@[simp] theorem State.withdraw_rfe (p : Claim → Bool) : (s.withdraw p).rfe = s.rfe := rfl
@[simp] theorem State.withdraw_arb (p : Claim → Bool) : (s.withdraw p).arb = { s.arb with claims := s.arb.claims.filter (fun c => !p c) } := rfl
@[simp] theorem State.withdraw_lrb (p : Claim → Bool) : (s.withdraw p).lrb = s.lrb := rfl
@[simp] theorem State.withdraw_ste (p : Claim → Bool) : (s.withdraw p).ste = s.ste := rfl
@[simp] theorem State.withdraw_sst (p : Claim → Bool) : (s.withdraw p).sst = s.sst := rfl
@[simp] theorem State.withdraw_rqe (p : Claim → Bool) : (s.withdraw p).rqe = s.rqe := rfl
@[simp] theorem State.withdraw_hlc (p : Claim → Bool) : (s.withdraw p).hlc = s.hlc := rfl
@[simp] theorem State.withdraw_ntu (p : Claim → Bool) : (s.withdraw p).ntu = s.ntu := rfl
@[simp] theorem State.withdraw_lr (p : Claim → Bool) (r' : LrId) : (s.withdraw p).lr r' = s.lr r' := rfl
@[simp] theorem State.withdraw_str (p : Claim → Bool) (n' : StreamId) : (s.withdraw p).str n' = s.str n' := rfl
@[simp] theorem State.withdraw_slot (p : Claim → Bool) (k' : SlotId) : (s.withdraw p).slot k' = s.slot k' := rfl
@[simp] theorem State.withdraw_row (p : Claim → Bool) (q : Nat) : (s.withdraw p).row q = s.row q := rfl
@[simp] theorem State.withdraw_live (p : Claim → Bool) : (s.withdraw p).live = s.live := rfl

/-! ### setPhase -/

@[simp] theorem State.setPhase_pending (p : Phase) : (s.setPhase p).pending = s.pending := rfl
@[simp] theorem State.setPhase_clock (p : Phase) : (s.setPhase p).clock = s.clock := rfl
@[simp] theorem State.setPhase_powered (p : Phase) : (s.setPhase p).powered = s.powered := rfl
@[simp] theorem State.setPhase_hrst (p : Phase) : (s.setPhase p).hrst = s.hrst := rfl
@[simp] theorem State.setPhase_rat (p : Phase) : (s.setPhase p).rat = s.rat := rfl
@[simp] theorem State.setPhase_rfe (p : Phase) : (s.setPhase p).rfe = s.rfe := rfl
@[simp] theorem State.setPhase_arb (p : Phase) : (s.setPhase p).arb = s.arb := rfl
@[simp] theorem State.setPhase_lrb (p : Phase) : (s.setPhase p).lrb = s.lrb := rfl
@[simp] theorem State.setPhase_ste (p : Phase) : (s.setPhase p).ste = s.ste := rfl
@[simp] theorem State.setPhase_sst (p : Phase) : (s.setPhase p).sst = s.sst := rfl
@[simp] theorem State.setPhase_rqe (p : Phase) : (s.setPhase p).rqe = { s.rqe with phase := p } := rfl
@[simp] theorem State.setPhase_hlc (p : Phase) : (s.setPhase p).hlc = s.hlc := rfl
@[simp] theorem State.setPhase_ntu (p : Phase) : (s.setPhase p).ntu = s.ntu := rfl
@[simp] theorem State.setPhase_lr (p : Phase) (r' : LrId) : (s.setPhase p).lr r' = s.lr r' := rfl
@[simp] theorem State.setPhase_str (p : Phase) (n' : StreamId) : (s.setPhase p).str n' = s.str n' := rfl
@[simp] theorem State.setPhase_slot (p : Phase) (k' : SlotId) : (s.setPhase p).slot k' = s.slot k' := rfl
@[simp] theorem State.setPhase_row (p : Phase) (q : Nat) : (s.setPhase p).row q = s.row q := rfl
@[simp] theorem State.setPhase_live (p : Phase) : (s.setPhase p).live = s.live := rfl

/-! ### Accessors over their own updates -/

@[simp] theorem LineRegs.get_set (b : LineRegs) (r r' : LrId) (x : LineReg) :
    (b.set r x).get r' = if r' = r then x else b.get r' := by
  cases r <;> cases r' <;> rfl

@[simp] theorem Streams.get_set (b : Streams) (n n' : StreamId) (x : StreamRec) :
    (b.set n x).get n' = if n' = n then x else b.get n' := by
  cases n <;> cases n' <;> rfl

@[simp] theorem Sessions.get_set (b : Sessions) (k k' : SlotId) (x : Session) :
    (b.set k x).get k' = if k' = k then x else b.get k' := by
  cases k <;> cases k' <;> rfl

@[simp] theorem State.lr_setLr (r r' : LrId) (x : LineReg) :
    (s.setLr r x).lr r' = if r' = r then x else s.lr r' :=
  LineRegs.get_set s.lrb r r' x

@[simp] theorem State.str_setStr (n n' : StreamId) (x : StreamRec) :
    (s.setStr n x).str n' = if n' = n then x else s.str n' :=
  Streams.get_set s.ste n n' x

@[simp] theorem State.slot_setSlot (k k' : SlotId) (x : Session) :
    (s.setSlot k x).slot k' = if k' = k then x else s.slot k' :=
  Sessions.get_set s.sst k k' x

theorem State.row_updateRow (r q : Nat) (f : RowEntry → RowEntry) (h : r < s.rat.table.length) :
    (s.updateRow r f).row q = if q = r then f (s.row r) else s.row q := by
  unfold State.row State.updateRow
  by_cases hq : q = r
  · subst hq; simp [h, State.row]
  · simp [List.getD_eq_getElem?_getD, hq, Ne.symm hq]

@[simp] theorem State.updateRow_table_length (r : Nat) (f : RowEntry → RowEntry) :
    (s.updateRow r f).rat.table.length = s.rat.table.length := by
  simp [State.updateRow]

end Sys2Proof.Machine
end

