-- ==== Sys2Proof/Laws/Frames.lean ====
section
/-! SUPPORT. What each named operation leaves unchanged: one lemma per operation, for every block it does not act on. -/

namespace Sys2Proof.Machine

variable (s : State)

@[simp] theorem State.mapStr_frame (n : StreamId) (f : StreamRec → StreamRec) :
    (s.mapStr n f).pending = s.pending ∧ (s.mapStr n f).clock = s.clock ∧ (s.mapStr n f).powered = s.powered ∧
      (s.mapStr n f).hrst = s.hrst ∧ (s.mapStr n f).rat = s.rat ∧ (s.mapStr n f).rfe = s.rfe ∧
      (s.mapStr n f).arb = s.arb ∧ (s.mapStr n f).lrb = s.lrb ∧ (s.mapStr n f).sst = s.sst ∧
      (s.mapStr n f).rqe = s.rqe ∧ (s.mapStr n f).hlc = s.hlc ∧ (s.mapStr n f).ntu = s.ntu ∧
      (s.mapStr n f).live = s.live ∧ (∀ q : LrId, (s.mapStr n f).lr q = s.lr q) ∧
      (∀ q : SlotId, (s.mapStr n f).slot q = s.slot q) ∧ (∀ q : Nat, (s.mapStr n f).row q = s.row q) := by
  simp [State.mapStr, State.live, State.lr, State.str, State.slot, State.row]

@[simp] theorem State.count_frame (n : StreamId) (f : Counters → Counters) :
    (s.count n f).pending = s.pending ∧ (s.count n f).clock = s.clock ∧ (s.count n f).powered = s.powered ∧
      (s.count n f).hrst = s.hrst ∧ (s.count n f).rat = s.rat ∧ (s.count n f).rfe = s.rfe ∧
      (s.count n f).arb = s.arb ∧ (s.count n f).lrb = s.lrb ∧ (s.count n f).sst = s.sst ∧
      (s.count n f).rqe = s.rqe ∧ (s.count n f).hlc = s.hlc ∧ (s.count n f).ntu = s.ntu ∧
      (s.count n f).live = s.live ∧ (∀ q : LrId, (s.count n f).lr q = s.lr q) ∧
      (∀ q : SlotId, (s.count n f).slot q = s.slot q) ∧ (∀ q : Nat, (s.count n f).row q = s.row q) := by
  simp [State.count, State.live, State.lr, State.slot, State.row]

@[simp] theorem State.mapLr_frame (r : LrId) (f : LineReg → LineReg) :
    (s.mapLr r f).pending = s.pending ∧ (s.mapLr r f).clock = s.clock ∧ (s.mapLr r f).powered = s.powered ∧
      (s.mapLr r f).hrst = s.hrst ∧ (s.mapLr r f).rat = s.rat ∧ (s.mapLr r f).rfe = s.rfe ∧
      (s.mapLr r f).arb = s.arb ∧ (s.mapLr r f).ste = s.ste ∧ (s.mapLr r f).sst = s.sst ∧
      (s.mapLr r f).rqe = s.rqe ∧ (s.mapLr r f).hlc = s.hlc ∧ (s.mapLr r f).ntu = s.ntu ∧
      (s.mapLr r f).live = s.live ∧ (∀ q : StreamId, (s.mapLr r f).str q = s.str q) ∧
      (∀ q : SlotId, (s.mapLr r f).slot q = s.slot q) ∧ (∀ q : Nat, (s.mapLr r f).row q = s.row q) := by
  simp [State.mapLr, State.live, State.lr, State.str, State.slot, State.row]

@[simp] theorem State.park_frame (k : SlotId) :
    (s.park k).pending = s.pending ∧ (s.park k).clock = s.clock ∧ (s.park k).powered = s.powered ∧
      (s.park k).hrst = s.hrst ∧ (s.park k).rat = s.rat ∧ (s.park k).rfe = s.rfe ∧ (s.park k).arb = s.arb ∧
      (s.park k).lrb = s.lrb ∧ (s.park k).ste = s.ste ∧ (s.park k).rqe = s.rqe ∧ (s.park k).hlc = s.hlc ∧
      (s.park k).ntu = s.ntu ∧ (s.park k).live = s.live ∧ (∀ q : LrId, (s.park k).lr q = s.lr q) ∧
      (∀ q : StreamId, (s.park k).str q = s.str q) ∧ (∀ q : Nat, (s.park k).row q = s.row q) := by
  simp [State.park, State.live, State.lr, State.str, State.slot, State.row]

@[simp] theorem State.stopIdle_frame (k : SlotId) :
    (s.stopIdle k).pending = s.pending ∧ (s.stopIdle k).clock = s.clock ∧ (s.stopIdle k).powered = s.powered ∧
      (s.stopIdle k).hrst = s.hrst ∧ (s.stopIdle k).rat = s.rat ∧ (s.stopIdle k).rfe = s.rfe ∧
      (s.stopIdle k).arb = s.arb ∧ (s.stopIdle k).lrb = s.lrb ∧ (s.stopIdle k).ste = s.ste ∧
      (s.stopIdle k).rqe = s.rqe ∧ (s.stopIdle k).hlc = s.hlc ∧ (s.stopIdle k).ntu = s.ntu ∧
      (s.stopIdle k).live = s.live ∧ (∀ q : LrId, (s.stopIdle k).lr q = s.lr q) ∧
      (∀ q : StreamId, (s.stopIdle k).str q = s.str q) ∧ (∀ q : Nat, (s.stopIdle k).row q = s.row q) := by
  simp [State.stopIdle, State.live, State.lr, State.str, State.slot, State.row]

@[simp] theorem State.restartIdle_frame (k : SlotId) :
    (s.restartIdle k).pending = s.pending ∧ (s.restartIdle k).clock = s.clock ∧
      (s.restartIdle k).powered = s.powered ∧ (s.restartIdle k).hrst = s.hrst ∧ (s.restartIdle k).rat = s.rat ∧
      (s.restartIdle k).rfe = s.rfe ∧ (s.restartIdle k).arb = s.arb ∧ (s.restartIdle k).lrb = s.lrb ∧
      (s.restartIdle k).ste = s.ste ∧ (s.restartIdle k).rqe = s.rqe ∧ (s.restartIdle k).hlc = s.hlc ∧
      (s.restartIdle k).ntu = s.ntu ∧ (s.restartIdle k).live = s.live ∧
      (∀ q : LrId, (s.restartIdle k).lr q = s.lr q) ∧ (∀ q : StreamId, (s.restartIdle k).str q = s.str q) ∧
      (∀ q : Nat, (s.restartIdle k).row q = s.row q) := by
  simp [State.restartIdle, State.live, State.lr, State.str, State.slot, State.row]

@[simp] theorem State.freeSession_frame (k : SlotId) :
    (s.freeSession k).pending = s.pending ∧ (s.freeSession k).clock = s.clock ∧
      (s.freeSession k).powered = s.powered ∧ (s.freeSession k).hrst = s.hrst ∧ (s.freeSession k).rat = s.rat ∧
      (s.freeSession k).rfe = s.rfe ∧ (s.freeSession k).arb = s.arb ∧ (s.freeSession k).lrb = s.lrb ∧
      (s.freeSession k).ste = s.ste ∧ (s.freeSession k).rqe = s.rqe ∧ (s.freeSession k).hlc = s.hlc ∧
      (s.freeSession k).ntu = s.ntu ∧ (s.freeSession k).live = s.live ∧
      (∀ q : LrId, (s.freeSession k).lr q = s.lr q) ∧ (∀ q : StreamId, (s.freeSession k).str q = s.str q) ∧
      (∀ q : Nat, (s.freeSession k).row q = s.row q) := by
  simp [State.freeSession, State.live, State.lr, State.str, State.slot, State.row]

@[simp] theorem State.openSession_frame (k : SlotId) :
    (s.openSession k).pending = s.pending ∧ (s.openSession k).clock = s.clock ∧
      (s.openSession k).powered = s.powered ∧ (s.openSession k).hrst = s.hrst ∧ (s.openSession k).rat = s.rat ∧
      (s.openSession k).rfe = s.rfe ∧ (s.openSession k).arb = s.arb ∧ (s.openSession k).lrb = s.lrb ∧
      (s.openSession k).ste = s.ste ∧ (s.openSession k).rqe = s.rqe ∧ (s.openSession k).hlc = s.hlc ∧
      (s.openSession k).ntu = s.ntu ∧ (s.openSession k).live = s.live ∧
      (∀ q : LrId, (s.openSession k).lr q = s.lr q) ∧ (∀ q : StreamId, (s.openSession k).str q = s.str q) ∧
      (∀ q : Nat, (s.openSession k).row q = s.row q) := by
  simp [State.openSession, State.live, State.lr, State.str, State.slot, State.row]

@[simp] theorem State.markCrossed_frame (r : Nat) :
    (s.markCrossed r).pending = s.pending ∧ (s.markCrossed r).clock = s.clock ∧
      (s.markCrossed r).powered = s.powered ∧ (s.markCrossed r).hrst = s.hrst ∧ (s.markCrossed r).rfe = s.rfe ∧
      (s.markCrossed r).arb = s.arb ∧ (s.markCrossed r).lrb = s.lrb ∧ (s.markCrossed r).ste = s.ste ∧
      (s.markCrossed r).sst = s.sst ∧ (s.markCrossed r).rqe = s.rqe ∧ (s.markCrossed r).hlc = s.hlc ∧
      (s.markCrossed r).ntu = s.ntu ∧ (s.markCrossed r).live = s.live ∧
      (∀ q : LrId, (s.markCrossed r).lr q = s.lr q) ∧ (∀ q : StreamId, (s.markCrossed r).str q = s.str q) ∧
      (∀ q : SlotId, (s.markCrossed r).slot q = s.slot q) := by
  simp [State.markCrossed, State.live, State.lr, State.str, State.slot]

@[simp] theorem State.report_frame (x : Notice) :
    (s.report x).pending = s.pending ∧ (s.report x).clock = s.clock ∧ (s.report x).powered = s.powered ∧
      (s.report x).hrst = s.hrst ∧ (s.report x).rat = s.rat ∧ (s.report x).rfe = s.rfe ∧
      (s.report x).arb = s.arb ∧ (s.report x).lrb = s.lrb ∧ (s.report x).ste = s.ste ∧
      (s.report x).sst = s.sst ∧ (s.report x).rqe = s.rqe ∧ (s.report x).live = s.live ∧
      (∀ q : LrId, (s.report x).lr q = s.lr q) ∧ (∀ q : StreamId, (s.report x).str q = s.str q) ∧
      (∀ q : SlotId, (s.report x).slot q = s.slot q) ∧ (∀ q : Nat, (s.report x).row q = s.row q) := by
  simp only [State.report]
  (repeat' split) <;> simp [State.live, State.lr, State.str, State.slot, State.row]

@[simp] theorem State.finish_frame (st : Status) (fl : Byte) (d : List Byte) :
    (s.finish st fl d).pending = s.pending ∧ (s.finish st fl d).clock = s.clock ∧
      (s.finish st fl d).powered = s.powered ∧ (s.finish st fl d).hrst = s.hrst ∧
      (s.finish st fl d).rat = s.rat ∧ (s.finish st fl d).rfe = s.rfe ∧ (s.finish st fl d).arb = s.arb ∧
      (s.finish st fl d).lrb = s.lrb ∧ (s.finish st fl d).ste = s.ste ∧ (s.finish st fl d).sst = s.sst ∧
      (s.finish st fl d).ntu = s.ntu ∧ (s.finish st fl d).live = s.live ∧
      (∀ q : LrId, (s.finish st fl d).lr q = s.lr q) ∧ (∀ q : StreamId, (s.finish st fl d).str q = s.str q) ∧
      (∀ q : SlotId, (s.finish st fl d).slot q = s.slot q) ∧ (∀ q : Nat, (s.finish st fl d).row q = s.row q) := by
  simp only [State.finish]
  (repeat' split) <;> simp [State.live, State.lr, State.str, State.slot, State.row]

@[simp] theorem State.refuse_frame (st : Status) :
    (s.refuse st).pending = s.pending ∧ (s.refuse st).clock = s.clock ∧ (s.refuse st).powered = s.powered ∧
      (s.refuse st).hrst = s.hrst ∧ (s.refuse st).rat = s.rat ∧ (s.refuse st).rfe = s.rfe ∧
      (s.refuse st).arb = s.arb ∧ (s.refuse st).lrb = s.lrb ∧ (s.refuse st).ste = s.ste ∧
      (s.refuse st).sst = s.sst ∧ (s.refuse st).ntu = s.ntu ∧ (s.refuse st).live = s.live ∧
      (∀ q : LrId, (s.refuse st).lr q = s.lr q) ∧ (∀ q : StreamId, (s.refuse st).str q = s.str q) ∧
      (∀ q : SlotId, (s.refuse st).slot q = s.slot q) ∧ (∀ q : Nat, (s.refuse st).row q = s.row q) := by
  simp [State.refuse, State.live, State.lr, State.str, State.slot, State.row]

@[simp] theorem State.writeSections_frame (r : Nat) (m : SectionSet) (f : Nat → CellVal) :
    (s.writeSections r m f).pending = s.pending ∧ (s.writeSections r m f).clock = s.clock ∧
      (s.writeSections r m f).powered = s.powered ∧ (s.writeSections r m f).hrst = s.hrst ∧
      (s.writeSections r m f).rfe = s.rfe ∧ (s.writeSections r m f).arb = s.arb ∧
      (s.writeSections r m f).lrb = s.lrb ∧ (s.writeSections r m f).ste = s.ste ∧
      (s.writeSections r m f).sst = s.sst ∧ (s.writeSections r m f).rqe = s.rqe ∧
      (s.writeSections r m f).hlc = s.hlc ∧ (s.writeSections r m f).ntu = s.ntu ∧
      (s.writeSections r m f).live = s.live ∧ (∀ q : LrId, (s.writeSections r m f).lr q = s.lr q) ∧
      (∀ q : StreamId, (s.writeSections r m f).str q = s.str q) ∧
      (∀ q : SlotId, (s.writeSections r m f).slot q = s.slot q) := by
  simp only [State.writeSections]
  simp [State.live, State.lr, State.str, State.slot]

@[simp] theorem State.grant_frame (c : Claim) :
    (s.grant c).pending = s.pending ∧ (s.grant c).clock = s.clock ∧ (s.grant c).powered = s.powered ∧
      (s.grant c).hrst = s.hrst ∧ (s.grant c).rat = s.rat ∧ (s.grant c).rfe = s.rfe ∧ (s.grant c).ste = s.ste ∧
      (s.grant c).sst = s.sst ∧ (s.grant c).rqe = s.rqe ∧ (s.grant c).hlc = s.hlc ∧ (s.grant c).ntu = s.ntu ∧
      (s.grant c).live = s.live ∧ (∀ q : StreamId, (s.grant c).str q = s.str q) ∧
      (∀ q : SlotId, (s.grant c).slot q = s.slot q) ∧ (∀ q : Nat, (s.grant c).row q = s.row q) := by
  simp only [State.grant]
  (repeat' split) <;> simp [State.live, State.lr, State.str, State.slot, State.row]

@[simp] theorem State.grantDecision_frame :
    s.grantDecision.pending = s.pending ∧ s.grantDecision.clock = s.clock ∧
      s.grantDecision.powered = s.powered ∧ s.grantDecision.hrst = s.hrst ∧ s.grantDecision.rat = s.rat ∧
      s.grantDecision.rfe = s.rfe ∧ s.grantDecision.ste = s.ste ∧ s.grantDecision.sst = s.sst ∧
      s.grantDecision.rqe = s.rqe ∧ s.grantDecision.hlc = s.hlc ∧ s.grantDecision.ntu = s.ntu ∧
      s.grantDecision.live = s.live ∧ (∀ q : StreamId, s.grantDecision.str q = s.str q) ∧
      (∀ q : SlotId, s.grantDecision.slot q = s.slot q) ∧ (∀ q : Nat, s.grantDecision.row q = s.row q) := by
  simp only [State.grantDecision]
  (repeat' split) <;> simp [State.live, State.str, State.slot, State.row]

@[simp] theorem State.closeHeld_frame :
    s.closeHeld.pending = s.pending ∧ s.closeHeld.clock = s.clock ∧ s.closeHeld.powered = s.powered ∧
      s.closeHeld.hrst = s.hrst ∧ s.closeHeld.rat = s.rat ∧ s.closeHeld.rfe = s.rfe ∧ s.closeHeld.lrb = s.lrb ∧
      s.closeHeld.ste = s.ste ∧ s.closeHeld.rqe = s.rqe ∧ s.closeHeld.hlc = s.hlc ∧ s.closeHeld.ntu = s.ntu ∧
      s.closeHeld.live = s.live ∧ (∀ q : LrId, s.closeHeld.lr q = s.lr q) ∧
      (∀ q : StreamId, s.closeHeld.str q = s.str q) ∧ (∀ q : Nat, s.closeHeld.row q = s.row q) := by
  simp only [State.closeHeld]
  (repeat' split) <;> simp [State.live, State.lr, State.str, State.row]

@[simp] theorem State.settle_frame :
    s.settle.pending = s.pending ∧ s.settle.clock = s.clock ∧ s.settle.powered = s.powered ∧
      s.settle.hrst = s.hrst ∧ s.settle.rat = s.rat ∧ s.settle.rfe = s.rfe ∧ s.settle.ste = s.ste ∧
      s.settle.rqe = s.rqe ∧ s.settle.hlc = s.hlc ∧ s.settle.ntu = s.ntu ∧ s.settle.live = s.live ∧
      (∀ q : StreamId, s.settle.str q = s.str q) ∧ (∀ q : Nat, s.settle.row q = s.row q) := by
  simp only [State.settle]
  (repeat' split) <;> simp [State.live, State.str, State.row]

@[simp] theorem State.checkRoutine_frame :
    s.checkRoutine.pending = s.pending ∧ s.checkRoutine.clock = s.clock ∧ s.checkRoutine.powered = s.powered ∧
      s.checkRoutine.hrst = s.hrst ∧ s.checkRoutine.rat = s.rat ∧ s.checkRoutine.rfe = s.rfe ∧
      s.checkRoutine.lrb = s.lrb ∧ s.checkRoutine.ste = s.ste ∧ s.checkRoutine.sst = s.sst ∧
      s.checkRoutine.rqe = s.rqe ∧ s.checkRoutine.hlc = s.hlc ∧ s.checkRoutine.ntu = s.ntu ∧
      s.checkRoutine.live = s.live ∧ (∀ q : LrId, s.checkRoutine.lr q = s.lr q) ∧
      (∀ q : StreamId, s.checkRoutine.str q = s.str q) ∧ (∀ q : SlotId, s.checkRoutine.slot q = s.slot q) ∧
      (∀ q : Nat, s.checkRoutine.row q = s.row q) := by
  simp only [State.checkRoutine]
  (repeat' split) <;> simp [State.live, State.lr, State.str, State.slot, State.row]

@[simp] theorem State.rowCompleted_frame (r : Nat) :
    (s.rowCompleted r).pending = s.pending ∧ (s.rowCompleted r).clock = s.clock ∧
      (s.rowCompleted r).powered = s.powered ∧ (s.rowCompleted r).hrst = s.hrst ∧
      (s.rowCompleted r).lrb = s.lrb ∧ (s.rowCompleted r).ste = s.ste ∧ (s.rowCompleted r).sst = s.sst ∧
      (s.rowCompleted r).rqe = s.rqe ∧ (s.rowCompleted r).hlc = s.hlc ∧ (s.rowCompleted r).ntu = s.ntu ∧
      (s.rowCompleted r).live = s.live ∧ (∀ q : LrId, (s.rowCompleted r).lr q = s.lr q) ∧
      (∀ q : StreamId, (s.rowCompleted r).str q = s.str q) ∧
      (∀ q : SlotId, (s.rowCompleted r).slot q = s.slot q) := by
  simp only [State.rowCompleted]
  simp [State.live, State.lr, State.str, State.slot, State.row]

@[simp] theorem State.raiseUrgent_frame (r : Nat) :
    (s.raiseUrgent r).pending = s.pending ∧ (s.raiseUrgent r).clock = s.clock ∧
      (s.raiseUrgent r).powered = s.powered ∧ (s.raiseUrgent r).hrst = s.hrst ∧ (s.raiseUrgent r).rat = s.rat ∧
      (s.raiseUrgent r).rfe = s.rfe ∧ (s.raiseUrgent r).lrb = s.lrb ∧ (s.raiseUrgent r).ste = s.ste ∧
      (s.raiseUrgent r).sst = s.sst ∧ (s.raiseUrgent r).rqe = s.rqe ∧ (s.raiseUrgent r).hlc = s.hlc ∧
      (s.raiseUrgent r).ntu = s.ntu ∧ (s.raiseUrgent r).live = s.live ∧
      (∀ q : LrId, (s.raiseUrgent r).lr q = s.lr q) ∧ (∀ q : StreamId, (s.raiseUrgent r).str q = s.str q) ∧
      (∀ q : SlotId, (s.raiseUrgent r).slot q = s.slot q) ∧ (∀ q : Nat, (s.raiseUrgent r).row q = s.row q) := by
  simp only [State.raiseUrgent]
  (repeat' split) <;> simp [State.live, State.lr, State.str, State.slot, State.row]

@[simp] theorem State.conclude_frame (tie : TieOrder) :
    (s.conclude tie).pending = s.pending ∧ (s.conclude tie).clock = s.clock ∧
      (s.conclude tie).powered = s.powered ∧ (s.conclude tie).hrst = s.hrst ∧ (s.conclude tie).rat = s.rat ∧
      (s.conclude tie).rfe = s.rfe ∧ (s.conclude tie).ste = s.ste ∧ (s.conclude tie).rqe = s.rqe ∧
      (s.conclude tie).hlc = s.hlc ∧ (s.conclude tie).ntu = s.ntu ∧ (s.conclude tie).live = s.live ∧
      (∀ q : StreamId, (s.conclude tie).str q = s.str q) ∧ (∀ q : Nat, (s.conclude tie).row q = s.row q) := by
  simp only [State.conclude]
  (repeat' split) <;> simp [State.live, State.str, State.row]

@[simp] theorem State.begun_frame (tie : TieOrder) :
    (s.begun tie).pending = s.pending ∧ (s.begun tie).clock = s.clock ∧ (s.begun tie).powered = s.powered ∧
      (s.begun tie).hrst = s.hrst ∧ (s.begun tie).rat = s.rat ∧ (s.begun tie).rfe = s.rfe ∧
      (s.begun tie).ste = s.ste ∧ (s.begun tie).rqe = s.rqe ∧ (s.begun tie).hlc = s.hlc ∧
      (s.begun tie).ntu = s.ntu ∧ (s.begun tie).live = s.live ∧
      (∀ q : StreamId, (s.begun tie).str q = s.str q) ∧ (∀ q : Nat, (s.begun tie).row q = s.row q) := by
  simp [State.begun, State.live, State.str, State.row]

@[simp] theorem State.emptyReg_frame (r : LrId) :
    (s.emptyReg r).pending = s.pending ∧ (s.emptyReg r).clock = s.clock ∧ (s.emptyReg r).powered = s.powered ∧
      (s.emptyReg r).hrst = s.hrst ∧ (s.emptyReg r).rat = s.rat ∧ (s.emptyReg r).rfe = s.rfe ∧
      (s.emptyReg r).ste = s.ste ∧ (s.emptyReg r).sst = s.sst ∧ (s.emptyReg r).rqe = s.rqe ∧
      (s.emptyReg r).hlc = s.hlc ∧ (s.emptyReg r).ntu = s.ntu ∧ (s.emptyReg r).live = s.live ∧
      (∀ q : StreamId, (s.emptyReg r).str q = s.str q) ∧ (∀ q : SlotId, (s.emptyReg r).slot q = s.slot q) ∧
      (∀ q : Nat, (s.emptyReg r).row q = s.row q) := by
  simp only [State.emptyReg]
  simp [State.live, State.lr, State.str, State.slot, State.row]

@[simp] theorem State.takeHead_frame (n : StreamId) (r : LrId) (g : Segment) (rest : List Segment) (st : LrState) :
    (s.takeHead n r g rest st).pending = s.pending ∧ (s.takeHead n r g rest st).clock = s.clock ∧
      (s.takeHead n r g rest st).powered = s.powered ∧ (s.takeHead n r g rest st).hrst = s.hrst ∧
      (s.takeHead n r g rest st).rat = s.rat ∧ (s.takeHead n r g rest st).rfe = s.rfe ∧
      (s.takeHead n r g rest st).arb = s.arb ∧ (s.takeHead n r g rest st).sst = s.sst ∧
      (s.takeHead n r g rest st).rqe = s.rqe ∧ (s.takeHead n r g rest st).hlc = s.hlc ∧
      (s.takeHead n r g rest st).ntu = s.ntu ∧ (s.takeHead n r g rest st).live = s.live ∧
      (∀ q : SlotId, (s.takeHead n r g rest st).slot q = s.slot q) ∧
      (∀ q : Nat, (s.takeHead n r g rest st).row q = s.row q) := by
  simp only [State.takeHead]
  simp [State.live, State.str, State.slot, State.row]

@[simp] theorem State.streamToIdle_frame (n : StreamId) :
    (s.streamToIdle n).pending = s.pending ∧ (s.streamToIdle n).clock = s.clock ∧
      (s.streamToIdle n).powered = s.powered ∧ (s.streamToIdle n).hrst = s.hrst ∧
      (s.streamToIdle n).rat = s.rat ∧ (s.streamToIdle n).rfe = s.rfe ∧ (s.streamToIdle n).arb = s.arb ∧
      (s.streamToIdle n).lrb = s.lrb ∧ (s.streamToIdle n).sst = s.sst ∧ (s.streamToIdle n).live = s.live ∧
      (∀ q : LrId, (s.streamToIdle n).lr q = s.lr q) ∧ (∀ q : SlotId, (s.streamToIdle n).slot q = s.slot q) ∧
      (∀ q : Nat, (s.streamToIdle n).row q = s.row q) := by
  simp only [State.streamToIdle]
  (repeat' split) <;> simp [State.live, State.lr, State.slot, State.row]

@[simp] theorem State.stopNext_frame (n : StreamId) :
    (s.stopNext n).pending = s.pending ∧ (s.stopNext n).clock = s.clock ∧ (s.stopNext n).powered = s.powered ∧
      (s.stopNext n).hrst = s.hrst ∧ (s.stopNext n).rat = s.rat ∧ (s.stopNext n).rfe = s.rfe ∧
      (s.stopNext n).arb = s.arb ∧ (s.stopNext n).lrb = s.lrb ∧ (s.stopNext n).sst = s.sst ∧
      (s.stopNext n).live = s.live ∧ (∀ q : LrId, (s.stopNext n).lr q = s.lr q) ∧
      (∀ q : SlotId, (s.stopNext n).slot q = s.slot q) ∧ (∀ q : Nat, (s.stopNext n).row q = s.row q) := by
  simp only [State.stopNext]
  (repeat' split) <;> simp [State.live, State.lr, State.slot, State.row]

@[simp] theorem State.checkStopped_frame (n : StreamId) :
    (s.checkStopped n).pending = s.pending ∧ (s.checkStopped n).clock = s.clock ∧
      (s.checkStopped n).powered = s.powered ∧ (s.checkStopped n).hrst = s.hrst ∧
      (s.checkStopped n).rat = s.rat ∧ (s.checkStopped n).rfe = s.rfe ∧ (s.checkStopped n).arb = s.arb ∧
      (s.checkStopped n).lrb = s.lrb ∧ (s.checkStopped n).sst = s.sst ∧ (s.checkStopped n).live = s.live ∧
      (∀ q : LrId, (s.checkStopped n).lr q = s.lr q) ∧ (∀ q : SlotId, (s.checkStopped n).slot q = s.slot q) ∧
      (∀ q : Nat, (s.checkStopped n).row q = s.row q) := by
  simp only [State.checkStopped]
  (repeat' split) <;> simp [State.live, State.lr, State.slot, State.row]

@[simp] theorem State.drain_frame (n : StreamId) :
    (s.drain n).pending = s.pending ∧ (s.drain n).clock = s.clock ∧ (s.drain n).powered = s.powered ∧
      (s.drain n).hrst = s.hrst ∧ (s.drain n).rat = s.rat ∧ (s.drain n).rfe = s.rfe ∧ (s.drain n).arb = s.arb ∧
      (s.drain n).lrb = s.lrb ∧ (s.drain n).sst = s.sst ∧ (s.drain n).rqe = s.rqe ∧ (s.drain n).live = s.live ∧
      (∀ q : LrId, (s.drain n).lr q = s.lr q) ∧ (∀ q : SlotId, (s.drain n).slot q = s.slot q) ∧
      (∀ q : Nat, (s.drain n).row q = s.row q) := by
  simp only [State.drain]
  simp [State.live, State.lr, State.slot, State.row]

@[simp] theorem State.playTakeOne_frame (n : StreamId) (r : LrId) :
    (s.playTakeOne n r).pending = s.pending ∧ (s.playTakeOne n r).clock = s.clock ∧
      (s.playTakeOne n r).powered = s.powered ∧ (s.playTakeOne n r).hrst = s.hrst ∧
      (s.playTakeOne n r).rat = s.rat ∧ (s.playTakeOne n r).rfe = s.rfe ∧ (s.playTakeOne n r).sst = s.sst ∧
      (s.playTakeOne n r).rqe = s.rqe ∧ (s.playTakeOne n r).hlc = s.hlc ∧ (s.playTakeOne n r).ntu = s.ntu ∧
      (s.playTakeOne n r).live = s.live ∧ (∀ q : SlotId, (s.playTakeOne n r).slot q = s.slot q) ∧
      (∀ q : Nat, (s.playTakeOne n r).row q = s.row q) := by
  simp only [State.playTakeOne]
  (repeat' split) <;> simp [State.live, State.slot, State.row]

@[simp] theorem State.playTakes_frame (n : StreamId) :
    (s.playTakes n).pending = s.pending ∧ (s.playTakes n).clock = s.clock ∧
      (s.playTakes n).powered = s.powered ∧ (s.playTakes n).hrst = s.hrst ∧ (s.playTakes n).rat = s.rat ∧
      (s.playTakes n).rfe = s.rfe ∧ (s.playTakes n).sst = s.sst ∧ (s.playTakes n).rqe = s.rqe ∧
      (s.playTakes n).hlc = s.hlc ∧ (s.playTakes n).ntu = s.ntu ∧ (s.playTakes n).live = s.live ∧
      (∀ q : SlotId, (s.playTakes n).slot q = s.slot q) ∧ (∀ q : Nat, (s.playTakes n).row q = s.row q) := by
  simp only [State.playTakes]
  (repeat' split) <;> simp [State.live, State.slot, State.row]

@[simp] theorem State.playCopy_frame (n : StreamId) (g : Segment) :
    (s.playCopy n g).pending = s.pending ∧ (s.playCopy n g).clock = s.clock ∧
      (s.playCopy n g).powered = s.powered ∧ (s.playCopy n g).hrst = s.hrst ∧ (s.playCopy n g).rat = s.rat ∧
      (s.playCopy n g).rfe = s.rfe ∧ (s.playCopy n g).arb = s.arb ∧ (s.playCopy n g).lrb = s.lrb ∧
      (s.playCopy n g).sst = s.sst ∧ (s.playCopy n g).rqe = s.rqe ∧ (s.playCopy n g).hlc = s.hlc ∧
      (s.playCopy n g).ntu = s.ntu ∧ (s.playCopy n g).live = s.live ∧
      (∀ q : LrId, (s.playCopy n g).lr q = s.lr q) ∧ (∀ q : SlotId, (s.playCopy n g).slot q = s.slot q) ∧
      (∀ q : Nat, (s.playCopy n g).row q = s.row q) := by
  simp only [State.playCopy]
  (repeat' split) <;> simp [State.live, State.lr, State.slot, State.row]

@[simp] theorem State.playStopEffect_frame (n : StreamId) :
    (s.playStopEffect n).pending = s.pending ∧ (s.playStopEffect n).clock = s.clock ∧
      (s.playStopEffect n).powered = s.powered ∧ (s.playStopEffect n).hrst = s.hrst ∧
      (s.playStopEffect n).rat = s.rat ∧ (s.playStopEffect n).rfe = s.rfe ∧ (s.playStopEffect n).sst = s.sst ∧
      (s.playStopEffect n).live = s.live ∧ (∀ q : SlotId, (s.playStopEffect n).slot q = s.slot q) ∧
      (∀ q : Nat, (s.playStopEffect n).row q = s.row q) := by
  simp only [State.playStopEffect]
  simp [State.live, State.lr, State.slot, State.row]

@[simp] theorem State.playStopNow_frame (n : StreamId) :
    (s.playStopNow n).pending = s.pending ∧ (s.playStopNow n).clock = s.clock ∧
      (s.playStopNow n).powered = s.powered ∧ (s.playStopNow n).hrst = s.hrst ∧ (s.playStopNow n).rat = s.rat ∧
      (s.playStopNow n).rfe = s.rfe ∧ (s.playStopNow n).sst = s.sst ∧ (s.playStopNow n).live = s.live ∧
      (∀ q : SlotId, (s.playStopNow n).slot q = s.slot q) ∧ (∀ q : Nat, (s.playStopNow n).row q = s.row q) := by
  simp only [State.playStopNow]
  (repeat' split) <;> simp [State.live, State.lr, State.str, State.slot, State.row]

@[simp] theorem State.playRefill_frame (n : StreamId) :
    (s.playRefill n).pending = s.pending ∧ (s.playRefill n).clock = s.clock ∧
      (s.playRefill n).powered = s.powered ∧ (s.playRefill n).hrst = s.hrst ∧ (s.playRefill n).rat = s.rat ∧
      (s.playRefill n).rfe = s.rfe ∧ (s.playRefill n).sst = s.sst ∧ (s.playRefill n).rqe = s.rqe ∧
      (s.playRefill n).live = s.live ∧ (∀ q : SlotId, (s.playRefill n).slot q = s.slot q) ∧
      (∀ q : Nat, (s.playRefill n).row q = s.row q) := by
  simp only [State.playRefill]
  (repeat' split) <;> simp [State.live, State.slot, State.row]

@[simp] theorem State.playAfterEnd_frame (n : StreamId) :
    (s.playAfterEnd n).pending = s.pending ∧ (s.playAfterEnd n).clock = s.clock ∧
      (s.playAfterEnd n).powered = s.powered ∧ (s.playAfterEnd n).hrst = s.hrst ∧
      (s.playAfterEnd n).rat = s.rat ∧ (s.playAfterEnd n).rfe = s.rfe ∧ (s.playAfterEnd n).sst = s.sst ∧
      (s.playAfterEnd n).live = s.live ∧ (∀ q : SlotId, (s.playAfterEnd n).slot q = s.slot q) ∧
      (∀ q : Nat, (s.playAfterEnd n).row q = s.row q) := by
  simp only [State.playAfterEnd]
  (repeat' split) <;> simp [State.live, State.slot, State.row]

@[simp] theorem State.playAfterDrop_frame (n : StreamId) :
    (s.playAfterDrop n).pending = s.pending ∧ (s.playAfterDrop n).clock = s.clock ∧
      (s.playAfterDrop n).powered = s.powered ∧ (s.playAfterDrop n).hrst = s.hrst ∧
      (s.playAfterDrop n).rat = s.rat ∧ (s.playAfterDrop n).rfe = s.rfe ∧ (s.playAfterDrop n).sst = s.sst ∧
      (s.playAfterDrop n).live = s.live ∧ (∀ q : SlotId, (s.playAfterDrop n).slot q = s.slot q) ∧
      (∀ q : Nat, (s.playAfterDrop n).row q = s.row q) := by
  simp only [State.playAfterDrop]
  (repeat' split) <;> simp [State.live, State.slot, State.row]

@[simp] theorem State.playRead_frame (n : StreamId) (r : LrId) (g : Segment) :
    (s.playRead n r g).pending = s.pending ∧ (s.playRead n r g).clock = s.clock ∧
      (s.playRead n r g).powered = s.powered ∧ (s.playRead n r g).hrst = s.hrst ∧
      (s.playRead n r g).rat = s.rat ∧ (s.playRead n r g).rfe = s.rfe ∧ (s.playRead n r g).sst = s.sst ∧
      (s.playRead n r g).live = s.live ∧ (∀ q : SlotId, (s.playRead n r g).slot q = s.slot q) ∧
      (∀ q : Nat, (s.playRead n r g).row q = s.row q) := by
  simp only [State.playRead]
  (repeat' split) <;> simp [State.live, State.lr, State.slot, State.row]

@[simp] theorem State.playDrop_frame (n : StreamId) (r : LrId) (g : Segment) :
    (s.playDrop n r g).pending = s.pending ∧ (s.playDrop n r g).clock = s.clock ∧
      (s.playDrop n r g).powered = s.powered ∧ (s.playDrop n r g).hrst = s.hrst ∧
      (s.playDrop n r g).rat = s.rat ∧ (s.playDrop n r g).rfe = s.rfe ∧ (s.playDrop n r g).sst = s.sst ∧
      (s.playDrop n r g).live = s.live ∧ (∀ q : SlotId, (s.playDrop n r g).slot q = s.slot q) ∧
      (∀ q : Nat, (s.playDrop n r g).row q = s.row q) := by
  simp only [State.playDrop]
  simp [State.live, State.str, State.slot, State.row]

@[simp] theorem State.playStarved_frame (n : StreamId) (r : LrId) (g : Segment) :
    (s.playStarved n r g).pending = s.pending ∧ (s.playStarved n r g).clock = s.clock ∧
      (s.playStarved n r g).powered = s.powered ∧ (s.playStarved n r g).hrst = s.hrst ∧
      (s.playStarved n r g).rat = s.rat ∧ (s.playStarved n r g).rfe = s.rfe ∧
      (s.playStarved n r g).sst = s.sst ∧ (s.playStarved n r g).live = s.live ∧
      (∀ q : SlotId, (s.playStarved n r g).slot q = s.slot q) ∧
      (∀ q : Nat, (s.playStarved n r g).row q = s.row q) := by
  simp only [State.playStarved]
  (repeat' split) <;> simp [State.live, State.slot, State.row]

@[simp] theorem State.playEdge_frame (n : StreamId) :
    (s.playEdge n).pending = s.pending ∧ (s.playEdge n).clock = s.clock ∧ (s.playEdge n).powered = s.powered ∧
      (s.playEdge n).hrst = s.hrst ∧ (s.playEdge n).rat = s.rat ∧ (s.playEdge n).rfe = s.rfe ∧
      (s.playEdge n).sst = s.sst ∧ (s.playEdge n).live = s.live ∧
      (∀ q : SlotId, (s.playEdge n).slot q = s.slot q) ∧ (∀ q : Nat, (s.playEdge n).row q = s.row q) := by
  simp only [State.playEdge]
  (repeat' split) <;> simp [State.live, State.slot, State.row]

@[simp] theorem State.reportLoss_frame (n : StreamId) (r : LrId) (row : Nat) :
    (s.reportLoss n r row).pending = s.pending ∧ (s.reportLoss n r row).clock = s.clock ∧
      (s.reportLoss n r row).powered = s.powered ∧ (s.reportLoss n r row).hrst = s.hrst ∧
      (s.reportLoss n r row).rat = s.rat ∧ (s.reportLoss n r row).rfe = s.rfe ∧
      (s.reportLoss n r row).arb = s.arb ∧ (s.reportLoss n r row).lrb = s.lrb ∧
      (s.reportLoss n r row).sst = s.sst ∧ (s.reportLoss n r row).rqe = s.rqe ∧
      (s.reportLoss n r row).live = s.live ∧ (∀ q : LrId, (s.reportLoss n r row).lr q = s.lr q) ∧
      (∀ q : SlotId, (s.reportLoss n r row).slot q = s.slot q) ∧
      (∀ q : Nat, (s.reportLoss n r row).row q = s.row q) := by
  simp only [State.reportLoss]
  (repeat' split) <;> simp [State.live, State.lr, State.slot, State.row]

@[simp] theorem State.playResume_frame (n : StreamId) (row : Nat) :
    (s.playResume n row).pending = s.pending ∧ (s.playResume n row).clock = s.clock ∧
      (s.playResume n row).powered = s.powered ∧ (s.playResume n row).hrst = s.hrst ∧
      (s.playResume n row).rat = s.rat ∧ (s.playResume n row).rfe = s.rfe ∧ (s.playResume n row).arb = s.arb ∧
      (s.playResume n row).lrb = s.lrb ∧ (s.playResume n row).sst = s.sst ∧ (s.playResume n row).rqe = s.rqe ∧
      (s.playResume n row).live = s.live ∧ (∀ q : LrId, (s.playResume n row).lr q = s.lr q) ∧
      (∀ q : SlotId, (s.playResume n row).slot q = s.slot q) ∧ (∀ q : Nat, (s.playResume n row).row q = s.row q) := by
  simp only [State.playResume]
  simp [State.live, State.lr, State.str, State.slot, State.row]

@[simp] theorem State.playLoaded_frame (n : StreamId) (r : LrId) (g : Segment) (b : Bool) :
    (s.playLoaded n r g b).pending = s.pending ∧ (s.playLoaded n r g b).clock = s.clock ∧
      (s.playLoaded n r g b).powered = s.powered ∧ (s.playLoaded n r g b).hrst = s.hrst ∧
      (s.playLoaded n r g b).rat = s.rat ∧ (s.playLoaded n r g b).rfe = s.rfe ∧
      (s.playLoaded n r g b).arb = s.arb ∧ (s.playLoaded n r g b).lrb = s.lrb ∧
      (s.playLoaded n r g b).sst = s.sst ∧ (s.playLoaded n r g b).rqe = s.rqe ∧
      (s.playLoaded n r g b).live = s.live ∧ (∀ q : LrId, (s.playLoaded n r g b).lr q = s.lr q) ∧
      (∀ q : SlotId, (s.playLoaded n r g b).slot q = s.slot q) ∧
      (∀ q : Nat, (s.playLoaded n r g b).row q = s.row q) := by
  simp only [State.playLoaded]
  (repeat' split) <;> simp [State.live, State.lr, State.slot, State.row]

@[simp] theorem State.playExpiry_frame (n : StreamId) (r : LrId) (g : Segment) :
    (s.playExpiry n r g).pending = s.pending ∧ (s.playExpiry n r g).clock = s.clock ∧
      (s.playExpiry n r g).powered = s.powered ∧ (s.playExpiry n r g).hrst = s.hrst ∧
      (s.playExpiry n r g).rat = s.rat ∧ (s.playExpiry n r g).rfe = s.rfe ∧ (s.playExpiry n r g).sst = s.sst ∧
      (s.playExpiry n r g).rqe = s.rqe ∧ (s.playExpiry n r g).hlc = s.hlc ∧ (s.playExpiry n r g).ntu = s.ntu ∧
      (s.playExpiry n r g).live = s.live ∧ (∀ q : SlotId, (s.playExpiry n r g).slot q = s.slot q) ∧
      (∀ q : Nat, (s.playExpiry n r g).row q = s.row q) := by
  simp only [State.playExpiry]
  (repeat' split) <;> simp [State.live, State.slot, State.row]

@[simp] theorem State.capTake_frame (n : StreamId) :
    (s.capTake n).pending = s.pending ∧ (s.capTake n).clock = s.clock ∧ (s.capTake n).powered = s.powered ∧
      (s.capTake n).hrst = s.hrst ∧ (s.capTake n).rat = s.rat ∧ (s.capTake n).rfe = s.rfe ∧
      (s.capTake n).arb = s.arb ∧ (s.capTake n).sst = s.sst ∧ (s.capTake n).rqe = s.rqe ∧
      (s.capTake n).hlc = s.hlc ∧ (s.capTake n).ntu = s.ntu ∧ (s.capTake n).live = s.live ∧
      (∀ q : SlotId, (s.capTake n).slot q = s.slot q) ∧ (∀ q : Nat, (s.capTake n).row q = s.row q) := by
  simp only [State.capTake]
  (repeat' split) <;> simp [State.live, State.slot, State.row]

@[simp] theorem State.releaseCopies_frame (n : StreamId) :
    (s.releaseCopies n).pending = s.pending ∧ (s.releaseCopies n).clock = s.clock ∧
      (s.releaseCopies n).powered = s.powered ∧ (s.releaseCopies n).hrst = s.hrst ∧
      (s.releaseCopies n).rat = s.rat ∧ (s.releaseCopies n).rfe = s.rfe ∧ (s.releaseCopies n).arb = s.arb ∧
      (s.releaseCopies n).lrb = s.lrb ∧ (s.releaseCopies n).sst = s.sst ∧ (s.releaseCopies n).rqe = s.rqe ∧
      (s.releaseCopies n).hlc = s.hlc ∧ (s.releaseCopies n).ntu = s.ntu ∧ (s.releaseCopies n).live = s.live ∧
      (∀ q : LrId, (s.releaseCopies n).lr q = s.lr q) ∧ (∀ q : SlotId, (s.releaseCopies n).slot q = s.slot q) ∧
      (∀ q : Nat, (s.releaseCopies n).row q = s.row q) := by
  simp only [State.releaseCopies]
  simp [State.live, State.lr, State.slot, State.row]

@[simp] theorem State.capFinish_frame (n : StreamId) (t : Taken) :
    (s.capFinish n t).pending = s.pending ∧ (s.capFinish n t).clock = s.clock ∧
      (s.capFinish n t).powered = s.powered ∧ (s.capFinish n t).hrst = s.hrst ∧ (s.capFinish n t).rat = s.rat ∧
      (s.capFinish n t).rfe = s.rfe ∧ (s.capFinish n t).arb = s.arb ∧ (s.capFinish n t).lrb = s.lrb ∧
      (s.capFinish n t).sst = s.sst ∧ (s.capFinish n t).rqe = s.rqe ∧ (s.capFinish n t).hlc = s.hlc ∧
      (s.capFinish n t).ntu = s.ntu ∧ (s.capFinish n t).live = s.live ∧
      (∀ q : LrId, (s.capFinish n t).lr q = s.lr q) ∧ (∀ q : SlotId, (s.capFinish n t).slot q = s.slot q) ∧
      (∀ q : Nat, (s.capFinish n t).row q = s.row q) := by
  simp only [State.capFinish]
  (repeat' split) <;> simp [State.live, State.lr, State.slot, State.row]

@[simp] theorem State.capAbandonCount_frame (n : StreamId) (c : Nat) :
    (s.capAbandonCount n c).pending = s.pending ∧ (s.capAbandonCount n c).clock = s.clock ∧
      (s.capAbandonCount n c).powered = s.powered ∧ (s.capAbandonCount n c).hrst = s.hrst ∧
      (s.capAbandonCount n c).rat = s.rat ∧ (s.capAbandonCount n c).rfe = s.rfe ∧
      (s.capAbandonCount n c).arb = s.arb ∧ (s.capAbandonCount n c).lrb = s.lrb ∧
      (s.capAbandonCount n c).sst = s.sst ∧ (s.capAbandonCount n c).rqe = s.rqe ∧
      (s.capAbandonCount n c).hlc = s.hlc ∧ (s.capAbandonCount n c).ntu = s.ntu ∧
      (s.capAbandonCount n c).live = s.live ∧ (∀ q : LrId, (s.capAbandonCount n c).lr q = s.lr q) ∧
      (∀ q : SlotId, (s.capAbandonCount n c).slot q = s.slot q) ∧
      (∀ q : Nat, (s.capAbandonCount n c).row q = s.row q) := by
  simp only [State.capAbandonCount]
  simp [State.live, State.lr, State.slot, State.row]

@[simp] theorem State.capAbandonOverrun_frame (n : StreamId) (t : Taken) (c : Nat) :
    (s.capAbandonOverrun n t c).pending = s.pending ∧ (s.capAbandonOverrun n t c).clock = s.clock ∧
      (s.capAbandonOverrun n t c).powered = s.powered ∧ (s.capAbandonOverrun n t c).hrst = s.hrst ∧
      (s.capAbandonOverrun n t c).rat = s.rat ∧ (s.capAbandonOverrun n t c).rfe = s.rfe ∧
      (s.capAbandonOverrun n t c).arb = s.arb ∧ (s.capAbandonOverrun n t c).lrb = s.lrb ∧
      (s.capAbandonOverrun n t c).sst = s.sst ∧ (s.capAbandonOverrun n t c).rqe = s.rqe ∧
      (s.capAbandonOverrun n t c).live = s.live ∧ (∀ q : LrId, (s.capAbandonOverrun n t c).lr q = s.lr q) ∧
      (∀ q : SlotId, (s.capAbandonOverrun n t c).slot q = s.slot q) ∧
      (∀ q : Nat, (s.capAbandonOverrun n t c).row q = s.row q) := by
  simp only [State.capAbandonOverrun]
  simp [State.live, State.lr, State.slot, State.row]

@[simp] theorem State.raiseCommit_frame (r : LrId) (g : Segment) :
    (s.raiseCommit r g).pending = s.pending ∧ (s.raiseCommit r g).clock = s.clock ∧
      (s.raiseCommit r g).powered = s.powered ∧ (s.raiseCommit r g).hrst = s.hrst ∧
      (s.raiseCommit r g).rat = s.rat ∧ (s.raiseCommit r g).rfe = s.rfe ∧ (s.raiseCommit r g).lrb = s.lrb ∧
      (s.raiseCommit r g).ste = s.ste ∧ (s.raiseCommit r g).sst = s.sst ∧ (s.raiseCommit r g).rqe = s.rqe ∧
      (s.raiseCommit r g).hlc = s.hlc ∧ (s.raiseCommit r g).ntu = s.ntu ∧ (s.raiseCommit r g).live = s.live ∧
      (∀ q : LrId, (s.raiseCommit r g).lr q = s.lr q) ∧ (∀ q : StreamId, (s.raiseCommit r g).str q = s.str q) ∧
      (∀ q : SlotId, (s.raiseCommit r g).slot q = s.slot q) ∧ (∀ q : Nat, (s.raiseCommit r g).row q = s.row q) := by
  simp only [State.raiseCommit]
  simp [State.live, State.lr, State.str, State.slot, State.row]

@[simp] theorem State.capStopReceiving_frame (n : StreamId) (r : LrId) (g : Segment) :
    (s.capStopReceiving n r g).pending = s.pending ∧ (s.capStopReceiving n r g).clock = s.clock ∧
      (s.capStopReceiving n r g).powered = s.powered ∧ (s.capStopReceiving n r g).hrst = s.hrst ∧
      (s.capStopReceiving n r g).rat = s.rat ∧ (s.capStopReceiving n r g).rfe = s.rfe ∧
      (s.capStopReceiving n r g).sst = s.sst ∧ (s.capStopReceiving n r g).rqe = s.rqe ∧
      (s.capStopReceiving n r g).live = s.live ∧ (∀ q : SlotId, (s.capStopReceiving n r g).slot q = s.slot q) ∧
      (∀ q : Nat, (s.capStopReceiving n r g).row q = s.row q) := by
  simp only [State.capStopReceiving]
  (repeat' split) <;> simp [State.live, State.lr, State.slot, State.row]

@[simp] theorem State.capStopEffect_frame (n : StreamId) :
    (s.capStopEffect n).pending = s.pending ∧ (s.capStopEffect n).clock = s.clock ∧
      (s.capStopEffect n).powered = s.powered ∧ (s.capStopEffect n).hrst = s.hrst ∧
      (s.capStopEffect n).rat = s.rat ∧ (s.capStopEffect n).rfe = s.rfe ∧ (s.capStopEffect n).sst = s.sst ∧
      (s.capStopEffect n).live = s.live ∧ (∀ q : SlotId, (s.capStopEffect n).slot q = s.slot q) ∧
      (∀ q : Nat, (s.capStopEffect n).row q = s.row q) := by
  simp only [State.capStopEffect]
  (repeat' split) <;> simp [State.live, State.str, State.slot, State.row]

@[simp] theorem State.capRangeFull_frame (n : StreamId) :
    (s.capRangeFull n).pending = s.pending ∧ (s.capRangeFull n).clock = s.clock ∧
      (s.capRangeFull n).powered = s.powered ∧ (s.capRangeFull n).hrst = s.hrst ∧
      (s.capRangeFull n).rat = s.rat ∧ (s.capRangeFull n).rfe = s.rfe ∧ (s.capRangeFull n).sst = s.sst ∧
      (s.capRangeFull n).live = s.live ∧ (∀ q : SlotId, (s.capRangeFull n).slot q = s.slot q) ∧
      (∀ q : Nat, (s.capRangeFull n).row q = s.row q) := by
  simp only [State.capRangeFull]
  (repeat' split) <;> simp [State.live, State.slot, State.row]

@[simp] theorem State.capReceive_frame (n : StreamId) (r : LrId) (g : Segment) (cell : CellVal) :
    (s.capReceive n r g cell).pending = s.pending ∧ (s.capReceive n r g cell).clock = s.clock ∧
      (s.capReceive n r g cell).powered = s.powered ∧ (s.capReceive n r g cell).hrst = s.hrst ∧
      (s.capReceive n r g cell).rat = s.rat ∧ (s.capReceive n r g cell).rfe = s.rfe ∧
      (s.capReceive n r g cell).sst = s.sst ∧ (s.capReceive n r g cell).live = s.live ∧
      (∀ q : SlotId, (s.capReceive n r g cell).slot q = s.slot q) ∧
      (∀ q : Nat, (s.capReceive n r g cell).row q = s.row q) := by
  simp only [State.capReceive]
  (repeat' split) <;> simp [State.live, State.slot, State.row]

@[simp] theorem State.capDiscard_frame (n : StreamId) :
    (s.capDiscard n).pending = s.pending ∧ (s.capDiscard n).clock = s.clock ∧
      (s.capDiscard n).powered = s.powered ∧ (s.capDiscard n).hrst = s.hrst ∧ (s.capDiscard n).rat = s.rat ∧
      (s.capDiscard n).rfe = s.rfe ∧ (s.capDiscard n).arb = s.arb ∧ (s.capDiscard n).lrb = s.lrb ∧
      (s.capDiscard n).sst = s.sst ∧ (s.capDiscard n).rqe = s.rqe ∧ (s.capDiscard n).hlc = s.hlc ∧
      (s.capDiscard n).ntu = s.ntu ∧ (s.capDiscard n).live = s.live ∧
      (∀ q : LrId, (s.capDiscard n).lr q = s.lr q) ∧ (∀ q : SlotId, (s.capDiscard n).slot q = s.slot q) ∧
      (∀ q : Nat, (s.capDiscard n).row q = s.row q) := by
  simp only [State.capDiscard]
  simp [State.live, State.lr, State.slot, State.row]

@[simp] theorem State.capOverrunEnd_frame (n : StreamId) (t : Taken) :
    (s.capOverrunEnd n t).pending = s.pending ∧ (s.capOverrunEnd n t).clock = s.clock ∧
      (s.capOverrunEnd n t).powered = s.powered ∧ (s.capOverrunEnd n t).hrst = s.hrst ∧
      (s.capOverrunEnd n t).rat = s.rat ∧ (s.capOverrunEnd n t).rfe = s.rfe ∧
      (s.capOverrunEnd n t).arb = s.arb ∧ (s.capOverrunEnd n t).sst = s.sst ∧
      (s.capOverrunEnd n t).rqe = s.rqe ∧ (s.capOverrunEnd n t).live = s.live ∧
      (∀ q : SlotId, (s.capOverrunEnd n t).slot q = s.slot q) ∧
      (∀ q : Nat, (s.capOverrunEnd n t).row q = s.row q) := by
  simp only [State.capOverrunEnd]
  (repeat' split) <;> simp [State.live, State.slot, State.row]

@[simp] theorem State.capOverrunCount_frame (n : StreamId) (t : Taken) (b : Nat) :
    (s.capOverrunCount n t b).pending = s.pending ∧ (s.capOverrunCount n t b).clock = s.clock ∧
      (s.capOverrunCount n t b).powered = s.powered ∧ (s.capOverrunCount n t b).hrst = s.hrst ∧
      (s.capOverrunCount n t b).rat = s.rat ∧ (s.capOverrunCount n t b).rfe = s.rfe ∧
      (s.capOverrunCount n t b).arb = s.arb ∧ (s.capOverrunCount n t b).sst = s.sst ∧
      (s.capOverrunCount n t b).rqe = s.rqe ∧ (s.capOverrunCount n t b).live = s.live ∧
      (∀ q : SlotId, (s.capOverrunCount n t b).slot q = s.slot q) ∧
      (∀ q : Nat, (s.capOverrunCount n t b).row q = s.row q) := by
  simp only [State.capOverrunCount]
  (repeat' split) <;> simp [State.live, State.slot, State.row]

@[simp] theorem State.capOverrunTake_frame (n : StreamId) (g : Segment) (rest : List Segment) :
    (s.capOverrunTake n g rest).pending = s.pending ∧ (s.capOverrunTake n g rest).clock = s.clock ∧
      (s.capOverrunTake n g rest).powered = s.powered ∧ (s.capOverrunTake n g rest).hrst = s.hrst ∧
      (s.capOverrunTake n g rest).rat = s.rat ∧ (s.capOverrunTake n g rest).rfe = s.rfe ∧
      (s.capOverrunTake n g rest).arb = s.arb ∧ (s.capOverrunTake n g rest).sst = s.sst ∧
      (s.capOverrunTake n g rest).rqe = s.rqe ∧ (s.capOverrunTake n g rest).live = s.live ∧
      (∀ q : SlotId, (s.capOverrunTake n g rest).slot q = s.slot q) ∧
      (∀ q : Nat, (s.capOverrunTake n g rest).row q = s.row q) := by
  simp only [State.capOverrunTake]
  simp [State.live, State.str, State.slot, State.row]

@[simp] theorem State.capEdge_frame (n : StreamId) (cell : CellVal) :
    (s.capEdge n cell).pending = s.pending ∧ (s.capEdge n cell).clock = s.clock ∧
      (s.capEdge n cell).powered = s.powered ∧ (s.capEdge n cell).hrst = s.hrst ∧
      (s.capEdge n cell).rat = s.rat ∧ (s.capEdge n cell).rfe = s.rfe ∧ (s.capEdge n cell).sst = s.sst ∧
      (s.capEdge n cell).live = s.live ∧ (∀ q : SlotId, (s.capEdge n cell).slot q = s.slot q) ∧
      (∀ q : Nat, (s.capEdge n cell).row q = s.row q) := by
  simp only [State.capEdge]
  (repeat' split) <;> simp [State.live, State.str, State.slot, State.row]

@[simp] theorem State.capCommitted_frame (n : StreamId) (r : LrId) (x : LineReg) (g : Segment) :
    (s.capCommitted n r x g).pending = s.pending ∧ (s.capCommitted n r x g).clock = s.clock ∧
      (s.capCommitted n r x g).powered = s.powered ∧ (s.capCommitted n r x g).hrst = s.hrst ∧
      (s.capCommitted n r x g).rat = s.rat ∧ (s.capCommitted n r x g).rfe = s.rfe ∧
      (s.capCommitted n r x g).sst = s.sst ∧ (s.capCommitted n r x g).live = s.live ∧
      (∀ q : SlotId, (s.capCommitted n r x g).slot q = s.slot q) ∧
      (∀ q : Nat, (s.capCommitted n r x g).row q = s.row q) := by
  simp only [State.capCommitted]
  (repeat' split) <;> simp [State.live, State.slot, State.row]

@[simp] theorem State.capExpiry_frame (n : StreamId) (r : LrId) (g : Segment) :
    (s.capExpiry n r g).pending = s.pending ∧ (s.capExpiry n r g).clock = s.clock ∧
      (s.capExpiry n r g).powered = s.powered ∧ (s.capExpiry n r g).hrst = s.hrst ∧
      (s.capExpiry n r g).rat = s.rat ∧ (s.capExpiry n r g).rfe = s.rfe ∧ (s.capExpiry n r g).sst = s.sst ∧
      (s.capExpiry n r g).live = s.live ∧ (∀ q : SlotId, (s.capExpiry n r g).slot q = s.slot q) ∧
      (∀ q : Nat, (s.capExpiry n r g).row q = s.row q) := by
  simp only [State.capExpiry]
  (repeat' split) <;> simp [State.live, State.lr, State.slot, State.row]

@[simp] theorem State.startBurst_frame (k : SlotId) (row : Nat) (j : ColumnJob) :
    (s.startBurst k row j).pending = s.pending ∧ (s.startBurst k row j).clock = s.clock ∧
      (s.startBurst k row j).powered = s.powered ∧ (s.startBurst k row j).hrst = s.hrst ∧
      (s.startBurst k row j).rat = s.rat ∧ (s.startBurst k row j).rfe = s.rfe ∧
      (s.startBurst k row j).lrb = s.lrb ∧ (s.startBurst k row j).ste = s.ste ∧
      (s.startBurst k row j).sst = s.sst ∧ (s.startBurst k row j).hlc = s.hlc ∧
      (s.startBurst k row j).ntu = s.ntu ∧ (s.startBurst k row j).live = s.live ∧
      (∀ q : LrId, (s.startBurst k row j).lr q = s.lr q) ∧
      (∀ q : StreamId, (s.startBurst k row j).str q = s.str q) ∧
      (∀ q : SlotId, (s.startBurst k row j).slot q = s.slot q) ∧
      (∀ q : Nat, (s.startBurst k row j).row q = s.row q) := by
  simp only [State.startBurst]
  simp [State.live, State.lr, State.str, State.slot, State.row]

@[simp] theorem State.raiseReopen_frame (k : SlotId) (j : ColumnJob) :
    (s.raiseReopen k j).pending = s.pending ∧ (s.raiseReopen k j).clock = s.clock ∧
      (s.raiseReopen k j).powered = s.powered ∧ (s.raiseReopen k j).hrst = s.hrst ∧
      (s.raiseReopen k j).rat = s.rat ∧ (s.raiseReopen k j).rfe = s.rfe ∧ (s.raiseReopen k j).lrb = s.lrb ∧
      (s.raiseReopen k j).ste = s.ste ∧ (s.raiseReopen k j).sst = s.sst ∧ (s.raiseReopen k j).hlc = s.hlc ∧
      (s.raiseReopen k j).ntu = s.ntu ∧ (s.raiseReopen k j).live = s.live ∧
      (∀ q : LrId, (s.raiseReopen k j).lr q = s.lr q) ∧ (∀ q : StreamId, (s.raiseReopen k j).str q = s.str q) ∧
      (∀ q : SlotId, (s.raiseReopen k j).slot q = s.slot q) ∧ (∀ q : Nat, (s.raiseReopen k j).row q = s.row q) := by
  simp only [State.raiseReopen]
  simp [State.live, State.lr, State.str, State.slot, State.row]

@[simp] theorem State.applyBurst_frame (row : Nat) (j : ColumnJob) :
    (s.applyBurst row j).pending = s.pending ∧ (s.applyBurst row j).clock = s.clock ∧
      (s.applyBurst row j).powered = s.powered ∧ (s.applyBurst row j).hrst = s.hrst ∧
      (s.applyBurst row j).rfe = s.rfe ∧ (s.applyBurst row j).arb = s.arb ∧ (s.applyBurst row j).lrb = s.lrb ∧
      (s.applyBurst row j).ste = s.ste ∧ (s.applyBurst row j).sst = s.sst ∧ (s.applyBurst row j).rqe = s.rqe ∧
      (s.applyBurst row j).hlc = s.hlc ∧ (s.applyBurst row j).ntu = s.ntu ∧
      (s.applyBurst row j).live = s.live ∧ (∀ q : LrId, (s.applyBurst row j).lr q = s.lr q) ∧
      (∀ q : StreamId, (s.applyBurst row j).str q = s.str q) ∧
      (∀ q : SlotId, (s.applyBurst row j).slot q = s.slot q) := by
  simp only [State.applyBurst]
  (repeat' split) <;> simp [State.live, State.lr, State.str, State.slot]

@[simp] theorem State.startCopy_frame (j : CopyJob) :
    (s.startCopy j).pending = s.pending ∧ (s.startCopy j).clock = s.clock ∧
      (s.startCopy j).powered = s.powered ∧ (s.startCopy j).hrst = s.hrst ∧ (s.startCopy j).rat = s.rat ∧
      (s.startCopy j).rfe = s.rfe ∧ (s.startCopy j).ste = s.ste ∧ (s.startCopy j).sst = s.sst ∧
      (s.startCopy j).hlc = s.hlc ∧ (s.startCopy j).ntu = s.ntu ∧ (s.startCopy j).live = s.live ∧
      (∀ q : StreamId, (s.startCopy j).str q = s.str q) ∧ (∀ q : SlotId, (s.startCopy j).slot q = s.slot q) ∧
      (∀ q : Nat, (s.startCopy j).row q = s.row q) := by
  simp only [State.startCopy]
  simp [State.live, State.str, State.slot, State.row]

@[simp] theorem State.lr4Discarded_frame :
    s.lr4Discarded.pending = s.pending ∧ s.lr4Discarded.clock = s.clock ∧ s.lr4Discarded.powered = s.powered ∧
      s.lr4Discarded.hrst = s.hrst ∧ s.lr4Discarded.rat = s.rat ∧ s.lr4Discarded.rfe = s.rfe ∧
      s.lr4Discarded.ste = s.ste ∧ s.lr4Discarded.sst = s.sst ∧ s.lr4Discarded.hlc = s.hlc ∧
      s.lr4Discarded.ntu = s.ntu ∧ s.lr4Discarded.live = s.live ∧
      (∀ q : StreamId, s.lr4Discarded.str q = s.str q) ∧ (∀ q : SlotId, s.lr4Discarded.slot q = s.slot q) ∧
      (∀ q : Nat, s.lr4Discarded.row q = s.row q) := by
  simp only [State.lr4Discarded]
  (repeat' split) <;> simp [State.live, State.str, State.slot, State.row]

@[simp] theorem State.streamTakes_frame (n : StreamId) :
    (s.streamTakes n).pending = s.pending ∧ (s.streamTakes n).clock = s.clock ∧
      (s.streamTakes n).powered = s.powered ∧ (s.streamTakes n).hrst = s.hrst ∧ (s.streamTakes n).rat = s.rat ∧
      (s.streamTakes n).rfe = s.rfe ∧ (s.streamTakes n).sst = s.sst ∧ (s.streamTakes n).rqe = s.rqe ∧
      (s.streamTakes n).hlc = s.hlc ∧ (s.streamTakes n).ntu = s.ntu ∧ (s.streamTakes n).live = s.live ∧
      (∀ q : SlotId, (s.streamTakes n).slot q = s.slot q) ∧ (∀ q : Nat, (s.streamTakes n).row q = s.row q) := by
  simp only [State.streamTakes]
  (repeat' split) <;> simp [State.live, State.slot, State.row]

@[simp] theorem State.regDiscarded_frame (n : StreamId) (r : LrId) :
    (s.regDiscarded n r).pending = s.pending ∧ (s.regDiscarded n r).clock = s.clock ∧
      (s.regDiscarded n r).powered = s.powered ∧ (s.regDiscarded n r).hrst = s.hrst ∧
      (s.regDiscarded n r).rat = s.rat ∧ (s.regDiscarded n r).rfe = s.rfe ∧ (s.regDiscarded n r).sst = s.sst ∧
      (s.regDiscarded n r).live = s.live ∧ (∀ q : SlotId, (s.regDiscarded n r).slot q = s.slot q) ∧
      (∀ q : Nat, (s.regDiscarded n r).row q = s.row q) := by
  simp only [State.regDiscarded]
  simp [State.live, State.slot, State.row]

@[simp] theorem State.initDone_frame (row : Nat) :
    (s.initDone row).pending = s.pending ∧ (s.initDone row).clock = s.clock ∧
      (s.initDone row).powered = s.powered ∧ (s.initDone row).hrst = s.hrst ∧ (s.initDone row).rfe = s.rfe ∧
      (s.initDone row).arb = s.arb ∧ (s.initDone row).lrb = s.lrb ∧ (s.initDone row).ste = s.ste ∧
      (s.initDone row).sst = s.sst ∧ (s.initDone row).rqe = s.rqe ∧ (s.initDone row).live = s.live ∧
      (∀ q : LrId, (s.initDone row).lr q = s.lr q) ∧ (∀ q : StreamId, (s.initDone row).str q = s.str q) ∧
      (∀ q : SlotId, (s.initDone row).slot q = s.slot q) := by
  simp only [State.initDone]
  (repeat' split) <;> simp [State.live, State.lr, State.str, State.slot]

@[simp] theorem State.reopen_frame (k : SlotId) (j : ColumnJob) (tie : TieOrder) :
    (s.reopen k j tie).pending = s.pending ∧ (s.reopen k j tie).clock = s.clock ∧
      (s.reopen k j tie).powered = s.powered ∧ (s.reopen k j tie).hrst = s.hrst ∧
      (s.reopen k j tie).rat = s.rat ∧ (s.reopen k j tie).rfe = s.rfe ∧ (s.reopen k j tie).ste = s.ste ∧
      (s.reopen k j tie).hlc = s.hlc ∧ (s.reopen k j tie).ntu = s.ntu ∧ (s.reopen k j tie).live = s.live ∧
      (∀ q : StreamId, (s.reopen k j tie).str q = s.str q) ∧ (∀ q : Nat, (s.reopen k j tie).row q = s.row q) := by
  simp only [State.reopen]
  (repeat' split) <;> simp [State.live, State.str, State.row]

@[simp] theorem State.columnRequest_frame (f : ColumnFields) (tie : TieOrder) :
    (s.columnRequest f tie).pending = s.pending ∧ (s.columnRequest f tie).clock = s.clock ∧
      (s.columnRequest f tie).powered = s.powered ∧ (s.columnRequest f tie).hrst = s.hrst ∧
      (s.columnRequest f tie).rat = s.rat ∧ (s.columnRequest f tie).rfe = s.rfe ∧
      (s.columnRequest f tie).ste = s.ste ∧ (s.columnRequest f tie).ntu = s.ntu ∧
      (s.columnRequest f tie).live = s.live ∧ (∀ q : StreamId, (s.columnRequest f tie).str q = s.str q) ∧
      (∀ q : Nat, (s.columnRequest f tie).row q = s.row q) := by
  simp only [State.columnRequest]
  (repeat' split) <;> simp [State.live, State.str, State.row]

@[simp] theorem State.appendSegments_frame (n : StreamId) (gs : List Segment) :
    (s.appendSegments n gs).pending = s.pending ∧ (s.appendSegments n gs).clock = s.clock ∧
      (s.appendSegments n gs).powered = s.powered ∧ (s.appendSegments n gs).hrst = s.hrst ∧
      (s.appendSegments n gs).rat = s.rat ∧ (s.appendSegments n gs).rfe = s.rfe ∧
      (s.appendSegments n gs).sst = s.sst ∧ (s.appendSegments n gs).rqe = s.rqe ∧
      (s.appendSegments n gs).hlc = s.hlc ∧ (s.appendSegments n gs).ntu = s.ntu ∧
      (s.appendSegments n gs).live = s.live ∧ (∀ q : SlotId, (s.appendSegments n gs).slot q = s.slot q) ∧
      (∀ q : Nat, (s.appendSegments n gs).row q = s.row q) := by
  simp only [State.appendSegments]
  (repeat' split) <;> simp [State.live, State.slot, State.row]

@[simp] theorem State.startStream_frame (n : StreamId) :
    (s.startStream n).pending = s.pending ∧ (s.startStream n).clock = s.clock ∧
      (s.startStream n).powered = s.powered ∧ (s.startStream n).hrst = s.hrst ∧ (s.startStream n).rat = s.rat ∧
      (s.startStream n).rfe = s.rfe ∧ (s.startStream n).sst = s.sst ∧ (s.startStream n).rqe = s.rqe ∧
      (s.startStream n).hlc = s.hlc ∧ (s.startStream n).ntu = s.ntu ∧ (s.startStream n).live = s.live ∧
      (∀ q : SlotId, (s.startStream n).slot q = s.slot q) ∧ (∀ q : Nat, (s.startStream n).row q = s.row q) := by
  simp only [State.startStream]
  (repeat' split) <;> simp [State.live, State.slot, State.row]

@[simp] theorem State.stopStream_frame (n : StreamId) (k : StopKind) :
    (s.stopStream n k).pending = s.pending ∧ (s.stopStream n k).clock = s.clock ∧
      (s.stopStream n k).powered = s.powered ∧ (s.stopStream n k).hrst = s.hrst ∧
      (s.stopStream n k).rat = s.rat ∧ (s.stopStream n k).rfe = s.rfe ∧ (s.stopStream n k).sst = s.sst ∧
      (s.stopStream n k).live = s.live ∧ (∀ q : SlotId, (s.stopStream n k).slot q = s.slot q) ∧
      (∀ q : Nat, (s.stopStream n k).row q = s.row q) := by
  simp only [State.stopStream]
  (repeat' split) <;> simp [State.live, State.slot, State.row]

end Sys2Proof.Machine
end

