-- ==== Sys2Proof/Laws/Arbiter.lean ====
section
/-! SUPPORT. What the arbiter can do: a grant, a close of the held row, and the arbiter's acts at the end of an event. -/

namespace Sys2Proof.Machine

variable (s : State)

/-! ## The choice of a grant -/

theorem oldestClaim_mem {order : List Nat} {cs : List Claim} {c : Claim} (h : oldestClaim order cs = some c) :
    c ∈ cs := by
  induction order with
  | nil => simp [oldestClaim] at h
  | cons r rs ih =>
    unfold oldestClaim at h
    split at h
    · rename_i d hd
      cases h
      exact List.mem_of_find?_eq_some hd
    · exact ih h

theorem State.earliestTaken_mem {cs : List Claim} {c : Claim} (h : s.earliestTaken cs = some c) : c ∈ cs := by
  induction cs generalizing c with
  | nil => simp [State.earliestTaken] at h
  | cons d ds ih =>
    unfold State.earliestTaken at h
    split at h
    · cases h; exact List.mem_cons_self ..
    · rename_i e he
      split at h <;> cases h
      · exact List.mem_cons_self ..
      · exact List.mem_cons_of_mem _ (ih he)

theorem State.chooseStream_mem {cs : List Claim} {c : Claim} (h : s.chooseStream cs = some c) : c ∈ cs := by
  simp only [State.chooseStream] at h
  split at h <;> exact List.mem_of_mem_filter (s.earliestTaken_mem h)

/-- A grant decision takes a pending, grantable claim (R43). -/
theorem State.chooseGrant_mem {c : Claim} (h : s.chooseGrant = some c) : c ∈ s.arb.claims ∧ s.grantable c = true := by
  have key : ∀ k, c ∈ s.grantableOf k → c ∈ s.arb.claims ∧ s.grantable c = true := by
    intro k hk
    simp only [State.grantableOf, List.mem_filter, Bool.and_eq_true] at hk
    exact ⟨hk.1, hk.2.2⟩
  simp only [State.chooseGrant, Option.or_eq_some_iff] at h
  obtain h | ⟨_, h | ⟨_, h | ⟨_, h | ⟨_, h⟩⟩⟩⟩ := h
  · exact key _ (oldestClaim_mem h)
  · exact key _ (s.chooseStream_mem h)
  · exact key _ (oldestClaim_mem h)
  · exact key _ (List.mem_of_head? h)
  · exact key _ (List.mem_of_head? h)

/-- With no claim pending nothing is granted. -/
theorem State.chooseGrant_nil (h : s.arb.claims = []) : s.chooseGrant = none := by
  cases hc : s.chooseGrant with
  | none => rfl
  | some c => simpa [h] using (s.chooseGrant_mem hc).1

/-! ## Claims held -/

theorem State.holdsClaim_iff (p : Claim → Bool) :
    s.holdsClaim p = true ↔ (∃ c ∈ s.arb.claims, p c = true) ∨ ∃ op, s.inFlight = some op ∧ p op.claim = true := by
  unfold State.holdsClaim
  cases s.inFlight <;> simp

theorem State.inFlight_eq_some {op : Operation} : s.inFlight = some op ↔ s.arb.circuit = .operating op := by
  unfold State.inFlight
  split <;> simp_all

/-! ## A grant -/

/-- A grant takes the claim out, puts its operation in flight, and passes its register, if it has one, to LOADING or
COMMITTING (R46). -/
theorem State.grant_spec (c : Claim) :
    (s.grant c).arb.circuit = .operating (s.operationOf c) ∧ (s.grant c).arb.claims = s.arb.claims.erase c
      ∧ (∀ r, (s.grant c).lr r = if c.register? = some r then (s.lr r).granted c.kind else s.lr r) := by
  simp only [State.grant]
  refine ⟨?_, ?_, ?_⟩
  · cases c.register? <;> simp
  · cases c.register? <;> simp
  · intro r
    cases hq : c.register? with
    | none => simp; rfl
    | some q =>
      by_cases hr : r = q
      · subst hr; simp
      · simp [State.lr_setLr, hr, Ne.symm hr]; rfl

/-- The passing of a grant changes a register's state and hold timer only. -/
theorem LineReg.granted_spec (x : LineReg) (k : ClaimKind) :
    x.granted k = { x with state := (x.granted k).state, holdTimer := (x.granted k).holdTimer } := by
  unfold LineReg.granted
  split <;> rfl

theorem State.operationOf_claim (c : Claim) : (s.operationOf c).claim = c := rfl

/-- The arbiter's acts at the end of an event: nothing; or, from FREE or from HELD, a close of the held row and a grant
(R43, R48, R49). -/
theorem State.settle_cases :
    s.settle = s
      ∨ (s.arb.circuit = .free ∨ ∃ k row, s.arb.circuit = .held k row)
        ∧ (s.settle = s.closeHeld ∨ ∃ c ∈ s.arb.claims, s.settle = s.closeHeld.grant c) := by
  have hd : ∀ t : State, t.grantDecision = t ∨ ∃ c ∈ t.arb.claims, t.grantDecision = t.grant c := by
    intro t
    unfold State.grantDecision
    split
    · rename_i c hc; exact .inr ⟨c, (t.chooseGrant_mem hc).1, rfl⟩
    · exact .inl rfl
  unfold State.settle
  split
  · rename_i hf
    have hc : s.closeHeld = s := by unfold State.closeHeld; simp [hf]
    obtain h | ⟨c, h, e⟩ := hd s
    · exact .inl h
    · exact .inr ⟨.inl hf, .inr ⟨c, h, by rw [hc]; exact e⟩⟩
  · rename_i k row hf
    split
    · have hc : s.closeHeld.arb.claims = s.arb.claims := by unfold State.closeHeld; simp [hf]
      obtain h | ⟨c, h, e⟩ := hd s.closeHeld
      · exact .inr ⟨.inr ⟨k, row, hf⟩, .inl h⟩
      · exact .inr ⟨.inr ⟨k, row, hf⟩, .inr ⟨c, hc ▸ h, e⟩⟩
    · exact .inl rfl
  · exact .inl rfl

/-! ## Closing the held row -/

@[simp] theorem State.closeHeld_claims : s.closeHeld.arb.claims = s.arb.claims := by
  unfold State.closeHeld; split <;> simp

@[simp] theorem State.closeHeld_preferred : s.closeHeld.arb.preferred = s.arb.preferred := by
  unfold State.closeHeld; split <;> simp

@[simp] theorem State.closeHeld_inFlight : s.closeHeld.inFlight = s.inFlight := by
  unfold State.closeHeld; split <;> simp_all [State.inFlight]

theorem State.closeHeld_circuit :
    s.closeHeld.arb.circuit = match s.arb.circuit with
      | .held _ _ => .free
      | c => c := by
  unfold State.closeHeld; split
  · simp [*]
  · rename_i h
    cases hc : s.arb.circuit <;> simp_all

theorem State.closeHeld_not_held (k : SlotId) (row : Nat) : s.closeHeld.arb.circuit ≠ .held k row := by
  rw [State.closeHeld_circuit]; split <;> simp_all

/-- A close parks the held session, and changes no slot else (R48). -/
theorem State.closeHeld_slot (k : SlotId) :
    s.closeHeld.slot k = { s.slot k with state := (s.closeHeld.slot k).state } := by
  unfold State.closeHeld
  split
  · rename_i q row hc
    by_cases hk : k = q
    · subst hk; simp [State.park]
    · simp [State.park, hk, State.slot_setSlot]
  · rfl

theorem State.closeHeld_slot_held {k : SlotId} {row : Nat} (h : s.arb.circuit = .held k row) :
    (s.closeHeld.slot k).state = .parked := by
  unfold State.closeHeld; simp [h, State.park]

theorem State.closeHeld_slot_other {k : SlotId} (h : ∀ row, s.arb.circuit ≠ .held k row) :
    s.closeHeld.slot k = s.slot k := by
  unfold State.closeHeld
  split
  · rename_i q row hc
    have hk : k ≠ q := by rintro rfl; exact h _ hc
    simp [State.park, hk, State.slot_setSlot]
  · rfl

/-! ## The end of an event -/

theorem State.closeHeld_operating {op : Operation} (h : s.arb.circuit = .operating op) : s.closeHeld = s := by
  unfold State.closeHeld; simp [h]

/-- At the end of an event a register keeps all but its state and hold timer. -/
theorem State.settle_lr (r : LrId) :
    s.settle.lr r = { s.lr r with state := (s.settle.lr r).state, holdTimer := (s.settle.lr r).holdTimer } := by
  obtain h | ⟨_, h | ⟨c, _, h⟩⟩ := s.settle_cases
  · rw [h]
  · rw [h]; simp
  · rw [h, (State.grant_spec _ c).2.2]
    split
    · conv_lhs => rw [LineReg.granted_spec]
      simp
    · simp

/-- A register with no claim pending is unchanged. -/
theorem State.settle_lr_of_idle {r : LrId} (hr : s.claimPending r = false) : s.settle.lr r = s.lr r := by
  obtain h | ⟨_, h | ⟨c, hc, h⟩⟩ := s.settle_cases
  · rw [h]
  · rw [h]; simp
  · rw [h, (State.grant_spec _ c).2.2]
    simp only [State.claimPending, List.any_eq_false] at hr
    have := hr c hc
    simp only [Claim.isOf, beq_iff_eq] at this
    simp [this]

/-- A slot keeps all but OPEN or PARKED. -/
theorem State.settle_slot (k : SlotId) : s.settle.slot k = { s.slot k with state := (s.settle.slot k).state } := by
  obtain h | ⟨_, h | ⟨c, _, h⟩⟩ := s.settle_cases
  · rw [h]
  · rw [h, State.closeHeld_slot]
  · rw [h]; simpa using s.closeHeld_slot k

/-- The claims held, pending or in flight, are the same. -/
theorem State.settle_holdsClaim (p : Claim → Bool) : s.settle.holdsClaim p = s.holdsClaim p := by
  obtain h | ⟨hf, h | ⟨c, hc, h⟩⟩ := s.settle_cases
  · rw [h]
  · rw [h]; simp [State.holdsClaim]
  · have hn : s.inFlight = none := by
      obtain h | ⟨k, row, h⟩ := hf <;> simp [State.inFlight, h]
    rw [Bool.eq_iff_iff, State.holdsClaim_iff, State.holdsClaim_iff, h, (State.grant_spec _ c).2.1, hn]
    simp only [State.inFlight_eq_some, (State.grant_spec _ c).1, State.closeHeld_claims]
    constructor
    · rintro (⟨d, hd, hp⟩ | ⟨op, ho, hp⟩)
      · exact .inl ⟨d, List.mem_of_mem_erase hd, hp⟩
      · cases ho; exact .inl ⟨c, hc, hp⟩
    · rintro (⟨d, hd, hp⟩ | ⟨op, ho, _⟩)
      · by_cases hdc : d = c
        · subst hdc; exact .inr ⟨_, rfl, hp⟩
        · exact .inl ⟨d, (List.mem_erase_of_ne hdc).2 hd, hp⟩
      · simp at ho

theorem State.settle_claims_subset {c : Claim} (h : c ∈ s.settle.arb.claims) : c ∈ s.arb.claims := by
  obtain e | ⟨_, e | ⟨d, _, e⟩⟩ := s.settle_cases
  · rwa [e] at h
  · rw [e] at h; simpa using h
  · rw [e, (State.grant_spec _ d).2.1] at h; simpa using List.mem_of_mem_erase h

/-- An operation in flight, a burst and the warm-up go on. -/
theorem State.settle_busy (h : s.arb.circuit ≠ .free) (h' : ∀ k row, s.arb.circuit ≠ .held k row) : s.settle = s := by
  obtain e | ⟨hf | ⟨k, row, hf⟩, _⟩ := s.settle_cases
  · exact e
  · exact absurd hf h
  · exact absurd hf (h' k row)

/-- No row is held at the end of an event at which none was. -/
theorem State.settle_not_held (h : ∀ k row, s.arb.circuit ≠ .held k row) (k : SlotId) (row : Nat) :
    s.settle.arb.circuit ≠ .held k row := by
  obtain e | ⟨_, e | ⟨c, _, e⟩⟩ := s.settle_cases
  · rw [e]; exact h k row
  · rw [e]; exact s.closeHeld_not_held k row
  · rw [e, (State.grant_spec _ c).1]; simp

/-- A parked slot stays parked. -/
theorem State.closeHeld_parked {k : SlotId} (h : (s.slot k).state = .parked) :
    (s.closeHeld.slot k).state = .parked := by
  by_cases hh : ∃ row, s.arb.circuit = .held k row
  · obtain ⟨row, hh⟩ := hh
    exact s.closeHeld_slot_held hh
  · rw [s.closeHeld_slot_other (by simpa using hh)]
    exact h

theorem State.settle_parked {k : SlotId} (h : (s.slot k).state = .parked) : (s.settle.slot k).state = .parked := by
  obtain e | ⟨_, e | ⟨c, _, e⟩⟩ := s.settle_cases
  · rw [e]; exact h
  · rw [e]; exact s.closeHeld_parked h
  · rw [e]; simpa using s.closeHeld_parked h

/-! ## The end of a request (R47, R135, R163) -/

/-- At an event that can end a request the arbiter acts, on a held row or on none, or leaves all to the next request. -/
theorem State.conclude_cases (tie : TieOrder) :
    s.conclude tie = s ∧ s.keepsRow = false ∧ s.awaitsNext tie = true
      ∨ s.conclude tie = s.settle ∧ s.keepsRow = true
      ∨ s.conclude tie = s.closeHeld.settle ∧ s.keepsRow = false ∧ s.awaitsNext tie = false := by
  unfold State.conclude
  cases s.keepsRow <;> cases s.awaitsNext tie <;> simp

theorem State.conclude_lr (tie : TieOrder) (r : LrId) :
    (s.conclude tie).lr r
      = { s.lr r with state := ((s.conclude tie).lr r).state, holdTimer := ((s.conclude tie).lr r).holdTimer } := by
  obtain ⟨h, _⟩ | ⟨h, _⟩ | ⟨h, _⟩ := s.conclude_cases tie
  · rw [h]
  · rw [h]; exact s.settle_lr r
  · rw [h]; simpa using State.settle_lr s.closeHeld r

theorem State.conclude_lr_of_idle (tie : TieOrder) {r : LrId} (h : s.claimPending r = false) :
    (s.conclude tie).lr r = s.lr r := by
  obtain ⟨e, _⟩ | ⟨e, _⟩ | ⟨e, _⟩ := s.conclude_cases tie
  · rw [e]
  · rw [e]; exact s.settle_lr_of_idle h
  · rw [e, State.settle_lr_of_idle]
    · simp
    · simpa [State.claimPending] using h

theorem State.conclude_slot (tie : TieOrder) (k : SlotId) :
    (s.conclude tie).slot k = { s.slot k with state := ((s.conclude tie).slot k).state } := by
  obtain ⟨e, _⟩ | ⟨e, _⟩ | ⟨e, _⟩ := s.conclude_cases tie
  · rw [e]
  · rw [e]; exact s.settle_slot k
  · have h := State.settle_slot s.closeHeld k
    rw [State.closeHeld_slot] at h
    rw [e]
    simpa using h

theorem State.conclude_parked (tie : TieOrder) {k : SlotId} (h : (s.slot k).state = .parked) :
    ((s.conclude tie).slot k).state = .parked := by
  obtain ⟨e, _⟩ | ⟨e, _⟩ | ⟨e, _⟩ := s.conclude_cases tie
  · rw [e]; exact h
  · rw [e]; exact s.settle_parked h
  · rw [e]; exact State.settle_parked _ (s.closeHeld_parked h)

theorem State.conclude_holdsClaim (tie : TieOrder) (p : Claim → Bool) :
    (s.conclude tie).holdsClaim p = s.holdsClaim p := by
  obtain ⟨e, _⟩ | ⟨e, _⟩ | ⟨e, _⟩ := s.conclude_cases tie
  · rw [e]
  · rw [e]; exact s.settle_holdsClaim p
  · rw [e, State.settle_holdsClaim]; simp [State.holdsClaim]

theorem State.conclude_claims_subset (tie : TieOrder) {c : Claim} (h : c ∈ (s.conclude tie).arb.claims) :
    c ∈ s.arb.claims := by
  obtain ⟨e, _⟩ | ⟨e, _⟩ | ⟨e, _⟩ := s.conclude_cases tie
  · rwa [e] at h
  · rw [e] at h; exact s.settle_claims_subset h
  · rw [e] at h; simpa using State.settle_claims_subset _ h

/-- No row is held at the end of an event at which none was. -/
theorem State.conclude_not_held (tie : TieOrder) (h : ∀ k row, s.arb.circuit ≠ .held k row) (k : SlotId) (row : Nat) :
    (s.conclude tie).arb.circuit ≠ .held k row := by
  obtain ⟨e, _⟩ | ⟨e, _⟩ | ⟨e, _⟩ := s.conclude_cases tie
  · rw [e]; exact h k row
  · rw [e]; exact s.settle_not_held h k row
  · rw [e]; exact State.settle_not_held _ (fun k row => s.closeHeld_not_held k row) k row

/-! ## The end of a beginning: the held row closed, then the end of a request -/

theorem State.begun_lr (tie : TieOrder) (r : LrId) :
    (s.begun tie).lr r
      = { s.lr r with state := ((s.begun tie).lr r).state, holdTimer := ((s.begun tie).lr r).holdTimer } := by
  simpa [State.begun] using State.conclude_lr s.closeHeld tie r

theorem State.begun_lr_of_idle (tie : TieOrder) {r : LrId} (h : s.claimPending r = false) :
    (s.begun tie).lr r = s.lr r := by
  unfold State.begun
  rw [State.conclude_lr_of_idle]
  · simp
  · simpa [State.claimPending] using h

theorem State.begun_slot (tie : TieOrder) (k : SlotId) :
    (s.begun tie).slot k = { s.slot k with state := ((s.begun tie).slot k).state } := by
  have h := State.conclude_slot s.closeHeld tie k
  rw [State.closeHeld_slot] at h
  simpa [State.begun] using h

theorem State.begun_parked (tie : TieOrder) {k : SlotId} (h : (s.slot k).state = .parked) :
    ((s.begun tie).slot k).state = .parked :=
  State.conclude_parked _ tie (s.closeHeld_parked h)

theorem State.begun_parks (tie : TieOrder) {k : SlotId} {row : Nat} (h : s.arb.circuit = .held k row) :
    ((s.begun tie).slot k).state = .parked :=
  State.conclude_parked _ tie (s.closeHeld_slot_held h)

theorem State.begun_holdsClaim (tie : TieOrder) (p : Claim → Bool) : (s.begun tie).holdsClaim p = s.holdsClaim p := by
  unfold State.begun
  rw [State.conclude_holdsClaim]
  simp [State.holdsClaim]

theorem State.begun_claims_subset (tie : TieOrder) {c : Claim} (h : c ∈ (s.begun tie).arb.claims) :
    c ∈ s.arb.claims := by
  simpa using State.conclude_claims_subset _ tie h

theorem State.begun_not_held (tie : TieOrder) (k : SlotId) (row : Nat) : (s.begun tie).arb.circuit ≠ .held k row :=
  State.conclude_not_held _ tie (fun k row => s.closeHeld_not_held k row) k row

/-! ## Reports read and change the outbound queue and the notice unit only -/

theorem State.report_congr {s t : State} (h : s.hlc = t.hlc) (h' : s.ntu = t.ntu) (n : Notice) :
    (s.report n).hlc = (t.report n).hlc ∧ (s.report n).ntu = (t.report n).ntu := by
  have hn : s.noticeCount = t.noticeCount := by simp [State.noticeCount, h]
  unfold State.report
  rw [h, h', hn]
  split_ifs <;> simp [h, h']

end Sys2Proof.Machine
end

