-- ==== Sys2Proof/Laws/Effects.lean ====
section
/-! SUPPORT. What the shared operations do, said once: replies, registers emptied and taken into, the order list, the
refresh engine's claims. -/

namespace Sys2Proof.Machine

variable (s : State)

/-! ## Requests -/

theorem State.finish_spec {r : Request} {rest : List Request} (status : Status) (flags : Byte) (data : List Byte)
    (h : s.rqe.queue = r :: rest) :
    s.finish status flags data = { s with
      rqe := { s.rqe with queue := rest, phase := .free }
      hlc := { s.hlc with outq := s.hlc.outq ++ [.reply r.tag status flags data], attn := true } } := by
  simp [State.finish, State.enqueue, h]

/-! ## Registers -/

/-- An emptied register, and what becomes of its claims; nothing else changes. -/
theorem State.emptyReg_spec (r : LrId) :
    s.emptyReg r = { s with
      arb := { s.arb with claims := s.arb.claims.filter fun c => !c.isOf r }
      lrb := s.lrb.set r ((s.lr r).cleared (s.operationKind r)) } := by
  simp [State.emptyReg, State.withdraw, State.setLr]

theorem State.emptyReg_lr (r q : LrId) :
    (s.emptyReg r).lr q = if q = r then (s.lr r).cleared (s.operationKind r) else s.lr q := by
  simp only [State.emptyReg]
  cases r <;> cases q <;> rfl

theorem State.emptyReg_claimPending (r : LrId) : (s.emptyReg r).claimPending r = false := by
  simp [State.emptyReg_spec, State.claimPending]

/-- The register that takes the head of its stream's queue. -/
theorem State.takeHead_lr (n : StreamId) (r q : LrId) (g : Segment) (rest : List Segment) (st : LrState) :
    (s.takeHead n r g rest st).lr q =
      if q = r then
        { (s.lr r).cleared none with
          state := st, segment := some g, passesLeft := g.repeats, takeSeq := (s.str n).taken }
      else s.lr q := by
  cases n <;> cases r <;> cases q <;> rfl

/-- The stream whose register takes: the rest of its queue, one take more, the register's loss not reported. -/
theorem State.takeHead_str (n m : StreamId) (r : LrId) (g : Segment) (rest : List Segment) (st : LrState) :
    (s.takeHead n r g rest st).str m =
      if m = n then { (s.str n).setLossReported r false with queue := rest, taken := (s.str n).taken + 1 }
      else s.str m := by
  cases n <;> cases m <;> cases r <;> rfl

/-- One register's take in playback: nothing, or the head of the queue with its load claimed. -/
theorem State.playTakeOne_cases (n : StreamId) (r : LrId) :
    (((s.lr r).isFree = false ∨ (s.str n).queue = []) ∧ s.playTakeOne n r = s)
      ∨ ∃ g rest, (s.lr r).isFree = true ∧ (s.str n).queue = g :: rest
        ∧ s.playTakeOne n r = (s.takeHead n r g rest .loading).raiseClaim ⟨.load, g.row, .register r, .stream⟩ := by
  unfold State.playTakeOne
  split
  · rename_i hf
    split
    · rename_i hq; exact .inl ⟨.inr hq, rfl⟩
    · rename_i g rest hq; exact .inr ⟨g, rest, hf, hq, rfl⟩
  · rename_i hf; exact .inl ⟨.inl (by simpa using hf), rfl⟩

/-- A take in capture: nothing, or the head of the queue into the first free register, RUNNING again at an overrun
boundary. -/
theorem State.capTake_cases (n : StreamId) :
    s.capTake n = s
      ∨ ∃ r g rest, s.capTaking n = true ∧ [evenReg n, oddReg n].find? (fun r => (s.lr r).isFree) = some r
        ∧ (s.str n).queue = g :: rest
        ∧ s.capTake n = (if (s.str n).state = .overrun then
            (s.takeHead n r g rest .active).mapStr n fun x => { x with state := .running }
          else s.takeHead n r g rest .active) := by
  unfold State.capTake
  split
  · rename_i ht
    split
    · rename_i r g rest hr hq; exact .inr ⟨r, g, rest, ht, hr, hq, rfl⟩
    · exact .inl rfl
  · exact .inl rfl

/-! ## Retention -/

theorem toTail_of_mem {row : Nat} {order : List Nat} (h : row ∈ order) :
    toTail row order = order.erase row ++ [row] := by
  simp [toTail, h]

theorem toTail_perm (row : Nat) (order : List Nat) : (toTail row order).Perm order := by
  unfold toTail
  split
  · rename_i h
    have hm : row ∈ order := by simpa using h
    exact (List.perm_append_singleton row _).trans (List.perm_cons_erase hm).symm
  · exact .refl _

/-- R23's check raises the ROUTINE claim of the head row, or nothing. -/
theorem State.checkRoutine_cases :
    s.checkRoutine = s
      ∨ ∃ head rest, s.rfe.order = head :: rest ∧ s.rfe.mode = .auto
        ∧ s.holdsClaim (fun c => c.cls == .routine) = false ∧ Config.routineAge ≤ s.age head
        ∧ (s.row head).scrubPending = false ∧ s.holdsClaim (fun c => c.cls == .urgent && c.row == head) = false
        ∧ s.inFlightOn head = false ∧ s.checkRoutine = s.raiseClaim ⟨.refresh, head, .refreshEngine, .routine⟩ := by
  unfold State.checkRoutine
  split
  · exact .inl rfl
  · rename_i head rest ho
    split
    · rename_i h
      exact .inr ⟨head, rest, ho, h.1, h.2.1, h.2.2.1, h.2.2.2.1, h.2.2.2.2.1, h.2.2.2.2.2, rfl⟩
    · exact .inl rfl

/-- A row's URGENT claim is held once raised. -/
theorem State.raiseUrgent_holds (row : Nat) :
    (s.raiseUrgent row).holdsClaim (fun c => c.cls == .urgent && c.row == row) = true := by
  unfold State.raiseUrgent
  split
  · assumption
  · simp [State.holdsClaim, State.raiseClaim]

/-- The entries after a completion: the row's age is 0 and its crossing is to come; the others stay. -/
theorem State.rowCompleted_row {row : Nat} (h : row < s.rat.table.length) (q : Nat) :
    (s.rowCompleted row).row q =
      if q = row then { s.row row with completedAt := s.clock, crossed := false } else s.row q := by
  refine Eq.trans ?_ (State.row_updateRow s row q (fun e => { e with completedAt := s.clock, crossed := false }) h)
  unfold State.rowCompleted
  rcases State.checkRoutine_cases (State.setCircuit (State.withdraw _ _) .free) with
    hc | ⟨_, _, -, -, -, -, -, -, -, hc⟩
  all_goals rw [hc]; rfl

/-- The order list after a completion. -/
theorem State.rowCompleted_order (row : Nat) : (s.rowCompleted row).rfe.order = toTail row s.rfe.order := by
  unfold State.rowCompleted
  rcases State.checkRoutine_cases (State.setCircuit (State.withdraw _ _) .free) with
    hc | ⟨_, _, -, -, -, -, -, -, -, hc⟩
  all_goals rw [hc]; rfl

theorem State.rowCompleted_circuit (row : Nat) : (s.rowCompleted row).arb.circuit = .free := by
  unfold State.rowCompleted
  rcases State.checkRoutine_cases (State.setCircuit (State.withdraw _ _) .free) with
    hc | ⟨_, _, -, -, -, -, -, -, -, hc⟩
  all_goals rw [hc]; rfl

end Sys2Proof.Machine
end

