-- ==== Sys2Proof/Laws/Memory.lean ====
section
/-! SUPPORT. The cells: reading after a write, and the canonical form. -/

namespace Sys2Proof.Machine

theorem cellAddress_row {row c : Nat} (hc : c < 256) : cellAddress row c / 256 = row := by
  simp only [cellAddress, Config.columns]; omega

theorem mem_rowEntries {row : Nat} {f : Nat → CellVal} {e : Nat × CellVal} :
    e ∈ rowEntries row f ↔ ∃ c, c < 256 ∧ f c ≠ 0 ∧ e = (cellAddress row c, f c) := by
  simp only [rowEntries, List.mem_filterMap, List.mem_range, Config.columns]
  constructor
  · rintro ⟨c, hc, h⟩
    split at h
    · cases h
    · exact ⟨c, hc, ‹_›, by simpa using h.symm⟩
  · rintro ⟨c, hc, h0, rfl⟩
    exact ⟨c, hc, if_neg h0⟩

/-- The first listed entry of an address of the row that was set: the entry made for its column. -/
theorem find_rowEntries {row c : Nat} (hc : c < 256) (f : Nat → CellVal) :
    (rowEntries row f).find? (fun e => e.1 == cellAddress row c) =
      if f c = 0 then none else some (cellAddress row c, f c) := by
  have hkey : ∀ e ∈ rowEntries row f, e.1 = cellAddress row c → f c ≠ 0 ∧ e = (cellAddress row c, f c) := by
    intro e he h
    obtain ⟨c', -, h0, rfl⟩ := mem_rowEntries.1 he
    obtain rfl : c' = c := by simp only [cellAddress] at h; omega
    exact ⟨h0, rfl⟩
  split
  · rename_i h0
    rw [List.find?_eq_none]
    intro e he h
    exact (hkey e he (by simpa using h)).1 h0
  · rename_i h0
    cases hf : (rowEntries row f).find? (fun e => e.1 == cellAddress row c) with
    | none =>
      rw [List.find?_eq_none] at hf
      exact absurd (by simp) (hf (cellAddress row c, f c) (mem_rowEntries.2 ⟨c, hc, h0, rfl⟩))
    | some e =>
      have := List.find?_some hf
      rw [(hkey e (List.mem_of_find?_eq_some hf) (by simpa using this)).2]

theorem find_filter_of_imp {α : Type} (p q : α → Bool) (h : ∀ x, q x = true → p x = true) :
    ∀ l : List α, (l.filter p).find? q = l.find? q
  | [] => rfl
  | x :: l => by
    by_cases hp : p x = true
    · simp [hp, List.find?_cons, find_filter_of_imp p q h l]
    · have hq : q x = false := by
        cases hx : q x
        · rfl
        · exact absurd (h x hx) hp
      simp [hp, hq, find_filter_of_imp p q h l]

theorem find_filter_none {α : Type} (p q : α → Bool) (h : ∀ x, q x = true → p x = false) (l : List α) :
    (l.filter p).find? q = none := by
  rw [List.find?_eq_none]
  intro x hx hq
  simp [h x hq] at hx

/-- READ AFTER WRITE: a row that was set reads as it was set; every other row reads as before (R1). -/
theorem Memory.read_setRow (m : Memory) {row r c : Nat} (f : Nat → CellVal) (h : row < 512) (hc : c < 256) :
    (m.setRow row f).read r c = if r = row then f c else m.read r c := by
  have hrow : row < Config.rows := h
  have hunl : ∀ a, (m.setRow row f).unlisted a = if a / 256 = row then 0 else m.unlisted a := by
    intro a
    simp only [Memory.unlisted, Memory.setRow, if_pos hrow, Config.columns]
    by_cases ha : a / 256 = row
    · simp [ha]
    · simp [ha, List.mem_filter]
  unfold Memory.read
  rw [hunl, cellAddress_row hc]
  simp only [Memory.setRow, if_pos hrow, List.find?_append]
  by_cases hr : r = row
  · subst hr
    rw [find_filter_none, find_rowEntries hc, find_filter_none]
    · by_cases h0 : f c = 0
      · simp [h0]
      · rw [if_neg h0]; simp
    · intro x hx; simp only [beq_iff_eq] at hx
      simp only [hx, cellAddress, Config.columns]; simp; omega
    · intro x hx; simp only [beq_iff_eq] at hx
      simp only [hx, cellAddress, Config.columns]; simp
  · have hne : (rowEntries row f).find? (fun e => e.1 == cellAddress r c) = none := by
      rw [List.find?_eq_none]
      intro e he hq
      obtain ⟨c', hc', -, rfl⟩ := mem_rowEntries.1 he
      simp only [beq_iff_eq] at hq
      have := congrArg (· / 256) hq
      simp only [cellAddress_row hc', cellAddress_row hc] at this
      exact hr this.symm
    rw [hne]
    simp only [if_neg hr]
    by_cases hlt : r < row
    · rw [find_filter_of_imp, find_filter_none]
      · simp
      · intro x hx; simp only [beq_iff_eq] at hx
        simp only [hx, cellAddress, Config.columns]; simp; omega
      · intro x hx; simp only [beq_iff_eq] at hx
        simp only [hx, cellAddress, Config.columns]; simp; omega
    · rw [find_filter_none, find_filter_of_imp]
      · simp
      · intro x hx; simp only [beq_iff_eq] at hx
        simp only [hx, cellAddress, Config.columns]; simp; omega
      · intro x hx; simp only [beq_iff_eq] at hx
        simp only [hx, cellAddress, Config.columns]; simp; omega

/-- Nothing outside the array is ever written. -/
theorem Memory.setRow_outside (m : Memory) {row : Nat} (f : Nat → CellVal) (h : 512 ≤ row) : m.setRow row f = m := by
  simp [Memory.setRow, Config.rows, Nat.not_lt.2 h]

theorem rowEntries_pairwise (row : Nat) (f : Nat → CellVal) :
    (rowEntries row f).Pairwise fun a b => a.1 < b.1 := by
  unfold rowEntries
  rw [List.pairwise_filterMap]
  refine List.pairwise_lt_range.imp fun {a b} hab => ?_
  intro x hx y hy
  split at hx <;> split at hy <;> simp_all
  simp only [← hx, ← hy, cellAddress]; omega

/-- Setting a row keeps the canonical form. -/
theorem Memory.setRow_wf (m : Memory) (row : Nat) (f : Nat → CellVal) (h : m.wf = true) : (m.setRow row f).wf = true := by
  by_cases hrow : row < 512
  swap
  · rwa [m.setRow_outside f (by omega)]
  have hr : row < Config.rows := hrow
  simp only [Memory.wf, Bool.and_eq_true, decide_eq_true_eq, List.all_eq_true, bne_iff_ne] at h ⊢
  obtain ⟨hs, ha⟩ := h
  have hunl : ∀ a, (m.setRow row f).unlisted a = if a / 256 = row then 0 else m.unlisted a := by
    intro a
    simp only [Memory.unlisted, Memory.setRow, if_pos hr, Config.columns]
    by_cases ha : a / 256 = row
    · simp [ha]
    · simp [ha, List.mem_filter]
  have hentry : ∀ e ∈ rowEntries row f, e.1 / 256 = row ∧ e.2 ≠ 0 := by
    intro e he
    obtain ⟨c, hc, h0, rfl⟩ := mem_rowEntries.1 he
    exact ⟨cellAddress_row hc, h0⟩
  constructor
  · simp only [Memory.setRow, if_pos hr, List.append_assoc]
    rw [List.pairwise_append, List.pairwise_append]
    refine ⟨hs.filter _, ⟨rowEntries_pairwise row f, hs.filter _, ?_⟩, ?_⟩
    · intro a ha' b hb
      have := (hentry a ha').1
      simp only [List.mem_filter, decide_eq_true_eq] at hb
      simp only [cellAddress, Config.columns] at hb
      omega
    · intro a ha' b hb
      simp only [List.mem_filter, decide_eq_true_eq] at ha'
      simp only [cellAddress, Config.columns] at ha'
      rw [List.mem_append] at hb
      rcases hb with hb | hb
      · have := (hentry b hb).1; omega
      · simp only [List.mem_filter, decide_eq_true_eq] at hb
        simp only [cellAddress, Config.columns] at hb
        omega
  · intro e he
    have hmem : e ∈ (m.setRow row f).cells := he
    simp only [Memory.setRow, if_pos hr, List.mem_append, List.mem_filter, decide_eq_true_eq] at hmem
    simp only [cellAddress, Config.columns] at hmem
    rcases hmem with (⟨hm, hl⟩ | hm) | ⟨hm, hl⟩
    · refine ⟨(ha e hm).1, ?_⟩
      rw [hunl, if_neg (by omega)]; exact (ha e hm).2
    · have hh := hentry e hm
      refine ⟨?_, ?_⟩
      · simp only [Config.rows, Config.columns]; omega
      · rw [hunl, if_pos hh.1]; exact hh.2
    · refine ⟨(ha e hm).1, ?_⟩
      rw [hunl, if_neg (by omega)]; exact (ha e hm).2

/-- With nothing listed the canonical form holds: the cells after power-on, HRST and reset. -/
theorem Memory.allUndefined_wf (epoch : Nat) : (Memory.allUndefined epoch).wf = true := by
  simp [Memory.wf, Memory.allUndefined]

theorem reset_memory_wf : State.reset.rat.memory.wf = true :=
  Memory.allUndefined_wf 0

/-- A write of sections keeps the canonical form. -/
theorem State.writeSections_wf (s : State) (row : Nat) (sections : SectionSet) (f : Nat → CellVal)
    (h : s.rat.memory.wf = true) : (s.writeSections row sections f).rat.memory.wf = true :=
  Memory.setRow_wf _ _ _ h

/-- What a write of sections leaves in each cell (R5, R6, R7). -/
theorem State.writeSections_read (s : State) {row r c : Nat} (sections : SectionSet) (f : Nat → CellVal)
    (h : row < 512) (hc : c < 256) :
    (s.writeSections row sections f).rat.memory.read r c =
      if r = row ∧ coversColumn sections c = true then f c else s.rat.memory.read r c := by
  simp only [State.writeSections, Memory.read_setRow _ _ h hc]
  by_cases hr : r = row
  · subst hr; simp
  · simp [hr]

@[simp] theorem State.writeSections_table (s : State) (row : Nat) (sections : SectionSet) (f : Nat → CellVal) :
    (s.writeSections row sections f).rat.table = s.rat.table := rfl

@[simp] theorem State.writeSections_row (s : State) (row q : Nat) (sections : SectionSet) (f : Nat → CellVal) :
    (s.writeSections row sections f).row q = s.row q := rfl

/-- A column burst keeps the canonical form. -/
theorem State.applyBurst_wf (s : State) (row : Nat) (j : ColumnJob) (h : s.rat.memory.wf = true) :
    (s.applyBurst row j).rat.memory.wf = true := by
  unfold State.applyBurst
  split
  · exact h
  · exact Memory.setRow_wf _ _ _ h

/-- What a column burst leaves in each cell: only the job's columns of its row change (R133, R134). -/
theorem State.applyBurst_read (s : State) {row r c : Nat} (j : ColumnJob) (h : row < 512) (hc : c < 256) :
    (s.applyBurst row j).rat.memory.read r c =
      if r = row then j.newCell c (s.rat.memory.read row c) else s.rat.memory.read r c := by
  unfold State.applyBurst
  split
  · rename_i hj
    by_cases hr : r = row
    · subst hr; simp [ColumnJob.newCell, hj]
    · simp [hr]
  · exact Memory.read_setRow _ _ h hc

@[simp] theorem State.applyBurst_table (s : State) (row : Nat) (j : ColumnJob) :
    (s.applyBurst row j).rat.table = s.rat.table := by
  unfold State.applyBurst; split <;> rfl

@[simp] theorem State.applyBurst_row (s : State) (row q : Nat) (j : ColumnJob) :
    (s.applyBurst row j).row q = s.row q := by
  simp [State.row]

end Sys2Proof.Machine
end

