-- ==== Sys2Proof/Laws/Link.lean ====
section
/-! SUPPORT. What every command but those of the supply and of the link keeps of the request engine's queue and tags and
of the host link: whatever a report and a reply keep (LinkClosed, LinkClosed.exec_keeps). -/

namespace Sys2Proof.Machine

/-- A property of the request queue, the outstanding tags and the host link that a report and a reply keep. -/
structure LinkClosed (P : State → Prop) : Prop where
  congr : ∀ s t : State, t.rqe.queue = s.rqe.queue → t.rqe.tags = s.rqe.tags → t.hlc = s.hlc → P s → P t
  report : ∀ (s : State) (n : Notice), P s → P (s.report n)
  finish : ∀ (s : State) (st : Status) (fl : Byte) (d : List Byte), P s → P (s.finish st fl d)

variable {P : State → Prop} (h : LinkClosed P) (s : State)
include h

theorem LinkClosed.setLr_keeps (r : LrId) (x : LineReg) (hp : P s) : P (s.setLr r x) :=
  h.congr s _ (by simp) (by simp) (by simp) hp

theorem LinkClosed.setStr_keeps (n : StreamId) (x : StreamRec) (hp : P s) : P (s.setStr n x) :=
  h.congr s _ (by simp) (by simp) (by simp) hp

theorem LinkClosed.setSlot_keeps (k : SlotId) (x : Session) (hp : P s) : P (s.setSlot k x) :=
  h.congr s _ (by simp) (by simp) (by simp) hp

theorem LinkClosed.updateRow_keeps (r : Nat) (f : RowEntry → RowEntry) (hp : P s) : P (s.updateRow r f) :=
  h.congr s _ (by simp) (by simp) (by simp) hp

theorem LinkClosed.setCircuit_keeps (c : Circuit) (hp : P s) : P (s.setCircuit c) :=
  h.congr s _ (by simp) (by simp) (by simp) hp

theorem LinkClosed.raiseClaim_keeps (c : Claim) (hp : P s) : P (s.raiseClaim c) :=
  h.congr s _ (by simp) (by simp) (by simp) hp

theorem LinkClosed.withdraw_keeps (p : Claim → Bool) (hp : P s) : P (s.withdraw p) :=
  h.congr s _ (by simp) (by simp) (by simp) hp

theorem LinkClosed.setPhase_keeps (p : Phase) (hp : P s) : P (s.setPhase p) :=
  h.congr s _ (by simp) (by simp) (by simp) hp

theorem LinkClosed.advance_keeps (dt : Nat) (hp : P s) : P (s.advance dt) :=
  h.congr s _ (by simp) (by simp) (by simp) hp

theorem LinkClosed.mapStr_keeps (n : StreamId) (f : StreamRec → StreamRec) (hp : P s) : P (s.mapStr n f) :=
  h.congr s _ (by simp) (by simp) (by simp) hp

theorem LinkClosed.count_keeps (n : StreamId) (f : Counters → Counters) (hp : P s) : P (s.count n f) :=
  h.congr s _ (by simp) (by simp) (by simp) hp

theorem LinkClosed.mapLr_keeps (r : LrId) (f : LineReg → LineReg) (hp : P s) : P (s.mapLr r f) :=
  h.congr s _ (by simp) (by simp) (by simp) hp

theorem LinkClosed.park_keeps (k : SlotId) (hp : P s) : P (s.park k) :=
  h.congr s _ (by simp) (by simp) (by simp) hp

theorem LinkClosed.stopIdle_keeps (k : SlotId) (hp : P s) : P (s.stopIdle k) :=
  h.congr s _ (by simp) (by simp) (by simp) hp

theorem LinkClosed.restartIdle_keeps (k : SlotId) (hp : P s) : P (s.restartIdle k) :=
  h.congr s _ (by simp) (by simp) (by simp) hp

theorem LinkClosed.freeSession_keeps (k : SlotId) (hp : P s) : P (s.freeSession k) :=
  h.congr s _ (by simp) (by simp) (by simp) hp

theorem LinkClosed.openSession_keeps (k : SlotId) (hp : P s) : P (s.openSession k) :=
  h.congr s _ (by simp) (by simp) (by simp) hp

theorem LinkClosed.markCrossed_keeps (r : Nat) (hp : P s) : P (s.markCrossed r) :=
  h.congr s _ (by simp) (by simp) (by simp) hp

theorem LinkClosed.refuse_keeps (st : Status) (hp : P s) : P (s.refuse st) := by
  simp only [State.refuse]
  repeat first
    | with_reducible assumption | with_reducible apply h.finish

theorem LinkClosed.writeSections_keeps (r : Nat) (m : SectionSet) (f : Nat → CellVal) (hp : P s) :
    P (s.writeSections r m f) :=
  h.congr s _ (by simp) (by simp) (by simp) hp

theorem LinkClosed.grant_keeps (c : Claim) (hp : P s) : P (s.grant c) :=
  h.congr s _ (by simp) (by simp) (by simp) hp

theorem LinkClosed.grantDecision_keeps (hp : P s) : P s.grantDecision :=
  h.congr s _ (by simp) (by simp) (by simp) hp

theorem LinkClosed.closeHeld_keeps (hp : P s) : P s.closeHeld :=
  h.congr s _ (by simp) (by simp) (by simp) hp

theorem LinkClosed.settle_keeps (hp : P s) : P s.settle :=
  h.congr s _ (by simp) (by simp) (by simp) hp

theorem LinkClosed.checkRoutine_keeps (hp : P s) : P s.checkRoutine :=
  h.congr s _ (by simp) (by simp) (by simp) hp

theorem LinkClosed.rowCompleted_keeps (r : Nat) (hp : P s) : P (s.rowCompleted r) :=
  h.congr s _ (by simp) (by simp) (by simp) hp

theorem LinkClosed.raiseUrgent_keeps (r : Nat) (hp : P s) : P (s.raiseUrgent r) :=
  h.congr s _ (by simp) (by simp) (by simp) hp

theorem LinkClosed.conclude_keeps (tie : TieOrder) (hp : P s) : P (s.conclude tie) :=
  h.congr s _ (by simp) (by simp) (by simp) hp

theorem LinkClosed.begun_keeps (tie : TieOrder) (hp : P s) : P (s.begun tie) :=
  h.congr s _ (by simp) (by simp) (by simp) hp

theorem LinkClosed.emptyReg_keeps (r : LrId) (hp : P s) : P (s.emptyReg r) :=
  h.congr s _ (by simp) (by simp) (by simp) hp

theorem LinkClosed.takeHead_keeps (n : StreamId) (r : LrId) (g : Segment) (rest : List Segment) (st : LrState) (hp :
    P s) :
    P (s.takeHead n r g rest st) :=
  h.congr s _ (by simp) (by simp) (by simp) hp

theorem LinkClosed.streamToIdle_keeps (n : StreamId) (hp : P s) : P (s.streamToIdle n) := by
  simp only [State.streamToIdle]
  repeat' split
  all_goals
    repeat first
      | with_reducible assumption | with_reducible apply h.report | with_reducible apply h.finish
      | with_reducible apply h.mapStr_keeps

theorem LinkClosed.stopNext_keeps (n : StreamId) (hp : P s) : P (s.stopNext n) := by
  simp only [State.stopNext]
  repeat' split
  all_goals
    repeat first
      | with_reducible assumption | with_reducible apply h.streamToIdle_keeps | with_reducible apply h.mapStr_keeps

theorem LinkClosed.checkStopped_keeps (n : StreamId) (hp : P s) : P (s.checkStopped n) := by
  simp only [State.checkStopped]
  repeat' split
  all_goals
    repeat first
      | with_reducible assumption | with_reducible apply h.streamToIdle_keeps

theorem LinkClosed.drain_keeps (n : StreamId) (hp : P s) : P (s.drain n) := by
  simp only [State.drain]
  repeat first
    | with_reducible assumption | with_reducible apply h.report | with_reducible apply h.mapStr_keeps

theorem LinkClosed.playTakeOne_keeps (n : StreamId) (r : LrId) (hp : P s) : P (s.playTakeOne n r) :=
  h.congr s _ (by simp) (by simp) (by simp) hp

theorem LinkClosed.playTakes_keeps (n : StreamId) (hp : P s) : P (s.playTakes n) :=
  h.congr s _ (by simp) (by simp) (by simp) hp

theorem LinkClosed.playCopy_keeps (n : StreamId) (g : Segment) (hp : P s) : P (s.playCopy n g) :=
  h.congr s _ (by simp) (by simp) (by simp) hp

theorem LinkClosed.playStopEffect_keeps (n : StreamId) (hp : P s) : P (s.playStopEffect n) := by
  simp only [State.playStopEffect]
  repeat first
    | with_reducible assumption | with_reducible apply h.stopNext_keeps | with_reducible apply h.emptyReg_keeps
    | with_reducible apply h.mapStr_keeps

theorem LinkClosed.playStopNow_keeps (n : StreamId) (hp : P s) : P (s.playStopNow n) := by
  simp only [State.playStopNow]
  repeat' split
  all_goals
    repeat first
      | with_reducible assumption | with_reducible apply h.report | with_reducible apply h.playStopEffect_keeps
      | with_reducible apply h.playCopy_keeps | with_reducible apply h.emptyReg_keeps
      | with_reducible apply h.count_keeps

theorem LinkClosed.playRefill_keeps (n : StreamId) (hp : P s) : P (s.playRefill n) := by
  simp only [State.playRefill]
  repeat' split
  all_goals
    repeat first
      | with_reducible assumption | with_reducible apply h.playTakes_keeps | with_reducible apply h.drain_keeps

theorem LinkClosed.playAfterEnd_keeps (n : StreamId) (hp : P s) : P (s.playAfterEnd n) := by
  simp only [State.playAfterEnd]
  repeat' split
  all_goals
    repeat first
      | with_reducible assumption | with_reducible apply h.playRefill_keeps
      | with_reducible apply h.playStopEffect_keeps

theorem LinkClosed.playAfterDrop_keeps (n : StreamId) (hp : P s) : P (s.playAfterDrop n) := by
  simp only [State.playAfterDrop]
  repeat' split
  all_goals
    repeat first
      | with_reducible assumption | with_reducible apply h.playRefill_keeps
      | with_reducible apply h.playStopEffect_keeps | with_reducible apply h.mapStr_keeps

theorem LinkClosed.playRead_keeps (n : StreamId) (r : LrId) (g : Segment) (hp : P s) : P (s.playRead n r g) := by
  simp only [State.playRead]
  repeat' split
  all_goals
    repeat first
      | with_reducible assumption | with_reducible apply h.report | with_reducible apply h.playAfterEnd_keeps
      | with_reducible apply h.playCopy_keeps | with_reducible apply h.emptyReg_keeps
      | with_reducible apply h.count_keeps | with_reducible apply h.mapStr_keeps
      | with_reducible apply h.setLr_keeps

theorem LinkClosed.playDrop_keeps (n : StreamId) (r : LrId) (g : Segment) (hp : P s) : P (s.playDrop n r g) := by
  simp only [State.playDrop]
  repeat first
    | with_reducible assumption | with_reducible apply h.report | with_reducible apply h.playAfterDrop_keeps
    | with_reducible apply h.playCopy_keeps | with_reducible apply h.emptyReg_keeps
    | with_reducible apply h.mapStr_keeps

theorem LinkClosed.playStarved_keeps (n : StreamId) (r : LrId) (g : Segment) (hp : P s) : P (s.playStarved n r g) := by
  simp only [State.playStarved]
  repeat' split
  all_goals
    repeat first
      | with_reducible assumption | with_reducible apply h.playDrop_keeps
      | with_reducible apply h.mapLr_keeps | with_reducible apply h.mapStr_keeps | with_reducible apply h.setLr_keeps

theorem LinkClosed.playEdge_keeps (n : StreamId) (hp : P s) : P (s.playEdge n) := by
  simp only [State.playEdge]
  repeat' split
  all_goals
    repeat first
      | with_reducible assumption | with_reducible apply h.playStarved_keeps | with_reducible apply h.playRead_keeps
      | with_reducible apply h.count_keeps | with_reducible apply h.mapStr_keeps

theorem LinkClosed.reportLoss_keeps (n : StreamId) (r : LrId) (row : Nat) (hp : P s) : P (s.reportLoss n r row) := by
  simp only [State.reportLoss]
  repeat' split
  all_goals
    repeat first
      | with_reducible assumption | with_reducible apply h.report | with_reducible apply h.mapStr_keeps

theorem LinkClosed.playResume_keeps (n : StreamId) (row : Nat) (hp : P s) : P (s.playResume n row) := by
  simp only [State.playResume]
  repeat first
    | with_reducible assumption | with_reducible apply h.report | with_reducible apply h.mapStr_keeps

theorem LinkClosed.playLoaded_keeps (n : StreamId) (r : LrId) (g : Segment) (b : Bool) (hp : P s) :
    P (s.playLoaded n r g b) := by
  simp only [State.playLoaded]
  repeat' split
  all_goals
    repeat first
      | with_reducible assumption | with_reducible apply h.playResume_keeps | with_reducible apply h.reportLoss_keeps
      | with_reducible apply h.count_keeps | with_reducible apply h.mapStr_keeps

theorem LinkClosed.playExpiry_keeps (n : StreamId) (r : LrId) (g : Segment) (hp : P s) : P (s.playExpiry n r g) :=
  h.congr s _ (by simp) (by simp) (by simp) hp

theorem LinkClosed.capTake_keeps (n : StreamId) (hp : P s) : P (s.capTake n) :=
  h.congr s _ (by simp) (by simp) (by simp) hp

theorem LinkClosed.releaseCopies_keeps (n : StreamId) (hp : P s) : P (s.releaseCopies n) :=
  h.congr s _ (by simp) (by simp) (by simp) hp

theorem LinkClosed.capFinish_keeps (n : StreamId) (t : Taken) (hp : P s) : P (s.capFinish n t) :=
  h.congr s _ (by simp) (by simp) (by simp) hp

theorem LinkClosed.capAbandonCount_keeps (n : StreamId) (c : Nat) (hp : P s) : P (s.capAbandonCount n c) :=
  h.congr s _ (by simp) (by simp) (by simp) hp

theorem LinkClosed.capAbandonOverrun_keeps (n : StreamId) (t : Taken) (c : Nat) (hp : P s) :
    P (s.capAbandonOverrun n t c) := by
  simp only [State.capAbandonOverrun]
  repeat first
    | with_reducible assumption | with_reducible apply h.report | with_reducible apply h.capAbandonCount_keeps
    | with_reducible apply h.capFinish_keeps | with_reducible apply h.mapStr_keeps

theorem LinkClosed.raiseCommit_keeps (r : LrId) (g : Segment) (hp : P s) : P (s.raiseCommit r g) :=
  h.congr s _ (by simp) (by simp) (by simp) hp

theorem LinkClosed.capStopReceiving_keeps (n : StreamId) (r : LrId) (g : Segment) (hp : P s) :
    P (s.capStopReceiving n r g) := by
  simp only [State.capStopReceiving]
  repeat' split
  all_goals
    repeat first
      | with_reducible assumption | with_reducible apply h.report | with_reducible apply h.raiseCommit_keeps
      | with_reducible apply h.capAbandonCount_keeps | with_reducible apply h.capFinish_keeps
      | with_reducible apply h.releaseCopies_keeps | with_reducible apply h.emptyReg_keeps
      | with_reducible apply h.mapStr_keeps

theorem LinkClosed.capStopEffect_keeps (n : StreamId) (hp : P s) : P (s.capStopEffect n) := by
  simp only [State.capStopEffect]
  repeat' split
  all_goals
    repeat first
      | with_reducible assumption | with_reducible apply h.capStopReceiving_keeps
      | with_reducible apply h.capAbandonOverrun_keeps | with_reducible apply h.stopNext_keeps

theorem LinkClosed.capRangeFull_keeps (n : StreamId) (hp : P s) : P (s.capRangeFull n) := by
  simp only [State.capRangeFull]
  repeat' split
  all_goals
    repeat first
      | with_reducible assumption | with_reducible apply h.capStopEffect_keeps | with_reducible apply h.capTake_keeps
      | with_reducible apply h.drain_keeps

theorem LinkClosed.capReceive_keeps (n : StreamId) (r : LrId) (g : Segment) (cell : CellVal) (hp : P s) :
    P (s.capReceive n r g cell) := by
  simp only [State.capReceive]
  repeat' split
  all_goals
    repeat first
      | with_reducible assumption | with_reducible apply h.capRangeFull_keeps
      | with_reducible apply h.raiseCommit_keeps | with_reducible apply h.mapLr_keeps
      | with_reducible apply h.mapStr_keeps

theorem LinkClosed.capDiscard_keeps (n : StreamId) (hp : P s) : P (s.capDiscard n) :=
  h.congr s _ (by simp) (by simp) (by simp) hp

theorem LinkClosed.capOverrunEnd_keeps (n : StreamId) (t : Taken) (hp : P s) : P (s.capOverrunEnd n t) := by
  simp only [State.capOverrunEnd]
  repeat' split
  all_goals
    repeat first
      | with_reducible assumption | with_reducible apply h.capAbandonOverrun_keeps
      | with_reducible apply h.capTake_keeps | with_reducible apply h.drain_keeps

theorem LinkClosed.capOverrunCount_keeps (n : StreamId) (t : Taken) (b : Nat) (hp : P s) :
    P (s.capOverrunCount n t b) := by
  simp only [State.capOverrunCount]
  repeat' split
  all_goals
    repeat first
      | with_reducible assumption | with_reducible apply h.capOverrunEnd_keeps | with_reducible apply h.mapStr_keeps

theorem LinkClosed.capOverrunTake_keeps (n : StreamId) (g : Segment) (rest : List Segment) (hp : P s) :
    P (s.capOverrunTake n g rest) := by
  simp only [State.capOverrunTake]
  repeat first
    | with_reducible assumption | with_reducible apply h.capOverrunCount_keeps | with_reducible apply h.mapStr_keeps

theorem LinkClosed.capEdge_keeps (n : StreamId) (cell : CellVal) (hp : P s) : P (s.capEdge n cell) := by
  simp only [State.capEdge]
  repeat' split
  all_goals
    repeat first
      | with_reducible assumption | with_reducible apply h.capOverrunTake_keeps
      | with_reducible apply h.capOverrunCount_keeps | with_reducible apply h.capDiscard_keeps
      | with_reducible apply h.capReceive_keeps | with_reducible apply h.drain_keeps
      | with_reducible apply h.count_keeps

theorem LinkClosed.capCommitted_keeps (n : StreamId) (r : LrId) (x : LineReg) (g : Segment) (hp : P s) :
    P (s.capCommitted n r x g) := by
  simp only [State.capCommitted]
  repeat' split
  all_goals
    repeat first
      | with_reducible assumption | with_reducible apply h.report | with_reducible apply h.capAbandonCount_keeps
      | with_reducible apply h.capFinish_keeps | with_reducible apply h.capTake_keeps
      | with_reducible apply h.checkStopped_keeps | with_reducible apply h.count_keeps
      | with_reducible apply h.setLr_keeps

theorem LinkClosed.capExpiry_keeps (n : StreamId) (r : LrId) (g : Segment) (hp : P s) : P (s.capExpiry n r g) := by
  simp only [State.capExpiry]
  repeat' split
  all_goals
    repeat first
      | with_reducible assumption | with_reducible apply h.report | with_reducible apply h.capStopEffect_keeps
      | with_reducible apply h.capAbandonCount_keeps | with_reducible apply h.capFinish_keeps
      | with_reducible apply h.capTake_keeps | with_reducible apply h.drain_keeps
      | with_reducible apply h.checkStopped_keeps | with_reducible apply h.emptyReg_keeps

theorem LinkClosed.startBurst_keeps (k : SlotId) (row : Nat) (j : ColumnJob) (hp : P s) : P (s.startBurst k row j) := by
  simp only [State.startBurst]
  repeat first
    | with_reducible assumption | with_reducible apply h.setPhase_keeps | with_reducible apply h.setCircuit_keeps

theorem LinkClosed.raiseReopen_keeps (k : SlotId) (j : ColumnJob) (hp : P s) : P (s.raiseReopen k j) := by
  simp only [State.raiseReopen]
  repeat first
    | with_reducible assumption | with_reducible apply h.setPhase_keeps | with_reducible apply h.raiseClaim_keeps

theorem LinkClosed.applyBurst_keeps (row : Nat) (j : ColumnJob) (hp : P s) : P (s.applyBurst row j) :=
  h.congr s _ (by simp) (by simp) (by simp) hp

theorem LinkClosed.startCopy_keeps (j : CopyJob) (hp : P s) : P (s.startCopy j) := by
  simp only [State.startCopy]
  repeat first
    | with_reducible assumption | with_reducible apply h.setPhase_keeps | with_reducible apply h.raiseClaim_keeps
    | with_reducible apply h.setLr_keeps

theorem LinkClosed.lr4Discarded_keeps (hp : P s) : P s.lr4Discarded := by
  simp only [State.lr4Discarded]
  repeat' split
  all_goals
    repeat first
      | with_reducible assumption | with_reducible apply h.startCopy_keeps | with_reducible apply h.setLr_keeps

theorem LinkClosed.streamTakes_keeps (n : StreamId) (hp : P s) : P (s.streamTakes n) :=
  h.congr s _ (by simp) (by simp) (by simp) hp

theorem LinkClosed.regDiscarded_keeps (n : StreamId) (r : LrId) (hp : P s) : P (s.regDiscarded n r) := by
  simp only [State.regDiscarded]
  repeat first
    | with_reducible assumption | with_reducible apply h.streamTakes_keeps
    | with_reducible apply h.checkStopped_keeps | with_reducible apply h.mapLr_keeps

theorem LinkClosed.initDone_keeps (row : Nat) (hp : P s) : P (s.initDone row) := by
  simp only [State.initDone]
  repeat' split
  all_goals
    repeat first
      | with_reducible assumption | with_reducible apply h.report
  exact h.congr s _ rfl rfl rfl hp

theorem LinkClosed.reopen_keeps (k : SlotId) (j : ColumnJob) (tie : TieOrder) (hp : P s) : P (s.reopen k j tie) := by
  simp only [State.reopen]
  repeat' split
  all_goals
    repeat first
      | with_reducible assumption | with_reducible apply h.raiseReopen_keeps | with_reducible apply h.settle_keeps
      | with_reducible apply h.closeHeld_keeps

theorem LinkClosed.columnRequest_keeps (f : ColumnFields) (tie : TieOrder) (hp : P s) : P (s.columnRequest f tie) := by
  simp only [State.columnRequest]
  repeat' split
  all_goals
    repeat first
      | with_reducible assumption | with_reducible apply h.reopen_keeps | with_reducible apply h.startBurst_keeps
      | with_reducible apply h.begun_keeps | with_reducible apply h.conclude_keeps
      | with_reducible apply h.settle_keeps | with_reducible apply h.refuse_keeps
      | with_reducible apply h.restartIdle_keeps | with_reducible apply h.stopIdle_keeps

theorem LinkClosed.appendSegments_keeps (n : StreamId) (gs : List Segment) (hp : P s) : P (s.appendSegments n gs) :=
  h.congr s _ (by simp) (by simp) (by simp) hp

theorem LinkClosed.startStream_keeps (n : StreamId) (hp : P s) : P (s.startStream n) :=
  h.congr s _ (by simp) (by simp) (by simp) hp

theorem LinkClosed.stopStream_keeps (n : StreamId) (k : StopKind) (hp : P s) : P (s.stopStream n k) := by
  simp only [State.stopStream]
  repeat' split
  all_goals
    repeat first
      | with_reducible assumption | with_reducible apply h.capStopEffect_keeps
      | with_reducible apply h.playStopNow_keeps | with_reducible apply h.playStopEffect_keeps
      | with_reducible apply h.stopNext_keeps | with_reducible apply h.mapStr_keeps
      | with_reducible apply h.setPhase_keeps

theorem LinkClosed.toAuto_keeps (hp : P s) : P s.toAuto := by
  simp only [State.toAuto]
  apply h.checkRoutine_keeps
  generalize hl : State.agedRows _ = l
  clear hl
  have h0 : P { s with rfe := { s.rfe with mode := .auto } } := h.congr s _ rfl rfl rfl hp
  revert h0
  generalize ({ s with rfe := { s.rfe with mode := .auto } } : State) = t
  intro h0
  induction l generalizing t with
  | nil => exact h0
  | cons a l ih => exact ih _ (h.raiseUrgent_keeps _ _ h0)

theorem LinkClosed.toHosted_keeps (hp : P s) : P s.toHosted := by
  simp only [State.toHosted]
  generalize hl : List.filter _ _ = l
  clear hl
  have h0 :
    P (State.withdraw { s with rfe := { s.rfe with mode := .hosted } } fun c => c.cls == .routine || c.cls == .urgent) :=
    h.congr s _ rfl rfl rfl hp
  revert h0
  generalize (State.withdraw { s with rfe := { s.rfe with mode := .hosted } } fun c => c.cls == .routine || c.cls == .urgent) = t
  intro h0
  induction l generalizing t with
  | nil => exact h0
  | cons a l ih => exact ih _ (h.report _ _ (h.markCrossed_keeps _ _ h0))

theorem LinkClosed.setMode_keeps (m : RefreshMode) (hp : P s) : P (s.setMode m) := by
  unfold State.setMode
  split
  · exact hp
  · split
    · exact h.toAuto_keeps _ hp
    · exact h.toHosted_keeps _ hp

theorem LinkClosed.applySettings_keeps (m : Option RefreshMode) (v k : Option CellVal) (hp : P s) :
    P (s.applySettings m v k) := by
  unfold State.applySettings
  cases m <;> cases v <;> cases k <;> simp only <;> first
    | exact h.congr s _ rfl rfl rfl hp
    | exact h.setMode_keeps _ _ (h.congr s _ rfl rfl rfl hp)

theorem LinkClosed.cmd_warmupEnd (hp : P s) : P (warmupEnd s) := by
  simp only [warmupEnd]
  repeat' split
  all_goals
    repeat first
      | with_reducible assumption | with_reducible apply h.settle_keeps | exact h.congr s _ rfl rfl rfl hp

theorem LinkClosed.cmd_loadCompletion (tie : TieOrder) (hp : P s) : P (loadCompletion tie s) := by
  simp only [loadCompletion]
  repeat' split
  all_goals
    repeat first
      | with_reducible assumption | with_reducible apply h.regDiscarded_keeps
      | with_reducible apply h.playLoaded_keeps | with_reducible apply h.rowCompleted_keeps
      | with_reducible apply h.settle_keeps | with_reducible apply h.conclude_keeps
      | with_reducible apply h.mapLr_keeps | exact h.congr s _ rfl rfl rfl hp

theorem LinkClosed.cmd_commitCompletion (tie : TieOrder) (hp : P s) : P (commitCompletion tie s) := by
  simp only [commitCompletion]
  repeat' split
  all_goals
    repeat first
      | with_reducible assumption | with_reducible apply h.regDiscarded_keeps
      | with_reducible apply h.capCommitted_keeps | with_reducible apply h.rowCompleted_keeps
      | with_reducible apply h.settle_keeps | with_reducible apply h.conclude_keeps
      | with_reducible apply h.writeSections_keeps
      | with_reducible apply h.updateRow_keeps | exact h.congr s _ rfl rfl rfl hp

theorem LinkClosed.cmd_copyLoadCompletion (hp : P s) : P (copyLoadCompletion s) := by
  simp only [copyLoadCompletion]
  repeat' split
  all_goals
    repeat first
      | with_reducible assumption | with_reducible apply h.lr4Discarded_keeps
      | with_reducible apply h.rowCompleted_keeps | with_reducible apply h.settle_keeps
      | with_reducible apply h.count_keeps | with_reducible apply h.raiseClaim_keeps
      | with_reducible apply h.setLr_keeps | exact h.congr s _ rfl rfl rfl hp

theorem LinkClosed.cmd_copyCommitCompletion (tie : TieOrder) (hp : P s) : P (copyCommitCompletion tie s) := by
  simp only [copyCommitCompletion]
  repeat' split
  all_goals
    repeat first
      | with_reducible assumption | with_reducible apply h.finish | with_reducible apply h.lr4Discarded_keeps
      | with_reducible apply h.rowCompleted_keeps | with_reducible apply h.settle_keeps
      | with_reducible apply h.conclude_keeps
      | with_reducible apply h.writeSections_keeps | with_reducible apply h.updateRow_keeps
      | with_reducible apply h.setLr_keeps | exact h.congr s _ rfl rfl rfl hp

theorem LinkClosed.cmd_fillCompletion (tie : TieOrder) (hp : P s) : P (fillCompletion tie s) := by
  simp only [fillCompletion]
  repeat' split
  all_goals
    repeat first
      | with_reducible assumption | with_reducible apply h.finish | with_reducible apply h.rowCompleted_keeps
      | with_reducible apply h.settle_keeps | with_reducible apply h.conclude_keeps
      | with_reducible apply h.writeSections_keeps
      | with_reducible apply h.setPhase_keeps | with_reducible apply h.raiseClaim_keeps
      | with_reducible apply h.updateRow_keeps | exact h.congr s _ rfl rfl rfl hp

theorem LinkClosed.cmd_refreshCompletion (tie : TieOrder) (hp : P s) : P (refreshCompletion tie s) := by
  simp only [refreshCompletion]
  repeat' split
  all_goals
    repeat first
      | with_reducible assumption | with_reducible apply h.finish | with_reducible apply h.rowCompleted_keeps
      | with_reducible apply h.settle_keeps | with_reducible apply h.conclude_keeps
      | with_reducible apply h.setPhase_keeps
      | with_reducible apply h.raiseClaim_keeps | exact h.congr s _ rfl rfl rfl hp

theorem LinkClosed.cmd_scrubCompletion (hp : P s) : P (scrubCompletion s) := by
  simp only [scrubCompletion]
  repeat' split
  all_goals
    repeat first
      | with_reducible assumption | with_reducible apply h.initDone_keeps | with_reducible apply h.rowCompleted_keeps
      | with_reducible apply h.settle_keeps | with_reducible apply h.writeSections_keeps
      | with_reducible apply h.updateRow_keeps | exact h.congr s _ rfl rfl rfl hp

theorem LinkClosed.cmd_openCompletion (tie : TieOrder) (hp : P s) : P (openCompletion tie s) := by
  simp only [openCompletion]
  repeat' split
  all_goals
    repeat first
      | with_reducible assumption | with_reducible apply h.finish | with_reducible apply h.startBurst_keeps
      | with_reducible apply h.conclude_keeps | with_reducible apply h.rowCompleted_keeps
      | with_reducible apply h.settle_keeps | with_reducible apply h.openSession_keeps
      | with_reducible apply h.restartIdle_keeps | with_reducible apply h.setCircuit_keeps
      | exact h.congr s _ rfl rfl rfl hp

theorem LinkClosed.cmd_columnBurstEnd (tie : TieOrder) (hp : P s) : P (columnBurstEnd tie s) := by
  simp only [columnBurstEnd]
  repeat' split
  all_goals
    repeat first
      | with_reducible assumption | with_reducible apply h.finish | with_reducible apply h.applyBurst_keeps
      | with_reducible apply h.conclude_keeps | with_reducible apply h.settle_keeps
      | with_reducible apply h.restartIdle_keeps | with_reducible apply h.count_keeps
      | with_reducible apply h.setCircuit_keeps | exact h.congr s _ rfl rfl rfl hp

theorem LinkClosed.cmd_routineThreshold (hp : P s) : P (routineThreshold s) := by
  simp only [routineThreshold]
  repeat' split
  all_goals
    repeat first
      | with_reducible assumption | with_reducible apply h.checkRoutine_keeps | with_reducible apply h.settle_keeps
      | exact h.congr s _ rfl rfl rfl hp

theorem LinkClosed.cmd_urgentCrossing (row : Nat) (hp : P s) : P (urgentCrossing row s) := by
  simp only [urgentCrossing]
  repeat' split
  all_goals
    repeat first
      | with_reducible assumption | with_reducible apply h.report | with_reducible apply h.raiseUrgent_keeps
      | with_reducible apply h.settle_keeps | with_reducible apply h.markCrossed_keeps
      | with_reducible apply h.withdraw_keeps | exact h.congr s _ rfl rfl rfl hp

theorem LinkClosed.cmd_deadline (row : Nat) (hp : P s) : P (deadline row s) := by
  simp only [deadline]
  repeat' split
  all_goals
    repeat first
      | with_reducible assumption | with_reducible apply h.report | with_reducible apply h.settle_keeps
      | with_reducible apply h.raiseClaim_keeps | with_reducible apply h.updateRow_keeps
      | exact h.congr s _ rfl rfl rfl hp

theorem LinkClosed.cmd_identify (tie : TieOrder) (hp : P s) : P (identify tie s) := by
  simp only [identify]
  repeat' split
  all_goals
    repeat first
      | with_reducible assumption | with_reducible apply h.finish | with_reducible apply h.begun_keeps
      | with_reducible apply h.refuse_keeps | exact h.congr s _ rfl rfl rfl hp

theorem LinkClosed.cmd_status (tie : TieOrder) (hp : P s) : P (status tie s) := by
  simp only [status]
  repeat' split
  all_goals
    repeat first
      | with_reducible assumption | with_reducible apply h.finish | with_reducible apply h.begun_keeps
      | with_reducible apply h.refuse_keeps | exact h.congr s _ rfl rfl rfl hp

theorem LinkClosed.cmd_configure (tie : TieOrder) (hp : P s) : P (configure tie s) := by
  simp only [configure]
  repeat' split
  all_goals
    repeat first
      | with_reducible assumption | with_reducible apply h.finish | with_reducible apply h.applySettings_keeps
      | with_reducible apply h.begun_keeps | with_reducible apply h.refuse_keeps | exact h.congr s _ rfl rfl rfl hp

theorem LinkClosed.cmd_openRow (tie : TieOrder) (hp : P s) : P (openRow tie s) := by
  simp only [openRow]
  repeat' split
  all_goals
    repeat first
      | with_reducible assumption | with_reducible apply h.begun_keeps | with_reducible apply h.refuse_keeps
      | with_reducible apply h.setPhase_keeps | with_reducible apply h.raiseClaim_keeps
      | with_reducible apply h.setSlot_keeps | exact h.congr s _ rfl rfl rfl hp

theorem LinkClosed.cmd_close (tie : TieOrder) (hp : P s) : P (close tie s) := by
  simp only [close]
  repeat' split
  all_goals
    repeat first
      | with_reducible assumption | with_reducible apply h.finish | with_reducible apply h.begun_keeps
      | with_reducible apply h.closeHeld_keeps | with_reducible apply h.refuse_keeps
      | with_reducible apply h.freeSession_keeps | exact h.congr s _ rfl rfl rfl hp

theorem LinkClosed.cmd_read (tie : TieOrder) (hp : P s) : P (read tie s) := by
  simp only [read]
  repeat' split
  all_goals
    repeat first
      | with_reducible assumption | with_reducible apply h.columnRequest_keeps | with_reducible apply h.begun_keeps
      | with_reducible apply h.refuse_keeps | exact h.congr s _ rfl rfl rfl hp

theorem LinkClosed.cmd_write (tie : TieOrder) (hp : P s) : P (write tie s) := by
  simp only [write]
  repeat' split
  all_goals
    repeat first
      | with_reducible assumption | with_reducible apply h.columnRequest_keeps | with_reducible apply h.begun_keeps
      | with_reducible apply h.refuse_keeps | exact h.congr s _ rfl rfl rfl hp

theorem LinkClosed.cmd_exchange (tie : TieOrder) (hp : P s) : P (exchange tie s) := by
  simp only [exchange]
  repeat' split
  all_goals
    repeat first
      | with_reducible assumption | with_reducible apply h.columnRequest_keeps | with_reducible apply h.begun_keeps
      | with_reducible apply h.refuse_keeps | exact h.congr s _ rfl rfl rfl hp

theorem LinkClosed.cmd_fillRows (tie : TieOrder) (hp : P s) : P (fillRows tie s) := by
  simp only [fillRows]
  repeat' split
  all_goals
    repeat first
      | with_reducible assumption | with_reducible apply h.begun_keeps | with_reducible apply h.refuse_keeps
      | with_reducible apply h.setPhase_keeps | with_reducible apply h.raiseClaim_keeps
      | exact h.congr s _ rfl rfl rfl hp

theorem LinkClosed.cmd_copyRow (tie : TieOrder) (hp : P s) : P (copyRow tie s) := by
  simp only [copyRow]
  repeat' split
  all_goals
    repeat first
      | with_reducible assumption | with_reducible apply h.startCopy_keeps | with_reducible apply h.begun_keeps
      | with_reducible apply h.refuse_keeps | with_reducible apply h.setPhase_keeps | exact h.congr s _ rfl rfl rfl hp

theorem LinkClosed.cmd_refresh (tie : TieOrder) (hp : P s) : P (refresh tie s) := by
  simp only [refresh]
  repeat' split
  all_goals
    repeat first
      | with_reducible assumption | with_reducible apply h.begun_keeps | with_reducible apply h.refuse_keeps
      | with_reducible apply h.setPhase_keeps | with_reducible apply h.raiseClaim_keeps
      | exact h.congr s _ rfl rfl rfl hp

theorem LinkClosed.cmd_rowQuery (tie : TieOrder) (hp : P s) : P (rowQuery tie s) := by
  simp only [rowQuery]
  repeat' split
  all_goals
    repeat first
      | with_reducible assumption | with_reducible apply h.finish | with_reducible apply h.begun_keeps
      | with_reducible apply h.refuse_keeps | with_reducible apply h.count_keeps | exact h.congr s _ rfl rfl rfl hp

theorem LinkClosed.cmd_streamSetup (tie : TieOrder) (hp : P s) : P (streamSetup tie s) := by
  simp only [streamSetup]
  repeat' split
  all_goals
    repeat first
      | with_reducible assumption | with_reducible apply h.finish | with_reducible apply h.begun_keeps
      | with_reducible apply h.refuse_keeps | with_reducible apply h.mapStr_keeps | exact h.congr s _ rfl rfl rfl hp

theorem LinkClosed.cmd_streamAppend (tie : TieOrder) (hp : P s) : P (streamAppend tie s) := by
  simp only [streamAppend]
  repeat' split
  all_goals
    repeat first
      | with_reducible assumption | with_reducible apply h.finish | with_reducible apply h.appendSegments_keeps
      | with_reducible apply h.begun_keeps | with_reducible apply h.refuse_keeps | exact h.congr s _ rfl rfl rfl hp

theorem LinkClosed.cmd_streamStart (tie : TieOrder) (hp : P s) : P (streamStart tie s) := by
  simp only [streamStart]
  repeat' split
  all_goals
    repeat first
      | with_reducible assumption | with_reducible apply h.finish | with_reducible apply h.startStream_keeps
      | with_reducible apply h.begun_keeps | with_reducible apply h.refuse_keeps | exact h.congr s _ rfl rfl rfl hp

theorem LinkClosed.cmd_streamStop (tie : TieOrder) (hp : P s) : P (streamStop tie s) := by
  simp only [streamStop]
  repeat' split
  all_goals
    repeat first
      | with_reducible assumption | with_reducible apply h.stopStream_keeps | with_reducible apply h.begun_keeps
      | with_reducible apply h.refuse_keeps | exact h.congr s _ rfl rfl rfl hp

theorem LinkClosed.cmd_streamFlush (tie : TieOrder) (hp : P s) : P (streamFlush tie s) := by
  simp only [streamFlush]
  repeat' split
  all_goals
    repeat first
      | with_reducible assumption | with_reducible apply h.finish | with_reducible apply h.begun_keeps
      | with_reducible apply h.refuse_keeps | with_reducible apply h.mapStr_keeps | exact h.congr s _ rfl rfl rfl hp

theorem LinkClosed.cmd_streamQuery (tie : TieOrder) (hp : P s) : P (streamQuery tie s) := by
  simp only [streamQuery]
  repeat' split
  all_goals
    repeat first
      | with_reducible assumption | with_reducible apply h.finish | with_reducible apply h.begun_keeps
      | with_reducible apply h.refuse_keeps | exact h.congr s _ rfl rfl rfl hp

theorem LinkClosed.cmd_playbackEdge (n : StreamId) (hp : P s) : P (playbackEdge n s) := by
  simp only [playbackEdge]
  repeat' split
  all_goals
    repeat first
      | with_reducible assumption | with_reducible apply h.playEdge_keeps | with_reducible apply h.settle_keeps
      | exact h.congr s _ rfl rfl rfl hp

theorem LinkClosed.cmd_captureEdge (n : StreamId) (cell : CellVal) (hp : P s) : P (captureEdge n cell s) := by
  simp only [captureEdge]
  repeat' split
  all_goals
    repeat first
      | with_reducible assumption | with_reducible apply h.capEdge_keeps | with_reducible apply h.settle_keeps
      | exact h.congr s _ rfl rfl rfl hp

theorem LinkClosed.cmd_playbackHoldExpiry (r : LrId) (hp : P s) : P (playbackHoldExpiry r s) := by
  simp only [playbackHoldExpiry]
  repeat' split
  all_goals
    repeat first
      | with_reducible assumption | with_reducible apply h.playExpiry_keeps | with_reducible apply h.settle_keeps
      | exact h.congr s _ rfl rfl rfl hp

theorem LinkClosed.cmd_captureHoldExpiry (r : LrId) (hp : P s) : P (captureHoldExpiry r s) := by
  simp only [captureHoldExpiry]
  repeat' split
  all_goals
    repeat first
      | with_reducible assumption | with_reducible apply h.capExpiry_keeps | with_reducible apply h.settle_keeps
      | exact h.congr s _ rfl rfl rfl hp

theorem LinkClosed.cmd_lr4HoldExpiry (hp : P s) : P (lr4HoldExpiry s) := by
  simp only [lr4HoldExpiry]
  repeat' split
  all_goals
    repeat first
      | with_reducible assumption | with_reducible apply h.finish | with_reducible apply h.emptyReg_keeps
      | with_reducible apply h.settle_keeps | exact h.congr s _ rfl rfl rfl hp

theorem LinkClosed.cmd_idleExpiry (k : SlotId) (hp : P s) : P (idleExpiry k s) := by
  simp only [idleExpiry]
  repeat' split
  all_goals
    repeat first
      | with_reducible assumption | with_reducible apply h.report | with_reducible apply h.freeSession_keeps
      | exact h.congr s _ rfl rfl rfl hp

/-- A command that is not the supply's, HCS_FALL or TRANSACTION_END keeps it. -/
theorem LinkClosed.exec_keeps {i : Instr} {t : State} (hs : i.isSupply = false) (hf : ∀ dt, i ≠ .hcsFall dt)
    (he : ∀ dt bits, i ≠ .transactionEnd dt bits) (hx : exec i s = .next t) (hp : P s) : P t := by
  have adv := fun dt => h.advance_keeps s dt hp
  cases i
  case powerOn | hrstAssert | hrstDeassert | powerLoss => simp [Instr.isSupply] at hs
  case hcsFall dt => exact absurd rfl (hf dt)
  case transactionEnd dt bits => exact absurd rfl (he dt bits)
  case warmupEnd => cases hx; apply h.cmd_warmupEnd; exact adv _
  case loadCompletion => cases hx; apply h.cmd_loadCompletion; exact adv _
  case commitCompletion => cases hx; apply h.cmd_commitCompletion; exact adv _
  case copyLoadCompletion => cases hx; apply h.cmd_copyLoadCompletion; exact adv _
  case copyCommitCompletion => cases hx; apply h.cmd_copyCommitCompletion; exact adv _
  case fillCompletion => cases hx; apply h.cmd_fillCompletion; exact adv _
  case refreshCompletion => cases hx; apply h.cmd_refreshCompletion; exact adv _
  case scrubCompletion => cases hx; apply h.cmd_scrubCompletion; exact adv _
  case openCompletion => cases hx; apply h.cmd_openCompletion; exact adv _
  case columnBurstEnd => cases hx; apply h.cmd_columnBurstEnd; exact adv _
  case routineThreshold => cases hx; apply h.cmd_routineThreshold; exact adv _
  case urgentCrossing =>
    simp only [exec, execUrgentCrossing] at hx
    split at hx <;> cases hx
    exact h.cmd_urgentCrossing _ _ (adv _)
  case deadline =>
    simp only [exec, execDeadline] at hx
    split at hx <;> cases hx
    exact h.cmd_deadline _ _ (adv _)
  case identify => cases hx; apply h.cmd_identify; exact adv _
  case status => cases hx; apply h.cmd_status; exact adv _
  case configure => cases hx; apply h.cmd_configure; exact adv _
  case openRow => cases hx; apply h.cmd_openRow; exact adv _
  case close => cases hx; apply h.cmd_close; exact adv _
  case read => cases hx; apply h.cmd_read; exact adv _
  case write => cases hx; apply h.cmd_write; exact adv _
  case exchange => cases hx; apply h.cmd_exchange; exact adv _
  case fillRows => cases hx; apply h.cmd_fillRows; exact adv _
  case copyRow => cases hx; apply h.cmd_copyRow; exact adv _
  case refresh => cases hx; apply h.cmd_refresh; exact adv _
  case rowQuery => cases hx; apply h.cmd_rowQuery; exact adv _
  case streamSetup => cases hx; apply h.cmd_streamSetup; exact adv _
  case streamAppend => cases hx; apply h.cmd_streamAppend; exact adv _
  case streamStart => cases hx; apply h.cmd_streamStart; exact adv _
  case streamStop => cases hx; apply h.cmd_streamStop; exact adv _
  case streamFlush => cases hx; apply h.cmd_streamFlush; exact adv _
  case streamQuery => cases hx; apply h.cmd_streamQuery; exact adv _
  case playbackEdge => cases hx; apply h.cmd_playbackEdge; exact adv _
  case captureEdge => cases hx; apply h.cmd_captureEdge; exact adv _
  case playbackHoldExpiry =>
    simp only [exec, execPlaybackHoldExpiry] at hx
    split at hx <;> cases hx
    exact h.cmd_playbackHoldExpiry _ _ (adv _)
  case captureHoldExpiry =>
    simp only [exec, execCaptureHoldExpiry] at hx
    split at hx <;> cases hx
    exact h.cmd_captureHoldExpiry _ _ (adv _)
  case lr4HoldExpiry => cases hx; apply h.cmd_lr4HoldExpiry; exact adv _
  case idleExpiry => cases hx; apply h.cmd_idleExpiry; exact adv _

end Sys2Proof.Machine
end

