-- ==== Sys2Proof/Tests/Slice0.lean ====
section
/-! SUPPORT. The model's own tests: ill-formed commands refused, the spec's worked values, one step of each command, and
for every statement with hypotheses a state and operands that meet them. -/

namespace Sys2Proof.Tests

-- One theorem at a time: each `decide` waits for the kernel, and its thread's stack is large.
set_option Elab.async false

open Sys2Proof.Machine

/-! ## Small states -/

/-- The part after INIT, at 20 ms, every row just refreshed, nothing going on. -/
def quiet : State :=
  { State.reset with
    clock := 20000000
    rat :=
      { state := .ready
        memory := { cells := [], undefinedRows := [], epoch := 0 }
        table := List.replicate 512 ⟨false, false, 20000000, false⟩
        lossFill := 0x4444 }
    rfe := { mode := .auto, order := List.range 512, scrubList := [] }
    arb := { circuit := .free, claims := [], preferred := .s0 } }

/-- The state after a command, itself where the command stops. -/
def after (i : Instr) (s : State) : State :=
  match exec i s with
  | .next t => t
  | _ => s

/-- A request of tag 1 waits to be begun. -/
def asked (s : State) (k : RequestKind) (payload : List Byte) : State :=
  { s with rqe := { queue := [⟨1, k, payload⟩], tags := [1], phase := .free } }

/-- A request of tag 1 is in execution. -/
def during (s : State) (k : RequestKind) (phase : Phase) : State :=
  { s with rqe := { queue := [⟨1, k, []⟩], tags := [1], phase := phase } }

/-- The operation of a claim, granted 250 ns before 20 ms, with all sections and the value 0x55. -/
def operation (c : Claim) : Operation :=
  { claim := c, grantedAt := 19999750, sections := 0xF, value := 0x55, sourceLost := false, discarded := false }

/-- The claim's operation is in flight and due now. -/
def inFlight (s : State) (c : Claim) : State :=
  s.setCircuit (.operating (operation c))

/-- A row's entry is replaced. -/
def withRow (s : State) (r : Nat) (e : RowEntry) : State :=
  s.updateRow r fun _ => e

/-- Half a row with a mark, played once: two sections from column 64. -/
def seg : Segment := { row := 7, first := 1, count := 2, repeats := 1, mark := some 0xA5 }

/-- A register that holds `seg`. -/
def holding (st : LrState) (position : Nat) : LineReg :=
  { LineReg.atInit with state := st, segment := some seg, position := position, passesLeft := 1, holdTimer := some 20000000 }

/-- A stream record of a direction, in a state. -/
def streamIn (d : Direction) (st : StreamState) : StreamRec :=
  { StreamRec.atInit with direction := d, state := st, fill := 0xFFFF, taken := 5 }

/-- Stream 0 with its register LR0 holding `seg`. -/
def streaming (d : Direction) (st : StreamState) (lr : LrState) (position : Nat) : State :=
  (quiet.setStr .s0 (streamIn d st)).setLr .lr0 (holding lr position)

/-- Slot 0 in use with generation 1 on row 3, PARKED, its hold begun 20 ms in. -/
def session : State :=
  quiet.setSlot .k0
    { inUse := true, generation := 1, row := 3, state := .parked, holdStart := 20000000, idleTimer := some 20000000 }

/-- The same, OPEN with its row held. -/
def heldSession : State :=
  (session.setSlot .k0
    { inUse := true, generation := 1, row := 3, state := .opened, holdStart := 20000000, idleTimer := some 20000000 })
    |>.setCircuit (.held .k0 3)

/-- A transaction in progress whose IDLE frame the host reads. -/
def talking (s : State) : State :=
  { s with hlc := { s.hlc with hcsHigh := false, txn := some ⟨false, frameBytes 0 .none 0 []⟩ } }

/-- A request frame with its check value (R149, R150). -/
def requestFrame (tag kind : Byte) (payload : List Byte) : List Byte :=
  let covered := natByte payload.length :: tag :: kind :: payload
  0xC3 :: covered ++ cellBytes (crc covered)

/-- The levels of HDI that carry the bytes (R147). -/
def bitsOf (bytes : List Byte) : List Bool :=
  bytes.flatMap fun b => (List.range 8).map b.getMsbD

/-! ## Ill-formed commands -/

theorem test_wf_urgentCrossing :
    Instr.wellFormed (.urgentCrossing 0 511) = true ∧ Instr.wellFormed (.urgentCrossing 0 512) = false := by
  decide
theorem test_wf_deadline : Instr.wellFormed (.deadline 0 511) = true ∧ Instr.wellFormed (.deadline 0 512) = false := by
  decide
theorem test_wf_playbackHoldExpiry :
    Instr.wellFormed (.playbackHoldExpiry 0 .lr3) = true ∧ Instr.wellFormed (.playbackHoldExpiry 0 .lr4) = false := by
  decide
theorem test_wf_captureHoldExpiry :
    Instr.wellFormed (.captureHoldExpiry 0 .lr0) = true ∧ Instr.wellFormed (.captureHoldExpiry 0 .lr4) = false := by
  decide
theorem test_illFormed_faults : exec (.deadline 0 512) quiet = .fault .noSuchRow
    ∧ exec (.captureHoldExpiry 0 .lr4) quiet = .fault .notAStreamRegister := by
  exact ⟨rfl, rfl⟩

/-! ## Worked values of the spec -/

/-- R150: for the nine bytes 0x31 to 0x39 the check value is 0x29B1. -/
theorem test_crc_worked_value : crc [0x31, 0x32, 0x33, 0x34, 0x35, 0x36, 0x37, 0x38, 0x39] = 0x29B1 := by decide +kernel
theorem test_no_word_spells_a_command : decodeTableWord 32 0x12345678 = none := rfl

/-! ## One step of each command: values from the spec's rules -/

/-- R15: POWER_ON begins INIT with every row LOST and the warm-up from this moment. -/
theorem test_powerOn : (after (.powerOn 7) { quiet with powered := false }).arb.circuit = .warmup (some 20000007)
    ∧ ((after (.powerOn 7) { quiet with powered := false }).row 511).lost = true := by decide +kernel

/-- R16: nothing runs while HRST is asserted. -/
theorem test_hrstAssert : (after (.hrstAssert 0) (inFlight quiet ⟨.refresh, 3, .requestEngine, .host⟩)).arb.circuit
    = .warmup none := by decide +kernel

/-- R15: the deassertion starts the warm-up. -/
theorem test_hrstDeassert : (after (.hrstDeassert 5) { quiet with hrst := true }).arb.circuit = .warmup (some 20000005)
    ∧ (after (.hrstDeassert 5) { quiet with hrst := true }).live = true := by decide +kernel

/-- R3: a supply loss makes the part inert. -/
theorem test_powerLoss : (after (.powerLoss 0) quiet).live = false := by decide +kernel

/-- R17: 2,000 ns after the start row 0 is scrubbed first; a ns earlier nothing happens. -/
theorem test_warmupEnd :
    ((after (.warmupEnd 2000) State.reset).inFlight.map fun op => (op.claim.row, op.value)) = some (0, 0)
    ∧ (after (.warmupEnd 1999) State.reset).arb.circuit = .warmup (some 0) := by decide +kernel

/-- R59: a load makes its register LOADED and a PRIMING stream READY. -/
theorem test_loadCompletion :
    let s := inFlight (streaming .playback .priming .loading 0) ⟨.load, 7, .register .lr0, .stream⟩
    ((after (.loadCompletion ⟨0, .closeFirst⟩) s).lr .lr0).state = .loaded
      ∧ ((after (.loadCompletion ⟨0, .closeFirst⟩) s).str .s0).state = .ready
    := by decide +kernel

/-- R5, R115: a commit writes the register's cells and counts the segment of 128 cells. -/
theorem test_commitCompletion :
    let s := (inFlight (streaming .capture .running .committing 128) ⟨.commit, 7, .register .lr0, .stream⟩).setLr .lr0
      { holding .committing 128 with content := List.replicate 256 9, filled := 0x6 }
    (after (.commitCompletion ⟨0, .closeFirst⟩) s).rat.memory.read 7 64 = 9
      ∧ ((after (.commitCompletion ⟨0, .closeFirst⟩) s).str .s0).counters.completed = 1 := by decide +kernel

/-- R72: the copy's load claims the commit to the destination, granted at once. -/
theorem test_copyLoadCompletion :
    let s := (inFlight (during quiet .copyRow .copying) ⟨.copyLoad, 3, .requestEngine, .host⟩).setLr .lr4
      { LineReg.atInit with state := .loading, copy := some ⟨3, 511, 0, 4⟩ }
    ((after (.copyLoadCompletion 0) s).inFlight.map fun op => (op.claim.kind, op.claim.row))
      = some (.copyCommit 0xF, 511) := by decide +kernel

/-- R12, R142: a copy of a row that was LOST makes the destination LOST, and the reply says SOURCE_LOST. -/
theorem test_copyCommitCompletion :
    let s := (during quiet .copyRow .copying).setCircuit
      (.operating { operation ⟨.copyCommit 0xF, 511, .requestEngine, .host⟩ with sourceLost := true })
    ((after (.copyCommitCompletion ⟨0, .closeFirst⟩) s).row 511).lost = true
      ∧ (after (.copyCommitCompletion ⟨0, .closeFirst⟩) s).hlc.outq = [.reply 1 .ok 2 []] := by decide +kernel

/-- R140: after the last row of a fill the reply counts the rows. -/
theorem test_fillCompletion :
    let s := inFlight (during quiet .fillRows (.filling 3 4 4 0x1234 0x1)) ⟨.fill 0x1234 0x1, 4, .requestEngine, .host⟩
    (after (.fillCompletion ⟨0, .closeFirst⟩) s).hlc.outq = [.reply 1 .ok 0 [0, 2]]
      ∧ (after (.fillCompletion ⟨0, .closeFirst⟩) s).rat.memory.read 4 63 = 0x1234 := by decide +kernel

/-- R32: a refresh of rows 3 and 4 goes on with row 4. -/
theorem test_refreshCompletion :
    let s := inFlight (during quiet .refresh (.refreshing 3 4 3)) ⟨.refresh, 3, .requestEngine, .host⟩
    ((after (.refreshCompletion ⟨0, .closeFirst⟩) s).inFlight.map fun op => op.claim.row) = some 4 := by decide +kernel

/-- R47, R163: with a request waiting and its claim to be taken first, the last row's completion makes no grant. -/
theorem test_refreshCompletion_raiseFirst :
    let c : Claim := ⟨.refresh, 4, .requestEngine, .host⟩
    let s := inFlight (during quiet .refresh (.refreshing 4 4 4)) c
    let s := { s with
      rqe := { s.rqe with queue := s.rqe.queue ++ [⟨2, .identify, []⟩] }
      arb := { s.arb with claims := [⟨.refresh, 0, .refreshEngine, .routine⟩] } }
    (after (.refreshCompletion ⟨0, .raiseFirst⟩) s).arb.circuit = .free
      ∧ ((after (.refreshCompletion ⟨0, .closeFirst⟩) s).inFlight.map fun op => op.claim.cls) = some .routine := by
  decide +kernel

/-- R18: the scrub of row 511 ends INIT. -/
theorem test_scrubCompletion :
    let s := inFlight { quiet with rat := { quiet.rat with state := .init } } ⟨.scrub, 511, .rowTable, .scrub⟩
    (after (.scrubCompletion 0) s).rat.state = .ready
      ∧ (after (.scrubCompletion 0) s).hlc.outq = [.notice .initDone] := by decide +kernel

/-- R131: the reply carries the handle; with no further request the row is closed. -/
theorem test_openCompletion :
    let s := inFlight (during session .openRow (.opening .k0)) ⟨.openRow, 3, .requestEngine, .host⟩
    (after (.openCompletion 0 .closeFirst) s).hlc.outq = [.reply 1 .ok 0 [0, 1]]
      ∧ (after (.openCompletion 0 .closeFirst) s).arb.circuit = .free := by decide +kernel

/-- R133: an EXCHANGE returns the old cell and writes the new one. -/
theorem test_columnBurstEnd :
    let s := (during heldSession .exchange .bursting).setCircuit
      (.bursting (some .k0) 3 ⟨.exchange, 255, 1, [0xBEEF]⟩ 19999960)
    (after (.columnBurstEnd 0 .closeFirst) s).hlc.outq = [.reply 1 .ok 0 [0, 0]]
      ∧ (after (.columnBurstEnd 0 .closeFirst) s).rat.memory.read 3 255 = 0xBEEF := by decide +kernel

/-- R23: at exactly 4.0 ms the head row is claimed; a ns earlier it is not. -/
theorem test_routineThreshold :
    ((after (.routineThreshold 4000000) quiet).inFlight.map fun op => op.claim) = some ⟨.refresh, 0, .refreshEngine, .routine⟩
      ∧ (after (.routineThreshold 3999999) quiet).arb.circuit = .free := by decide +kernel

/-- R24, R26: an URGENT claim in AUTO, a notice in HOSTED. -/
theorem test_urgentCrossing :
    ((after (.urgentCrossing 7000000 511) quiet).inFlight.map fun op => op.claim.cls) = some .urgent
      ∧ (after (.urgentCrossing 7000000 511) { quiet with rfe := { quiet.rfe with mode := .hosted } }).hlc.outq
        = [.notice (.rowAging 511)] := by decide +kernel

/-- R29: a lost row is reported, and its scrub writes the loss fill value. -/
theorem test_deadline :
    (after (.deadline 8000000 511) quiet).hlc.outq = [.notice (.rowLost 511)]
      ∧ ((after (.deadline 8000000 511) quiet).inFlight.map fun op => (op.claim.kind, op.value)) = some (.scrub, 0x4444)
    := by decide +kernel

/-- R154: the IDLE frame is SYNC, a length of 0, the report, type 0 and the check value. -/
theorem test_hcsFall :
    ((after (.hcsFall 0) quiet).hlc.txn.map fun x => x.frame.take 5) = some [0xC3, 0x00, 0x00, 0x00, 0x00] := by
  decide +kernel

/-- R147, R151, R152: an IDENTIFY of tag 9 is accepted, three more bits or not; the same frame cut by a bit is
BAD_LENGTH. -/
theorem test_transactionEnd :
    let bits := bitsOf (requestFrame 9 0x01 [])
    (after (.transactionEnd 0 bits) (talking quiet)).rqe.queue = [⟨9, .identify, []⟩]
      ∧ (after (.transactionEnd 0 (bits ++ [true, false, true])) (talking quiet)).rqe.queue = [⟨9, .identify, []⟩]
      ∧ (after (.transactionEnd 0 bits.dropLast) (talking quiet)).hlc.admResult = .badLength := by
  decide +kernel

/-- R173: a RESET leaves its own reply alone in the queue and its tag alone outstanding. -/
theorem test_reset :
    let t := after (.transactionEnd 0 (bitsOf (requestFrame 9 0x04 []))) (talking heldSession)
    t.hlc.outq = [.reply 9 .ok 0 []] ∧ t.rqe.tags = [9] ∧ (t.slot .k0).inUse = false ∧ (t.slot .k0).generation = 1 := by
  decide +kernel

/-- R170. -/
theorem test_identify : (after (.identify ⟨0, .closeFirst⟩) (asked quiet .identify [])).hlc.outq
    = [.reply 1 .ok 0 [0x4B, 0x25, 0x16, 0x01, 0x02, 0x00, 0x01, 0x00, 0x05]] := by decide +kernel

/-- R171: a payload where none belongs is BAD_PAYLOAD; STATUS counts itself as outstanding. -/
theorem test_status : (after (.status ⟨3000, .closeFirst⟩) (asked quiet .status [])).hlc.outq
    = [.reply 1 .ok 0 [0x01, 0x00, 0, 0, 0, 3, 0x00, 0x00, 0, 1, 0, 0]]
      ∧ (after (.status ⟨0, .closeFirst⟩) (asked quiet .status [0])).hlc.outq = [.reply 1 .badPayload 0 []] := by decide +kernel

/-- R172: an empty CONFIGURE reads the settings; an eleventh mask bit is RANGE. -/
theorem test_configure : (after (.configure ⟨0, .closeFirst⟩) (asked quiet .configure [0x00])).hlc.outq
    = [.reply 1 .ok 0 [0x00, 0x44, 0x44, 0x03, 0xFF]]
      ∧ (after (.configure ⟨0, .closeFirst⟩) (asked quiet .configure [0x04, 0x04, 0x00])).hlc.outq = [.reply 1 .range 0 []] := by
  decide +kernel

/-- R130: the first OPEN takes slot 0 with generation 1; row 512 is RANGE. -/
theorem test_openRow : ((after (.openRow ⟨0, .closeFirst⟩) (asked quiet .openRow [0x01, 0xFF])).slot .k0).generation = 1
    ∧ (after (.openRow ⟨0, .closeFirst⟩) (asked quiet .openRow [0x02, 0x00])).hlc.outq = [.reply 1 .range 0 []] := by decide +kernel

/-- R129, R138: a handle of an older generation names no session. -/
theorem test_close : ((after (.close ⟨0, .closeFirst⟩) (asked session .close [0, 1])).slot .k0).inUse = false
    ∧ (after (.close ⟨0, .closeFirst⟩) (asked session .close [0, 0])).hlc.outq = [.reply 1 .noSession 0 []] := by decide +kernel

/-- R132: a READ on the held row starts its burst; 65 cells are RANGE. -/
theorem test_read :
    (after (.read 0 .closeFirst) (asked heldSession .read [0, 1, 192, 64])).arb.circuit
      = .bursting (some .k0) 3 ⟨.read, 192, 64, []⟩ 20000000
    ∧ (after (.read 0 .closeFirst) (asked heldSession .read [0, 1, 0, 65])).hlc.outq = [.reply 1 .range 0 []] := by
  decide +kernel

/-- R134, R177: option bit 0 marks the mask present. -/
theorem test_write :
    (after (.write 0 .closeFirst) (asked heldSession .write [0, 1, 5, 1, 1, 0x00, 0xFF, 0x12, 0x34])).arb.circuit
      = .bursting (some .k0) 3 ⟨.write (some 0x00FF), 5, 1, [0x1234]⟩ 20000000 := by decide +kernel

/-- R132: on a parked session the row is claimed again. -/
theorem test_exchange :
    ((after (.exchange 0 .closeFirst) (asked session .exchange [0, 1, 5, 1, 0x12, 0x34])).inFlight.map fun op => op.claim)
      = some ⟨.openRow, 3, .requestEngine, .host⟩ := by decide +kernel

/-- R140: a mask of no section is RANGE. -/
theorem test_fillRows :
    ((after (.fillRows ⟨0, .closeFirst⟩) (asked quiet .fillRows [0, 3, 0, 4, 0x12, 0x34, 0x5])).inFlight.map fun op => op.claim)
      = some ⟨.fill 0x1234 0x5, 3, .requestEngine, .host⟩
    ∧ (after (.fillRows ⟨0, .closeFirst⟩) (asked quiet .fillRows [0, 3, 0, 4, 0x12, 0x34, 0])).hlc.outq = [.reply 1 .range 0 []] := by
  decide +kernel

/-- R40, R47: raised at the event that left the circuit FREE, a FILL goes before a ROUTINE refresh. -/
theorem test_fillRows_beforeRoutine :
    let s := asked quiet .fillRows [0, 3, 0, 4, 0x12, 0x34, 0x5]
    let s := { s with arb := { s.arb with claims := [⟨.refresh, 0, .refreshEngine, .routine⟩] } }
    ((after (.fillRows ⟨0, .closeFirst⟩) s).inFlight.map fun op => op.claim.cls) = some .host := by decide +kernel

/-- R72: the copy's load of the source starts. -/
theorem test_copyRow :
    ((after (.copyRow ⟨0, .closeFirst⟩) (asked quiet .copyRow [0, 3, 1, 0xFF, 2, 2])).lr .lr4).copy = some ⟨3, 511, 2, 2⟩ := by
  decide +kernel

/-- R32: the first row is claimed. -/
theorem test_refresh :
    ((after (.refresh ⟨0, .closeFirst⟩) (asked quiet .refresh [0, 3, 1, 0xFF])).inFlight.map fun op => op.claim)
      = some ⟨.refresh, 3, .requestEngine, .host⟩ := by decide +kernel

/-- R34: first + count of 513 is RANGE. -/
theorem test_rowQuery :
    (after (.rowQuery ⟨2999, .closeFirst⟩) (asked (withRow quiet 511 ⟨true, true, 20000000, false⟩) .rowQuery [0x01, 0xFF, 1])).hlc.outq
      = [.reply 1 .ok 0 [3, 0, 2]]
    ∧ (after (.rowQuery ⟨0, .closeFirst⟩) (asked quiet .rowQuery [0x01, 0xFF, 2])).hlc.outq = [.reply 1 .range 0 []] := by
  decide +kernel

/-- R82: a set-up stream is IDLE. -/
theorem test_streamSetup :
    let x := (after (.streamSetup ⟨0, .closeFirst⟩) (asked quiet .streamSetup [1, 2, 1, 0xAB, 0xCD, 1])).str .s1
    x.direction = .capture ∧ x.state = .idle ∧ x.fill = 0xABCD ∧ x.cyclic = true := by decide +kernel

/-- R83: a marked record's row is without bit 15; the reply carries queue length and held segments. -/
theorem test_streamAppend :
    let s := asked (quiet.setStr .s0 (streamIn .playback .idle)) .streamAppend [0, 1, 0x80, 7, 1, 2, 1, 0xA5]
    ((after (.streamAppend ⟨0, .closeFirst⟩) s).str .s0).queue = [seg]
      ∧ (after (.streamAppend ⟨0, .closeFirst⟩) s).hlc.outq = [.reply 1 .ok 0 [1, 0]]
    := by decide +kernel

/-- R87: the even-numbered register takes first and its load is granted. -/
theorem test_streamStart :
    let s := asked (quiet.setStr .s0 { streamIn .playback .idle with queue := [seg] }) .streamStart [0]
    ((after (.streamStart ⟨0, .closeFirst⟩) s).inFlight.map fun op => op.claim) = some ⟨.load, 7, .register .lr0, .stream⟩
      ∧ ((after (.streamStart ⟨0, .closeFirst⟩) s).str .s0).state = .priming := by decide +kernel

/-- R103: a segment not begun returns to the head of the queue, and the stream stops at once. -/
theorem test_streamStop :
    let s := asked (streaming .playback .ready .loaded 0) .streamStop [0, 0]
    ((after (.streamStop ⟨0, .closeFirst⟩) s).str .s0).queue = [seg]
      ∧ (after (.streamStop ⟨0, .closeFirst⟩) s).hlc.outq = [.reply 1 .ok 0 [], .notice (.streamStopped .s0 .now)] := by decide +kernel

/-- R104, R180: in STARVED the waited segment is dropped by the stop, met by an edge since an ALIGN drop or not. -/
theorem test_streamStop_starved :
    let s := asked (streaming .playback .starved .loading 0) .streamStop [0, 0]
    ((after (.streamStop ⟨0, .closeFirst⟩) s).str .s0).queue = []
      ∧ (after (.streamStop ⟨0, .closeFirst⟩) s).hlc.outq = [.notice (.streamUnderrun .s0 7 0 .dropped),
        .reply 1 .ok 0 [], .notice (.streamStopped .s0 .now)] := by decide +kernel

/-- R85. -/
theorem test_streamFlush :
    let s := asked (quiet.setStr .s0 { streamIn .playback .idle with queue := [seg] }) .streamFlush [0]
    (after (.streamFlush ⟨0, .closeFirst⟩) s).hlc.outq = [.reply 1 .ok 0 [1]] := by decide +kernel

/-- R178: 48 bytes, the current segment after the ninth. -/
theorem test_streamQuery :
    ((after (.streamQuery ⟨0, .closeFirst⟩) (asked (streaming .playback .running .active 100) .streamQuery [0])).hlc.outq.map fun f =>
      match f with
      | .reply _ _ _ data => (data.length, (data.drop 9).take 6)
      | _ => (0, [])) = [(48, [1, 0, 7, 0, 100, 1])] := by decide +kernel

/-- R89: the first cell of a marked segment raises SMK and gives SEGMENT_MARK; the segment begins at column 64. -/
theorem test_playbackEdge :
    let s := (streaming .playback .ready .loaded 0).setLr .lr0
      { holding .loaded 0 with content := (List.range 256).map (BitVec.ofNat 16) }
    ((after (.playbackEdge 0 .s0) s).str .s0).sd = some 64 ∧ ((after (.playbackEdge 0 .s0) s).str .s0).smk = true
      ∧ (after (.playbackEdge 0 .s0) s).hlc.outq = [.notice (.segmentMark .s0 0xA5 7)] := by decide +kernel

/-- R66: the 64th cell fills the segment's first section, section 1. -/
theorem test_captureEdge :
    let t := after (.captureEdge 0 .s0 0x1234) (streaming .capture .running .active 63)
    (t.lr .lr0).filled = 0x2 ∧ (t.lr .lr0).content.getD 127 0 = 0x1234 := by decide +kernel

/-- R63: 50 µs after its last restart the register is STALE and its reload granted. -/
theorem test_playbackHoldExpiry :
    ((after (.playbackHoldExpiry 50000 .lr0) (streaming .playback .running .active 3)).lr .lr0).state = .loading
    ∧ ((after (.playbackHoldExpiry 49999 .lr0) (streaming .playback .running .active 3)).lr .lr0).state = .active := by
  decide +kernel

/-- R121: the cells given up are counted and reported. -/
theorem test_captureHoldExpiry :
    let t := after (.captureHoldExpiry 50000 .lr0) (streaming .capture .running .active 3)
    t.hlc.outq = [.notice (.segmentAbandoned .s0 7 .stale 3), .notice (.streamDrained .s0)]
      ∧ (t.str .s0).counters.discarded = 3 := by decide +kernel

/-- R73. -/
theorem test_lr4HoldExpiry :
    let s := (during quiet .copyRow .copying).setLr .lr4 { LineReg.atInit with state := .loaded, holdTimer := some 20000000 }
    (after (.lr4HoldExpiry 50000) s).hlc.outq = [.reply 1 .stale 0 []] := by decide +kernel

/-- R139: the slot is free 2.0 ms after its last restart. -/
theorem test_idleExpiry :
    (after (.idleExpiry 2000000 .k0) session).hlc.outq = [.notice (.sessionExpired .k0 1)]
      ∧ ((after (.idleExpiry 1999999 .k0) session).slot .k0).inUse = true := by decide +kernel

/-! ## Witnesses: states and operands that meet the hypotheses of each statement, clause by clause -/

/-- A claim of each kind on row 511, the last of the array: a fill and a copy over all sections and over one. -/
def claims511 : List Claim :=
  [⟨.load, 511, .register .lr0, .stream⟩, ⟨.commit, 511, .register .lr0, .stream⟩,
    ⟨.refresh, 511, .refreshEngine, .urgent⟩, ⟨.scrub, 511, .rowTable, .scrub⟩, ⟨.openRow, 511, .requestEngine, .host⟩,
    ⟨.fill 0x1234 0xF, 511, .requestEngine, .host⟩, ⟨.fill 0x1234 0x8, 511, .requestEngine, .host⟩,
    ⟨.copyLoad, 511, .requestEngine, .host⟩, ⟨.copyCommit 0xF, 511, .requestEngine, .host⟩,
    ⟨.copyCommit 0x8, 511, .requestEngine, .host⟩]

theorem placed_of_nil {s : State} (h : s.arb.claims = []) : s.streamClaimsPlaced := by
  intro c hc
  simp [h] at hc

theorem witness_StepRunsFrontCommand :
    ({ quiet with pending := [.identify ⟨5, .closeFirst⟩] } : State).pending = .identify ⟨5, .closeFirst⟩ :: []
      ∧ quiet.pending = [] := ⟨rfl, rfl⟩

theorem witness_EveryCommandOfThePartCompletes :
    Instr.wellFormed (.urgentCrossing 0 511) = true ∧ Instr.wellFormed (.urgentCrossing 0 512) = false := by decide

theorem witness_InertPartIgnoresCommands :
    Instr.wellFormed (.deadline 5 511) = true ∧ Instr.isSupply (.deadline 5 511) = false
      ∧ ({ quiet with hrst := true } : State).live = false
        ∧ ({ quiet with powered := false } : State).live = false := by
  decide

theorem witness_PowerUpInitialises :
    ({ quiet with powered := false } : State).hrst = false
      ∧ ({ quiet with hrst := true } : State).powered = true ∧ ({ quiet with hrst := true } : State).hrst = true := by
  decide

theorem witness_ResetAndPowerLossStopThePart :
    ((Instr.hrstAssert 3 = .hrstAssert 3 ∧ quiet.powered = true ∧ quiet.hrst = false)
        ∨ Instr.hrstAssert 3 = .powerLoss 3)
      ∧ ((Instr.powerLoss 3 = .hrstAssert 3 ∧ quiet.powered = true ∧ quiet.hrst = false)
        ∨ Instr.powerLoss 3 = .powerLoss 3) := by
  decide

theorem witness_WarmupEndStartsInitialScrub :
    let s := State.reset
    s.live = true ∧ s.arb.circuit = .warmup (some 0) ∧ 0 + 2000 ≤ s.clock + 2000 ∧ s.arb.claims = []
      ∧ s.rfe.scrubList = 0 :: (List.range 512).tail ∧ s.rat.state = .init := by
  decide +kernel

theorem witness_CompletionUpdatesRowTable :
    ∀ c ∈ claims511, (inFlight quiet c).due 0 (operation c) ∧ c.wellPlaced = true
      ∧ (inFlight quiet c).rat.table.length = 512 ∧ c.row < 512 ∧ c.row ∈ (inFlight quiet c).rfe.order := by
  unfold State.due; decide +kernel

theorem witness_CompletionWritesItsSections :
    ∀ c ∈ claims511, (inFlight quiet c).due 0 (operation c) ∧ c.wellPlaced = true ∧ c.row < 512 := by
  unfold State.due; decide +kernel

/-- The load of LR0 is in flight and due, its stream PRIMING, with the source row 7 LOST. -/
def loadDue : State :=
  withRow (inFlight (streaming .playback .priming .loading 0) ⟨.load, 7, .register .lr0, .stream⟩) 7
    ⟨true, false, 20000000, false⟩

theorem witness_LoadCompletionFillsRegister :
    let c : Claim := ⟨.load, 7, .register .lr0, .stream⟩
    loadDue.due 0 (operation c) ∧ c.kind = .load ∧ c.claimant = .register .lr0 ∧ streamOf .lr0 = some .s0
      ∧ (loadDue.lr .lr0).segment = some seg ∧ (loadDue.lr .lr0).discardPending ≠ some .load
      ∧ loadDue.claimPending .lr0 = false := by
  unfold State.due; decide +kernel

/-- A PRIMING stream with a LOST row, and STARVED ones under HOLD and under ALIGN with two cells left. -/
theorem witness_LoadCompletionServesStream :
    let c : Claim := ⟨.load, 7, .register .lr0, .stream⟩
    let hold := inFlight (streaming .playback .starved .loading 5) c
    let align := (inFlight (streaming .playback .starved .loading 126) c).setStr .s0
      { streamIn .playback .starved with policy := .align }
    ∀ s ∈ [loadDue, hold, align], s.due 0 (operation c) ∧ (s.lr .lr0).segment = some seg
      ∧ (s.lr .lr0).discardPending ≠ some .load ∧ s.playCurrent .s0 = some .lr0 := by
  unfold State.due; decide +kernel

/-- LR0 was emptied while an operation of it was in flight; its stream has a record. -/
def discarding (k : ClaimKind) (x : StreamRec) : State :=
  ((inFlight quiet ⟨k, 7, .register .lr0, .stream⟩).setLr .lr0
    { LineReg.atInit with discardPending := k.discardKind }).setStr .s0 x

/-- An empty queue; a playback and a capture stream that take; a stop, with the other register free and not. -/
theorem witness_DiscardedCompletionFreesRegister :
    let free := fun k => discarding k (streamIn .playback .idle)
    let takes := discarding .load { streamIn .playback .starved with queue := [seg] }
    let receives := discarding .commit { streamIn .capture .overrun with queue := [seg] }
    let stops := during (discarding .load { streamIn .playback .stopping with stopRequest := some .now }) .streamStop
      (.stopping .s0)
    let waits := stops.setLr .lr1 { LineReg.atInit with discardPending := some .load }
    ((∀ x ∈ [(ClaimKind.load, free .load), (.commit, free .commit), (.load, takes), (.commit, receives), (.load, stops),
        (.load, waits)],
      x.2.due 0 (operation ⟨x.1, 7, .register .lr0, .stream⟩) ∧ streamOf .lr0 = some .s0
        ∧ (x.2.lr .lr0).discardPending = x.1.discardKind ∧ x.2.claimPending .lr0 = false
        ∧ (x.2.lr .lr0).state = .empty)
    ∧ (∀ k ∈ [ClaimKind.load, .commit], ((free k).str .s0).queue = [] ∧ ((free k).str .s0).state ≠ .stopping)
    ∧ ((takes.str .s0).direction = .playback ∧ (takes.str .s0).stopRequest = none ∧ (takes.str .s0).state = .starved
      ∧ takes.claimPending LrId.lr0.partner = false)
    ∧ (receives.mayReceive .s0 (receives.str .s0) ∧ receives.claimPending LrId.lr0.partner = false)
    ∧ ∀ s ∈ [stops, waits], (s.str .s0).state = .stopping ∧ (s.str .s0).stopRequest = some .now
      ∧ s.rqe.phase = .stopping .s0 ∧ s.rqe.queue = ⟨1, .streamStop, []⟩ :: []
      ∧ (s.lr LrId.lr0.partner).isFree = (s.lr .lr1 == LineReg.atInit))
    ∧ receives.streamClaimsPlaced := by
  refine ⟨?_, placed_of_nil (by decide +kernel)⟩
  unfold State.due State.mayReceive; decide +kernel

/-- The COMMIT of LR0 is in flight and due at a position of its segment of 128 cells, for a capture stream. -/
def commitDue (position : Nat) (x : StreamRec) : State :=
  (inFlight ((streaming .capture .running .committing position).setStr .s0 x) ⟨.commit, 7, .register .lr0, .stream⟩)

/-- Stream 0's record after the finish of the segment of LR0. -/
def finished (s : State) : StreamRec :=
  (s.str .s0).afterFinish ⟨(s.lr .lr0).takeSeq, seg⟩
    (s.takesHeld .s0 (some .lr0) ++ ((s.str .s0).overrunSegment.map Taken.seq).toList)

/-- A full range and a stop commit with no segment to take; a take at an overrun boundary, and in a ring that was
drained; a stop, with the other register free and not. -/
theorem witness_CommitCompletionEndsSegment :
    let ends := fun position => commitDue position (streamIn .capture .drained)
    let takes := commitDue 128 { streamIn .capture .overrun with queue := [seg] }
    let ring := commitDue 128 { streamIn .capture .drained with cyclic := true }
    let stops := during (commitDue 127 { streamIn .capture .stopping with stopRequest := some .now }) .streamStop
      (.stopping .s0)
    let waits := stops.setLr .lr1 { LineReg.atInit with discardPending := some .commit }
    ((∀ s ∈ [ends 128, ends 127, takes, ring, stops, waits],
      s.due 0 (operation ⟨.commit, 7, .register .lr0, .stream⟩) ∧ streamOf .lr0 = some .s0
        ∧ (s.lr .lr0).segment = some seg ∧ (s.lr .lr0).discardPending ≠ some .commit ∧ (s.lr .lr0).state ≠ .active
        ∧ s.claimPending .lr0 = false ∧ (s.str .s0).copiesInOrder ∧ s.arb.claims = [])
    ∧ (∀ p ∈ [128, 127], (finished (ends p)).queue = [] ∧ ((ends p).str .s0).state ≠ .stopping)
    ∧ (∀ s ∈ [takes, ring], s.mayReceive .s0 (finished s) ∧ (finished s).queue = [seg]
      ∧ s.claimPending LrId.lr0.partner = false)
    ∧ ∀ s ∈ [stops, waits], (s.str .s0).state = .stopping ∧ (s.str .s0).stopRequest = some .now
      ∧ s.rqe.phase = .stopping .s0 ∧ s.rqe.queue = ⟨1, .streamStop, []⟩ :: []
      ∧ (s.lr LrId.lr0.partner).isFree = (s.lr .lr1 == LineReg.atInit))
    ∧ ∀ s ∈ [ends 128, ends 127, takes, ring, stops, waits], s.streamClaimsPlaced := by
  refine ⟨by unfold State.due StreamRec.copiesInOrder State.mayReceive; decide +kernel, fun s hs => placed_of_nil ?_⟩
  simp only [List.mem_cons, List.not_mem_nil, or_false] at hs
  rcases hs with rfl | rfl | rfl | rfl | rfl | rfl <;> rfl

/-- The next segment received; an earlier-taken one still held; a later-taken one's copy waiting in DRAINED. -/
theorem witness_CommittedRingSegmentRejoinsQueue :
    let ring := fun st (waiting : List Taken) => { streamIn .capture st with cyclic := true, waiting := waiting }
    let joins := (commitDue 128 (ring .running [])).setLr .lr1 { holding .active 0 with takeSeq := 1 }
    let waits := ((commitDue 128 (ring .running [])).setLr .lr0 { holding .committing 128 with takeSeq := 1 }).setLr .lr1
      { holding .full 128 with takeSeq := 0 }
    let wakes := commitDue 128 (ring .drained [⟨1, seg⟩])
    ((∀ s ∈ [joins, waits, wakes], s.due 0 (operation ⟨.commit, 7, .register .lr0, .stream⟩)
      ∧ (s.lr .lr0).segment = some seg ∧ (s.lr .lr0).discardPending ≠ some .commit ∧ (s.lr .lr0).state ≠ .active
      ∧ (s.str .s0).cyclic = true ∧ (s.str .s0).overrunSegment = none ∧ (s.str .s0).queue = [])
    ∧ ((joins.str .s0).state = .running ∧ (joins.str .s0).waiting = [] ∧ joins.receiving .s0 = some .lr1
      ∧ (joins.lr .lr0).takeSeq < (joins.lr .lr1).takeSeq)
    ∧ ((waits.str .s0).state = .running ∧ (waits.str .s0).waiting = [] ∧ (waits.lr LrId.lr0.partner).segment = some seg
      ∧ (waits.lr LrId.lr0.partner).takeSeq < (waits.lr .lr0).takeSeq)
    ∧ ((wakes.str .s0).state = .drained ∧ (wakes.str .s0).direction = .capture ∧ (wakes.str .s0).stopRequest = none
      ∧ (wakes.str .s0).waiting = [⟨1, seg⟩] ∧ (wakes.lr .lr0).takeSeq < 1
      ∧ (wakes.lr LrId.lr0.partner).segment = none ∧ wakes.receiving .s0 = none ∧ wakes.claimPending .lr0 = false
      ∧ wakes.claimPending LrId.lr0.partner = false))
    ∧ wakes.streamClaimsPlaced := by
  refine ⟨?_, placed_of_nil (by decide +kernel)⟩
  unfold State.due; decide +kernel

/-- COPY_ROW of row 3 to row 511 waits for an operation of LR4. -/
def copying (c : Claim) (st : LrState) : State :=
  (inFlight (during quiet .copyRow .copying) c).setLr .lr4
    { LineReg.atInit with state := st, copy := some ⟨3, 511, 3, 1⟩ }

/-- The load and the commit of a copy, and each of them to be discarded with no COPY_ROW waiting. -/
theorem witness_CopyRowLoadsCommitsAndAnswers :
    let load : Claim := ⟨.copyLoad, 3, .requestEngine, .host⟩
    let commit : Claim := ⟨.copyCommit 0x8, 511, .requestEngine, .host⟩
    let s := copying load .loading
    let t := copying commit .committing
    (s.due 0 (operation load) ∧ s.lrb.lr4.discardPending ≠ some .copyLoad
        ∧ s.lrb.lr4.copy = some ⟨3, 511, 3, 1⟩ ∧ s.claimPending .lr4 = false)
      ∧ (t.due 0 (operation commit) ∧ t.lrb.lr4.discardPending ≠ some .copyCommit
        ∧ t.claimPending .lr4 = false ∧ t.rqe.queue = ⟨1, .copyRow, []⟩ :: [])
      ∧ ∀ c ∈ [load, commit],
        let u := (inFlight quiet c).setLr .lr4 { LineReg.atInit with discardPending := c.kind.discardKind }
        u.due 0 (operation c) ∧ u.lrb.lr4.discardPending = c.kind.discardKind ∧ u.claimPending .lr4 = false
          ∧ u.rqe.phase = .free := by
  unfold State.due; decide +kernel

/-- The mask's least and greatest values and the last row; a fill whose row is the last but one, and the last, with a
request waiting; one whose request a RESET has abandoned. -/
theorem witness_FillWritesValueIntoMaskedSections :
    (∀ mask ∈ [(1 : Byte), 15],
      let s := asked quiet .fillRows [0, 0, 1, 0xFF, 0x12, 0x34, mask]
      s.heads 1 .fillRows [0, 0, 1, 0xFF, 0x12, 0x34, mask] []
        ∧ parseFill [0, 0, 1, 0xFF, 0x12, 0x34, mask] = some (0, 511, 0x1234, mask) ∧ 1 ≤ mask.toNat
        ∧ mask.toNat ≤ 15 ∧ s.rat.state = .ready)
    ∧ (∀ row ∈ [510, 511],
      let c : Claim := ⟨.fill 0x1234 0x8, row, .requestEngine, .host⟩
      let s := inFlight (during quiet .fillRows (.filling 0 511 row 0x1234 0x8)) c
      s.due 0 (operation c) ∧ c.row < 512 ∧ (operation c).discarded = false
        ∧ s.rqe.phase = .filling 0 511 c.row 0x1234 0x8 ∧ s.rqe.queue = ⟨1, .fillRows, []⟩ :: [])
    ∧ let op := { operation ⟨.fill 0x1234 0x8, 511, .requestEngine, .host⟩ with discarded := true }
      (quiet.setCircuit (.operating op)).due 0 op ∧ op.discarded = true ∧ op.claim.row < 512 := by
  unfold State.due State.heads; decide +kernel

/-- The host's last row but one and last row, with a request waiting; a refresh of the refresh engine; one whose request
a RESET has abandoned. -/
theorem witness_RefreshGoesRowByRow :
    (∀ row ∈ [510, 511],
      let c : Claim := ⟨.refresh, row, .requestEngine, .host⟩
      let s := inFlight (during quiet .refresh (.refreshing 0 511 row)) c
      let s : State := { s with rqe := { s.rqe with queue := s.rqe.queue ++ [⟨2, .identify, []⟩] } }
      s.due 0 (operation c) ∧ s.rqe.queue = ⟨1, .refresh, []⟩ :: [⟨2, .identify, []⟩] ∧ c.cls = .host
        ∧ (operation c).discarded = false ∧ s.rqe.phase = .refreshing 0 511 c.row)
    ∧ (let c : Claim := ⟨.refresh, 511, .refreshEngine, .routine⟩
      (inFlight quiet c).due 0 (operation c) ∧ c.kind = .refresh ∧ c.cls ≠ .host)
    ∧ let op := { operation ⟨.refresh, 511, .requestEngine, .host⟩ with discarded := true }
      (quiet.setCircuit (.operating op)).due 0 op ∧ op.discarded = true := by
  unfold State.due; decide +kernel

theorem witness_ScrubCompletionFreesRow :
    ∀ row ∈ [510, 511],
      let c : Claim := ⟨.scrub, row, .rowTable, .scrub⟩
      (inFlight { quiet with rat := { quiet.rat with state := .init } } c).due 0 (operation c) ∧ c.kind = .scrub := by
  unfold State.due; decide +kernel

/-- A next READ on the session; no next request; another next request; a grantable SCRUB above HOST; a reopen; an OPEN
whose request a RESET has abandoned. -/
theorem witness_OpenCompletionHoldsOrFreesRow :
    let c : Claim := ⟨.openRow, 3, .requestEngine, .host⟩
    let next : Request := ⟨2, .read, [0, 1, 0, 1]⟩
    let other : Request := ⟨2, .identify, []⟩
    let scrub : Claim := ⟨.scrub, 4, .refreshEngine, .scrub⟩
    let alone := inFlight (during session .openRow (.opening .k0)) c
    let followed := fun (r : Request) => { alone with rqe := { alone.rqe with queue := alone.rqe.queue ++ [r] } }
    let preempted := { followed next with arb := { (followed next).arb with claims := [scrub] } }
    let reopening := inFlight (during session .read (.reopening .k0 ⟨.read, 255, 1, []⟩)) c
    let op : Operation := { operation c with discarded := true }
    (∀ s ∈ [alone, followed next, followed other, preempted], s.due 0 (operation c) ∧ (operation c).discarded = false
        ∧ s.rqe.phase = .opening .k0 ∧ s.rqe.queue.head? = some ⟨1, .openRow, []⟩ ∧ (s.slot .k0).inUse = true)
      ∧ alone.columnNext .k0 [] = false ∧ (followed next).columnNext .k0 [next] = true
      ∧ (followed other).columnNext .k0 [other] = false
      ∧ scrub ∈ preempted.arb.claims ∧ scrub.cls.aboveHost = true ∧ preempted.grantable scrub = true
      ∧ (reopening.due 0 (operation c) ∧ reopening.rqe.phase = .reopening .k0 ⟨.read, 255, 1, []⟩)
      ∧ (quiet.setCircuit (.operating op)).due 0 op ∧ op.discarded = true := by
  unfold State.due; decide +kernel

/-- One cell, the last of the row, at exactly its 40 ns; with its session, and abandoned by a RESET that left the queue
empty. -/
theorem witness_BurstEndWritesColumnsAndAnswers :
    ∀ action ∈ [BurstAction.read, .write none, .write (some 0xFF), .exchange],
      let job : ColumnJob := ⟨action, 255, 1, [0xBEEF]⟩
      let s := (during heldSession .exchange .bursting).setCircuit (.bursting (some .k0) 511 job 19999960)
      let t := quiet.setCircuit (.bursting none 511 job 19999960)
      (s.live = true ∧ s.arb.circuit = .bursting (some .k0) 511 job 19999960
        ∧ 19999960 + job.count * 40 ≤ s.clock + 0 ∧ s.rqe.queue = ⟨1, .exchange, []⟩ :: [])
      ∧ t.live = true ∧ t.arb.circuit = .bursting none 511 job 19999960 ∧ 19999960 + job.count * 40 ≤ t.clock + 0
        ∧ t.rqe.queue = [] := by
  decide +kernel

/-- The circuit FREE with a claim of every class: STREAM claims of both streams, two URGENT ones, two SCRUBs. -/
def contended : State :=
  { quiet with
    rfe := { quiet.rfe with scrubList := [5, 4] }
    arb := { quiet.arb with claims := [⟨.refresh, 0, .refreshEngine, .routine⟩, ⟨.fill 0 0xF, 1, .requestEngine, .host⟩,
      ⟨.scrub, 4, .refreshEngine, .scrub⟩, ⟨.scrub, 5, .refreshEngine, .scrub⟩, ⟨.load, 6, .register .lr2, .stream⟩,
      ⟨.load, 7, .register .lr1, .stream⟩, ⟨.refresh, 9, .refreshEngine, .urgent⟩,
      ⟨.refresh, 8, .refreshEngine, .urgent⟩] } }

theorem contended_ranked : contended.claimsRanked := by
  intro c hc
  have hc : c ∈ contended.arb.claims := hc
  have hu : ∀ c ∈ contended.arb.claims, c.cls = .urgent → c.row ∈ contended.rfe.order := by decide +kernel
  have hs : ∀ c ∈ contended.arb.claims, c.cls = .scrub → c.row ∈ contended.rfe.scrubList := by decide +kernel
  have hl : ∀ c ∈ contended.arb.claims, c.cls = .stream →
      c.claimant = .register .lr2 ∨ c.claimant = .register .lr1 := by decide +kernel
  exact ⟨hu c hc, hs c hc, fun h => (hl c hc h).elim (fun e => ⟨.lr2, .s1, e, rfl⟩) (fun e => ⟨.lr1, .s0, e, rfl⟩)⟩

/-- From the contended circuit: FREE, a held row, a refresh of the refresh engine due, an abandoned burst, a deadline.
-/
theorem witness_GrantDecisionTakesHighestClaim :
    let c : Claim := ⟨.refresh, 511, .refreshEngine, .routine⟩
    let bursting := contended.setCircuit (.bursting none 511 ⟨.read, 0, 1, []⟩ 19999960)
    contended.claimsRanked
      ∧ (contended.arb.circuit = .free ∧ (contended.setCircuit (.held .k0 3)).arb.circuit = .held .k0 3
        ∧ ((inFlight contended c).due 0 (operation c) ∧ c.kind = .refresh ∧ c.cls ≠ .host)
        ∧ (bursting.live = true ∧ bursting.arb.circuit = .bursting none 511 ⟨.read, 0, 1, []⟩ 19999960
          ∧ 19999960 + 1 * 40 ≤ bursting.clock + 0)
        ∧ contended.live = true ∧ 8000000 ≤ contended.clock + 8000000 - (contended.row 511).completedAt
        ∧ (contended.row 511).scrubPending = false) := by
  refine ⟨contended_ranked, ?_⟩
  unfold State.due; decide +kernel

/-- R40, R44: the URGENT claim of the older row goes first, though raised last. -/
theorem test_settle_urgentFirst :
    (contended.settle.inFlight.map fun op => op.claim) = some ⟨.refresh, 8, .refreshEngine, .urgent⟩ := by
  decide +kernel

theorem quiet_inFlight : quiet.inFlight = none := rfl

/-- At exactly 4.0 ms; in HOSTED mode; with the ROUTINE claim already held. -/
theorem witness_RoutineThresholdClaimsHeadRow :
    let hosted := { quiet with rfe := { quiet.rfe with mode := .hosted } }
    let claimed := inFlight quiet ⟨.refresh, 0, .refreshEngine, .routine⟩
    (∀ s ∈ [quiet, hosted, claimed], s.live = true ∧ s.rfe.order = 0 :: (List.range 512).tail)
      ∧ (quiet.rfe.mode = .auto ∧ quiet.holdsClaim (fun c => c.cls == .routine) = false
        ∧ 4000000 ≤ quiet.clock + 4000000 - (quiet.row 0).completedAt ∧ (quiet.row 0).scrubPending = false
        ∧ quiet.holdsClaim (fun c => c.cls == .urgent && c.row == 0) = false)
      ∧ (∀ op, quiet.inFlight = some op → op.claim.row ≠ 0)
      ∧ hosted.rfe.mode = .hosted ∧ claimed.holdsClaim (fun c => c.cls == .routine) = true := by
  refine ⟨by decide +kernel, by decide +kernel, fun op h => ?_, by decide, by decide +kernel⟩
  simp [quiet_inFlight] at h

/-- At exactly 7.0 ms, in both modes; the crossing already taken. -/
theorem witness_UrgentCrossingClaimsOrReports :
    let hosted := { quiet with rfe := { quiet.rfe with mode := .hosted } }
    let taken := withRow quiet 511 ⟨false, false, 20000000, true⟩
    (∀ s ∈ [quiet, hosted, taken], s.live = true ∧ 7000000 ≤ s.clock + 7000000 - (s.row 511).completedAt
        ∧ (s.row 511).scrubPending = false)
      ∧ (quiet.row 511).crossed = false ∧ quiet.rfe.mode = .auto ∧ (hosted.row 511).crossed = false
      ∧ hosted.rfe.mode = .hosted ∧ (taken.row 511).crossed = true
      ∧ (∀ op, quiet.inFlight = some op → op.claim.row ≠ 511)
        ∧ ∀ op, hosted.inFlight = some op → op.claim.row ≠ 511 := by
  refine ⟨by decide +kernel, by decide +kernel, rfl, by decide +kernel, rfl, by decide +kernel, fun op h => ?_,
    fun op h => ?_⟩ <;> exact nomatch (show (none : Option Operation) = some op from h)

/-- At exactly 8.0 ms; a scrub already pending; an operation in flight on the row. -/
theorem witness_DeadlineLosesRow :
    let owed := withRow quiet 511 ⟨true, true, 20000000, false⟩
    let busy := inFlight quiet ⟨.refresh, 511, .refreshEngine, .urgent⟩
    (∀ s ∈ [quiet, owed, busy], s.live = true ∧ s.rat.table.length = 512)
      ∧ (8000000 ≤ quiet.clock + 8000000 - (quiet.row 511).completedAt ∧ (quiet.row 511).scrubPending = false)
      ∧ (∀ op, quiet.inFlight = some op → op.claim.row ≠ 511)
      ∧ (owed.row 511).scrubPending = true ∧ ∃ op, busy.inFlight = some op ∧ op.claim.row = 511 := by
  refine ⟨by decide +kernel, by decide +kernel, fun op h => ?_, by decide +kernel, _, rfl, rfl⟩
  simp [quiet_inFlight] at h

/-- Fifteen notices are queued. -/
def fullOfNotices : State :=
  { quiet with hlc := { quiet.hlc with outq := List.replicate 15 (.notice (.rowLost 7)), attn := true } }

/-- The loss marker is queued behind them. -/
def marked : State :=
  { fullOfNotices with
    hlc := { fullOfNotices.hlc with outq := fullOfNotices.hlc.outq ++ [.lossMarker 1 1] } }

/-- The mask with a bit clear; a marker queued; fourteen notices; fifteen. -/
theorem witness_ReportPassesMaskAndQuota :
    ({ quiet.ntu with mask := 0x1FF } : NoticeUnit).mask.getLsbD 9 = false ∧ marked.ntu.mask.getLsbD 9 = true
      ∧ marked.hlc.outq.any Frame.isMarker = true
      ∧ ({ fullOfNotices with hlc := { fullOfNotices.hlc with outq := fullOfNotices.hlc.outq.tail } } : State).noticeCount
        = 14
      ∧ fullOfNotices.hlc.outq.any Frame.isMarker = false ∧ fullOfNotices.noticeCount = 15 := by
  decide +kernel

theorem witness_HcsFallFixesFrame : quiet.live = true ∧ quiet.hlc.hcsHigh = true := by decide

/-- A request refused BAD_TAG, and one accepted, read against an IDLE frame, with three bits more than whole bytes. -/
theorem witness_TransactionEndRemovesThenAdmits :
    let s := talking quiet
    let x : Transaction := ⟨false, frameBytes 0 .none 0 []⟩
    s.live = true ∧ s.hlc.txn = some x ∧ s.attnFollowsQueue
      ∧ (∀ tag ∈ [(0 : Byte), 9],
        let bytes := bytesOf (bitsOf (requestFrame tag 0x01 []) ++ [true, false, true])
        ¬(admissionOf (s.tagsAfter x bytes.length) bytes = .accepted ∧ bytes.getD 3 0 = 0x04))
      ∧ admissionOf [] (bytesOf (bitsOf (requestFrame 9 0x01 []))) = .accepted := by
  unfold State.attnFollowsQueue; decide +kernel

/-- A RESET while eight requests are outstanding, with and without a payload; in HOSTED mode a row of 7.0 ms. -/
theorem witness_ResetKeepsArrayAndRetention :
    let s := { talking quiet with
      rqe := { quiet.rqe with tags := [1, 2, 3, 4, 5, 6, 7, 8] }, rfe := { quiet.rfe with mode := .hosted } }
    let x : Transaction := ⟨false, frameBytes 0 .none 0 []⟩
    s.live = true ∧ s.hlc.txn = some x
      ∧ (∀ payload ∈ [([] : List Byte), [0]],
        let bytes := bytesOf (bitsOf (requestFrame 9 0x04 payload))
        admissionOf (s.tagsAfter x bytes.length) bytes = .accepted ∧ bytes.getD 3 0 = 0x04)
      ∧ 511 ∈ s.rfe.order ∧ 7000000 ≤ s.clock + 7000000 - (s.row 511).completedAt ∧ (s.row 511).scrubPending = false
      ∧ s.inFlight = none := by
  decide +kernel

theorem witness_IdentifyAnswersFixedValues :
    let s := asked quiet .identify []
    s.heads 1 .identify [] [] ∧ (∀ k ∈ [SlotId.k0, .k1, .k2, .k3], ∀ row < 2, s.arb.circuit ≠ .held k row)
      ∧ (s.arb.circuit = .free → s.arb.claims = []) := by
  unfold State.heads; decide +kernel

theorem witness_IdentifyAnswersFixedValues_atRest : (asked quiet .identify []).arbiterAtRest :=
  ⟨fun _ _ => (by decide : quiet.arb.circuit = .free) ▸ (fun h => nomatch h), fun _ => rfl⟩

/-- ROW_QUERY at its boundaries: row 511 alone, and 64 rows up to the last. -/
theorem witness_QueriesReportTheState :
    (asked quiet .status []).heads 1 .status [] []
      ∧ (asked quiet .rowQuery [1, 0xFF, 1]).heads 1 .rowQuery [1, 0xFF, 1] [] ∧ natOf 1 0xFF + 1 = 512
      ∧ (asked quiet .rowQuery [1, 0xC0, 64]).heads 1 .rowQuery [1, 0xC0, 64] [] ∧ natOf 1 0xC0 + 64 = 512
      ∧ (asked quiet .streamQuery [1]).heads 1 .streamQuery [1] [] ∧ streamOfCode 1 = some .s1 := by
  unfold State.heads; decide +kernel

/-- A mask with every bit; no field; the mode changed to HOSTED with a row at 7.0 ms whose crossing was taken and one
past it; the mode changed to AUTO. -/
theorem witness_ConfigureAppliesPresentFields :
    (let p : List Byte := [0x04, 0x03, 0xFF];
      (asked quiet .configure p).heads 1 .configure p [] ∧ parseConfigure p = some ⟨none, none, some 0x3FF⟩
        ∧ (0x3FF : CellVal).toNat < 1024)
    ∧ (let p : List Byte := [0x01, 0x01]
      let s := withRow (withRow (asked quiet .configure p) 0 ⟨false, false, 12999999, false⟩) 1
        ⟨false, false, 13000000, true⟩
      s.heads 1 .configure p [] ∧ parseConfigure p = some ⟨some 0x01, none, none⟩
        ∧ RefreshMode.ofCode 0x01 = some .hosted ∧ s.rfe.mode = .auto
        ∧ 7000000 < s.clock + 0 - (s.row 0).completedAt ∧ s.clock + 0 - (s.row 1).completedAt = 7000000
        ∧ (s.row 1).crossed = true ∧ (s.row 0).scrubPending = false ∧ s.inFlight = none)
    ∧ (let p : List Byte := [0x01, 0x00]
      let s := asked { quiet with rfe := { quiet.rfe with mode := .hosted } } .configure p
      s.heads 1 .configure p [] ∧ parseConfigure p = some ⟨some 0x00, none, none⟩
        ∧ RefreshMode.ofCode 0x00 = some .auto ∧ s.rfe.mode = .hosted) := by
  unfold State.heads; decide +kernel

/-- One request of each kind of refusal, at the bound of its check. -/
def refused : List (RequestKind × List Byte × Status) :=
  [(.identify, [0], .badPayload), (.configure, [0x04, 0x04, 0x00], .range), (.openRow, [0x02, 0x00], .range),
    (.close, [4, 1], .noSession), (.read, [0, 2, 0, 1], .noSession), (.write, [0, 1, 0, 1, 2, 0, 0], .badPayload),
    (.exchange, [0, 1, 0, 1, 0], .badPayload), (.fillRows, [0, 3, 0, 4, 0, 0, 16], .range),
    (.copyRow, [0, 3, 0, 4, 3, 2], .range), (.refresh, [0, 4, 0, 3], .range), (.rowQuery, [0x01, 0xFF, 2], .range),
    (.streamSetup, [2, 1, 0, 0, 0, 0], .range), (.streamAppend, [0, 0], .badPayload), (.streamStart, [0], .state),
    (.streamStop, [0, 0], .state), (.streamFlush, [0], .state), (.streamQuery, [2], .range),
    (.status, [0], .badPayload)]

theorem witness_RefusedRequestOnlyAnswers :
    (∀ x ∈ refused,
      let s := asked session x.1 x.2.1
      s.heads 1 x.1 x.2.1 [] ∧ (x.1.command 0 .closeFirst).isSome = true ∧ s.refusal x.1 x.2.1 = some x.2.2
        ∧ (x.1.isColumn = true → x.2.2 ≠ .range))
      ∧ ({ quiet with rat := { quiet.rat with state := .init } } : State).refusal .openRow [1, 0xFF] = some .notReady
      ∧ (quiet.setStr .s0 { streamIn .playback .idle with queue := List.replicate 32 seg }).refusal .streamAppend
        [0, 1, 0, 7, 1, 2, 1] = some .queueFull := by
  unfold State.heads; decide +kernel

/-- A READ of 64 cells up to the last column, one of 65, an EXCHANGE of none: on the row held for exactly the time that
leaves 64 bursts of 40 ns within the open limit, a ns later, on a parked session, and on another session's held row. -/
theorem witness_ColumnRequestBurstsOrReopens :
    (∀ s ∈ [heldSession, session, heldSession.setCircuit (.held .k1 4)],
      ∀ p ∈ [([0, 1, 192, 64] : List Byte), [0, 1, 0, 65]],
        (asked s .read p).heads 1 .read p [] ∧ (s.slot .k0).inUse = true ∧ (s.slot .k0).generation = 1)
      ∧ (asked heldSession .exchange [0, 1, 0, 0]).heads 1 .exchange [0, 1, 0, 0] []
      ∧ RequestKind.command .read 0 .closeFirst = some (.read 0 .closeFirst)
      ∧ Request.columnFields ⟨1, .read, [0, 1, 192, 64]⟩ = some ⟨0, 1, ⟨.read, 192, 64, []⟩⟩
      ∧ Request.columnFields ⟨1, .read, [0, 1, 0, 65]⟩ = some ⟨0, 1, ⟨.read, 0, 65, []⟩⟩
      ∧ Request.columnFields ⟨1, .exchange, [0, 1, 0, 0]⟩ = some ⟨0, 1, ⟨.exchange, 0, 0, []⟩⟩
      ∧ (0 : Byte) = slotCode .k0
      ∧ heldSession.arb.circuit = .held .k0 3
      ∧ heldSession.clock + 7440 - (heldSession.slot .k0).holdStart + 64 * 40 = 10000
      ∧ session.arb.circuit = .free := by
  unfold State.heads; decide +kernel

/-- Every slot lower than the one taken is in use; the last row of the array. -/
theorem witness_OpenAndCloseChangeOneSlot :
    ((asked session .openRow [1, 0xFF]).heads 1 .openRow [1, 0xFF] [] ∧ natOf 1 0xFF < 512
        ∧ session.rat.state = .ready ∧ (session.slot .k1).inUse = false)
      ∧ (∀ q, (slotCode q).toNat < (slotCode .k1).toNat → (session.slot q).inUse = true)
      ∧ ((asked heldSession .close [0, 1]).heads 1 .close [0, 1] [] ∧ (0 : Byte) = slotCode .k0
        ∧ (heldSession.slot .k0).inUse = true ∧ (heldSession.slot .k0).generation = 1) := by
  refine ⟨by unfold State.heads; decide +kernel, fun q h => ?_, by unfold State.heads; decide +kernel⟩
  cases q <;> first | rfl | exact absurd h (by decide)

/-- All rows; a copy of the last section to the last row; a copy that waits for LR4's operation to discard. -/
theorem witness_RefreshAndCopyRowBegin :
    ((asked quiet .refresh [0, 0, 1, 0xFF]).heads 1 .refresh [0, 0, 1, 0xFF] [] ∧ natOf 0 0 ≤ natOf 1 0xFF
        ∧ natOf 1 0xFF < 512 ∧ quiet.rat.state = .ready)
      ∧ (let p : List Byte := [0, 3, 1, 0xFF, 3, 1]
        ∀ d ∈ [none, some DiscardKind.copyLoad],
          let s := (asked quiet .copyRow p).setLr .lr4 { LineReg.atInit with discardPending := d }
          s.heads 1 .copyRow p [] ∧ s.claimPending .lr4 = false ∧ s.lrb.lr4.discardPending = d)
      ∧ ∀ k ∈ [ClaimKind.copyLoad, .copyCommit 0x8],
        let c : Claim := ⟨k, 3, .requestEngine, .host⟩
        let s := (inFlight (during quiet .copyRow (.copyWaiting ⟨3, 511, 3, 1⟩)) c).setLr .lr4
          { LineReg.atInit with discardPending := k.discardKind }
        s.due 0 (operation c) ∧ s.lrb.lr4.discardPending = k.discardKind ∧ s.claimPending .lr4 = false
          ∧ s.rqe.phase = .copyWaiting ⟨3, 511, 3, 1⟩ := by
  unfold State.heads State.due; decide +kernel

theorem witness_SetupAndFlushChangeOneRecord :
    (let p : List Byte := [1, 2, 1, 0xAB, 0xCD, 1];
      (asked quiet .streamSetup p).heads 1 .streamSetup p [] ∧ streamOfCode 1 = some .s1
        ∧ (quiet.str .s1).state = .disabled ∧ (2 : Byte) = Direction.capture.code ∧ (1 : Byte) = Policy.align.code)
      ∧ (let s := asked (quiet.setStr .s0 (streamIn .playback .idle)) .streamFlush [0]
        s.heads 1 .streamFlush [0] [] ∧ streamOfCode 0 = some .s0 ∧ (s.str .s0).state ≠ .disabled) := by
  unfold State.heads; decide +kernel

/-- One segment, the 32nd of its stream: in IDLE, DRAINED in both directions, and at an overrun boundary. -/
theorem witness_AppendQueuesAndWakesStream :
    let p : List Byte := [0, 1, 0x80, 7, 1, 2, 1, 0xA5]
    parseAppend p = some (0, [seg]) ∧ streamOfCode 0 = some .s0
      ∧ (∀ x ∈ [{ streamIn .playback .idle with queue := List.replicate 31 seg }, streamIn .playback .drained,
          streamIn .capture .drained, streamIn .capture .overrun],
        let s := asked (quiet.setStr .s0 x) .streamAppend p
        s.heads 1 .streamAppend p [] ∧ (s.str .s0).state ≠ .disabled
          ∧ [seg].all (fun g => g.valid (s.str .s0).direction) = true ∧ s.segmentTotal .s0 + 1 ≤ 32
          ∧ (∀ r ∈ [evenReg .s0, oddReg .s0], (s.lr r).isFree = true → s.claimPending r = false)
          ∧ (s.str .s0).stopRequest = none ∧ s.receiving .s0 = none ∧ (s.str .s0).overrunSegment = none)
      ∧ (quiet.setStr .s0 { streamIn .playback .idle with queue := List.replicate 31 seg }).segmentTotal .s0 + 1 = 32 := by
  unfold State.heads; decide +kernel

theorem witness_StartTakesFirstSegments :
    ∀ d ∈ [Direction.playback, .capture],
      let s := asked (quiet.setStr .s0 { streamIn d .idle with queue := [seg] }) .streamStart [0]
      s.heads 1 .streamStart [0] [] ∧ streamOfCode 0 = some .s0 ∧ s.rat.state = .ready ∧ (s.str .s0).state = .idle
        ∧ (s.str .s0).stopRequest = none ∧ s.claimPending (evenReg .s0) = false ∧ s.claimPending (oddReg .s0) = false
        ∧ (s.str .s0).direction = d ∧ s.receiving .s0 = none := by
  unfold State.heads; decide +kernel

/-- LR0 holds `seg` begun, or not. -/
def stopping (d : Direction) (st : StreamState) (lr : LrState) (position : Nat) (begun : Bool) (kind : StopKind) :
    State :=
  asked ((streaming d st lr position).setLr .lr0 { holding lr position with begun := begun }) .streamStop [0, kind.code]

/-- A begun segment and one not begun; in STARVED the waited segment counts as begun either way. -/
theorem witness_StopOfPlayback :
    (∀ kind ∈ [StopKind.now, .afterSegment], ∀ st ∈ [StreamState.ready, .running, .starved], ∀ begun ∈ [true, false],
      let s := stopping .playback st .active 127 begun kind
      s.heads 1 .streamStop [0, kind.code] [] ∧ streamOfCode 0 = some .s0 ∧ (s.str .s0).direction = .playback
        ∧ (s.str .s0).state ≠ .disabled ∧ (s.str .s0).state ≠ .idle ∧ s.playCurrent .s0 = some .lr0
        ∧ (s.lr .lr0).segment = some seg ∧ (s.lr .lr0).begun = begun ∧ (s.str .s0).state = st) := by
  unfold State.heads; decide +kernel

/-- No cell, one cell, a filled section; no receiving register; an overrun segment; each in a ring with a copy waiting.
-/
theorem witness_StopOfCapture :
    let ring := fun st => { streamIn .capture st with cyclic := true, waiting := [⟨1, seg⟩] }
    let received := fun kind position filled =>
      ((stopping .capture .running .active position true kind).setLr .lr0
        { holding .active position with filled := filled, begun := true }).setStr .s0 (ring .running)
    let overrun := fun kind k => asked
      (quiet.setStr .s0 { ring .overrun with overrunSegment := k, overrunCount := 1 }) .streamStop
      [0, StopKind.code kind]
    (∀ kind ∈ [StopKind.now, .afterSegment],
      (∀ s ∈ [received kind 0 0, received kind 1 0, received kind 64 0x2, overrun kind none, overrun kind (some ⟨4, seg⟩)],
        s.heads 1 .streamStop [0, kind.code] [] ∧ streamOfCode 0 = some .s0 ∧ (s.str .s0).direction = .capture
          ∧ (s.str .s0).state ≠ .disabled ∧ (s.str .s0).state ≠ .idle ∧ (s.str .s0).copiesInOrder)
      ∧ (∀ p ∈ [(0, (0 : SectionSet)), (1, 0), (64, 2)],
        let s := received kind p.1 p.2
        (s.str .s0).overrunSegment = none ∧ s.receiving .s0 = some .lr0 ∧ (s.lr .lr0).segment = some seg
          ∧ (s.lr .lr0).position = p.1 ∧ (s.lr .lr0).filled = p.2)
      ∧ ∀ k ∈ [none, some ⟨4, seg⟩],
        ((overrun kind k).str .s0).overrunSegment = k ∧ (overrun kind k).receiving .s0 = none) := by
  unfold State.heads StreamRec.copiesInOrder; decide +kernel

/-- The last position but one of the last pass, and the last position of a pass that is not the last. -/
theorem witness_PlaybackEdgeReadsNextCell :
    ∀ p ∈ [(126, 1), (127, 2)],
      let s := (streaming .playback .ready .loaded 0).setLr .lr0 { holding .loaded p.1 with passesLeft := p.2 }
      s.live = true ∧ (s.str .s0).direction = .playback ∧ (s.str .s0).state = .ready ∧ s.playCurrent .s0 = some .lr0
        ∧ (s.lr .lr0).segment = some seg ∧ (s.lr .lr0).state = .loaded ∧ s.claimPending .lr0 = false
        ∧ ((s.lr .lr0).position + 1 < seg.count * 64 ∨ 1 < (s.lr .lr0).passesLeft) := by
  decide +kernel

theorem witness_PlaybackSegmentEnd :
    ∀ stop ∈ [none, some StopKind.afterSegment],
      let s := during ((streaming .playback .running .active 127).setStr .s0
        { streamIn .playback .running with stopRequest := stop }) .streamStop (.stopping .s0)
      s.live = true ∧ (s.str .s0).direction = .playback ∧ (s.str .s0).state = .running
        ∧ s.playCurrent .s0 = some .lr0 ∧ (s.lr .lr0).segment = some seg ∧ (s.lr .lr0).state = .active
        ∧ seg.count * 64 ≤ (s.lr .lr0).position + 1 ∧ (s.lr .lr0).passesLeft ≤ 1 ∧ s.operationKind .lr0 = none
        ∧ s.claimPending LrId.lr0.partner = false ∧ (s.str .s0).stopRequest = stop ∧ s.rqe.phase = .stopping .s0
        ∧ s.rqe.queue = ⟨1, .streamStop, []⟩ :: [] := by
  decide +kernel

/-- A playback stream of a policy whose current register is STALE at a position. -/
def starving (policy : Policy) (st : StreamState) (position : Nat) : State :=
  (streaming .playback st .stale position).setStr .s0 { streamIn .playback st with policy := policy }

/-- HOLD at the last cell; ALIGN at the last but one; in STARVED and where the run begins. -/
theorem witness_StarvedEdgeDrivesFill :
    ∀ p ∈ [(Policy.hold, 127), (.align, 126)], ∀ st ∈ [StreamState.starved, .running],
      let s := starving p.1 st p.2
      s.live = true ∧ (s.str .s0).direction = .playback ∧ s.playCurrent .s0 = some .lr0
        ∧ (s.lr .lr0).segment = some seg ∧ ((s.str .s0).state = .starved ∨ (s.str .s0).state = .running)
        ∧ (s.lr .lr0).state = .stale ∧ ((s.str .s0).policy = .hold ∨ (s.lr .lr0).position + 1 < seg.count * 64) := by
  decide +kernel

/-- In STARVED and where the run begins, with no stop and with one after the segment. -/
theorem witness_AlignDropsStarvedSegment :
    ∀ st ∈ [StreamState.starved, .running], ∀ stop ∈ [none, some StopKind.afterSegment],
      let s := during ((starving .align st 127).setStr .s0
        { streamIn .playback st with policy := .align, stopRequest := stop }) .streamStop (.stopping .s0)
      s.live = true ∧ (s.str .s0).direction = .playback ∧ (s.str .s0).policy = .align
        ∧ s.playCurrent .s0 = some .lr0 ∧ (s.lr .lr0).segment = some seg ∧ (s.str .s0).state = st
        ∧ (s.lr .lr0).state = .stale ∧ seg.count * 64 ≤ (s.lr .lr0).position + 1 ∧ (s.lr .lr0).passesLeft ≤ 1
        ∧ (s.str .s0).stopRequest = stop ∧ s.claimPending LrId.lr0.partner = false ∧ s.rqe.phase = .stopping .s0
        ∧ s.rqe.queue = ⟨1, .streamStop, []⟩ :: [] := by
  decide +kernel

theorem witness_EdgesThatMoveNoCell :
    quiet.live = true
      ∧ (∀ st ∈ [StreamState.priming, .drained, .stopping],
        let x := (quiet.setStr .s0 (streamIn .playback st)).str .s0
        x.direction = .playback ∧ x.state = st ∧ x.direction ≠ .capture)
      ∧ (∀ st ∈ [StreamState.drained, .stopping],
        let x := (quiet.setStr .s0 (streamIn .capture st)).str .s0
        x.direction = .capture ∧ x.state = st ∧ x.direction ≠ .playback)
      ∧ (quiet.str .s0).state = .disabled ∧ ((quiet.setStr .s0 (streamIn .capture .idle)).str .s0).state = .idle := by
  decide +kernel

/-- A cell within the range, the range's last cell, and the last with a stop waiting. -/
theorem witness_CaptureEdgeReceivesCell :
    ∀ p ∈ [(126, none), (127, none), (127, some StopKind.afterSegment)],
      let s := (streaming .capture .running .active p.1).setStr .s0 { streamIn .capture .running with stopRequest := p.2 }
      s.live = true ∧ (s.str .s0).direction = .capture ∧ (s.str .s0).state = .running ∧ s.receiving .s0 = some .lr0
        ∧ (s.lr .lr0).segment = some seg ∧ (s.lr .lr0).content.length = 256
        ∧ 64 * seg.first + (s.lr .lr0).position < 256 ∧ (s.str .s0).stopRequest ≠ some .now
        ∧ (s.str .s0).overrunSegment = none ∧ (s.lr LrId.lr0.partner).state ≠ .active
        ∧ s.claimPending LrId.lr0.partner = false ∧ s.arb.circuit = .free ∧ s.arb.claims = []
        ∧ (s.row 7).scrubPending = false := by
  decide +kernel

/-- The episode's first cell, and a boundary's; the same with an empty queue; the count's last cell but one and its
last, in a ring. -/
theorem witness_OverrunCountsAndAbandons :
    (∀ st ∈ [StreamState.ready, .overrun], ∀ queue ∈ [[seg], []],
      let s := quiet.setStr .s0 { streamIn .capture st with queue := queue }
      s.live = true ∧ (s.str .s0).direction = .capture ∧ (s.str .s0).stopRequest = none ∧ (s.str .s0).copiesInOrder
        ∧ s.receiving .s0 = none ∧ (s.str .s0).queue = queue ∧ (s.str .s0).state = st
        ∧ (s.str .s0).overrunSegment = none)
      ∧ (∀ count ∈ [126, 127], ∀ cyclic ∈ [true, false],
        let s := quiet.setStr .s0
          { streamIn .capture .overrun with
            overrunSegment := some ⟨4, seg⟩
            overrunCount := count
            cyclic := cyclic }
        s.live = true ∧ (s.str .s0).direction = .capture ∧ (s.str .s0).stopRequest = none ∧ (s.str .s0).copiesInOrder
          ∧ s.receiving .s0 = none ∧ (s.str .s0).state = .overrun ∧ (s.str .s0).overrunSegment = some ⟨4, seg⟩
          ∧ ((s.str .s0).overrunCount + 1 = seg.count * 64 ↔ count = 127)
          ∧ ∀ r ∈ [evenReg .s0, oddReg .s0], (s.lr r).isFree = true → s.claimPending r = false) := by
  unfold StreamRec.copiesInOrder; decide +kernel

/-- At exactly 50 µs. -/
theorem witness_PlaybackHoldExpiryReloads :
    ∀ st ∈ [LrState.loaded, .active],
      let s := streaming .playback .ready st 0
      s.live = true ∧ streamOf .lr0 = some .s0 ∧ (s.lr .lr0).segment = some seg ∧ (s.str .s0).direction = .playback
        ∧ (s.lr .lr0).holdTimer = some 20000000 ∧ 20000000 + 50000 ≤ s.clock + 50000 ∧ (s.lr .lr0).state = st
        ∧ s.claimPending .lr0 = false := by
  decide +kernel

/-- LR0 of a capture stream, its hold timer at exactly 50 µs. -/
def capturing (x : StreamRec) (lr : LrState) (position : Nat) : State :=
  (streaming .capture .running lr position).setStr .s0 x

/-- A receiving register; a FULL one whose stream takes at an overrun boundary, in RUNNING, and in a ring that was
drained; one whose stream takes nothing, with an overrun segment counted; a stop that waits for the register, and one
that waits for the segment. -/
theorem witness_CaptureHoldExpiryAbandons :
    let x := streamIn .capture .running
    let receives := capturing x .active 0
    let boundary := (capturing { streamIn .capture .overrun with queue := [seg] } .full 128).setLr .lr1
      { holding .full 128 with takeSeq := 1 }
    let running := capturing { x with queue := [seg] } .full 128
    let ring := capturing { streamIn .capture .drained with cyclic := true } .full 128
    let counted := capturing { streamIn .capture .overrun with overrunSegment := some ⟨4, seg⟩, queue := [seg] } .full 128
    let empty := capturing x .full 128
    let stops := during (capturing { streamIn .capture .stopping with stopRequest := some .now } .full 128) .streamStop
      (.stopping .s0)
    let after := during (capturing { x with stopRequest := some .afterSegment } .active 1) .streamStop (.stopping .s0)
    (∀ s ∈ [receives, boundary, running, ring, counted, empty, stops, after],
      s.live = true ∧ streamOf .lr0 = some .s0 ∧ (s.lr .lr0).segment = some seg ∧ (s.str .s0).direction = .capture
        ∧ (s.lr .lr0).holdTimer = some 20000000 ∧ 20000000 + 50000 ≤ s.clock + 50000
        ∧ ((s.lr .lr0).state = .active ∨ (s.lr .lr0).state = .full) ∧ (s.str .s0).copiesInOrder)
      ∧ ((receives.str .s0).stopRequest = none ∧ receives.receiving .s0 = some .lr0
        ∧ (receives.lr LrId.lr0.partner).state ≠ .active ∧ receives.claimPending LrId.lr0.partner = false)
      ∧ (∀ s ∈ [boundary, running, ring], (s.lr .lr0).state = .full ∧ s.mayReceive .s0 (finished s)
        ∧ (finished s).queue = [seg] ∧ s.claimPending LrId.lr0.partner = false)
      ∧ (∀ s ∈ [counted, empty], (s.lr .lr0).state = .full ∧ (s.str .s0).state ≠ .stopping
        ∧ (¬s.mayReceive .s0 (finished s) ∨ (finished s).queue = []))
      ∧ ((stops.str .s0).stopRequest = some .now ∧ (stops.str .s0).state = .stopping ∧ stops.isReceiving .lr0 = false
        ∧ stops.rqe.phase = .stopping .s0 ∧ stops.rqe.queue = ⟨1, .streamStop, []⟩ :: [])
      ∧ (after.str .s0).stopRequest = some .afterSegment ∧ after.receiving .s0 = some .lr0
        ∧ (after.lr LrId.lr0.partner).state ≠ .active ∧ (after.str .s0).overrunSegment = none
        ∧ after.rqe.phase = .stopping .s0 ∧ after.rqe.queue = ⟨1, .streamStop, []⟩ :: [] := by
  unfold StreamRec.copiesInOrder State.mayReceive; decide +kernel

/-- At exactly 50 µs and exactly 2.0 ms. -/
theorem witness_CopyAndSessionTimersExpire :
    (let s := (during quiet .copyRow .copying).setLr .lr4
        { LineReg.atInit with state := .loaded, holdTimer := some 20000000 };
      s.live = true ∧ s.lrb.lr4.state = .loaded ∧ s.lrb.lr4.holdTimer = some 20000000
        ∧ 20000000 + 50000 ≤ s.clock + 50000 ∧ s.rqe.queue = ⟨1, .copyRow, []⟩ :: [])
      ∧ (session.live = true ∧ (session.slot .k0).inUse = true ∧ (session.slot .k0).state = .parked
        ∧ (session.slot .k0).idleTimer = some 20000000 ∧ 20000000 + 2000000 ≤ session.clock + 2000000) := by
  decide +kernel

/-! ### Of the invariants: a state that has the invariant, and the step of a command that waits in it -/

/-- Each command waits in front of a state, which steps. -/
def stepsFrom (s : State) (i : Instr) : Prop :=
  ∃ t, step { s with pending := [i] } = .next t

/-- At the end of the warm-up a step scrubs row 0, with the cells undefined. -/
theorem witness_StepsKeepMemoryCanonical :
    State.reset.rat.memory.wf = true ∧ stepsFrom State.reset (.warmupEnd 2000) := by
  exact ⟨by decide +kernel, _, rfl⟩

/-- The last frame of the queue is a notice; a report to an empty queue. -/
theorem witness_AttnFollowsQueue :
    fullOfNotices.attnFollowsQueue ∧ stepsFrom fullOfNotices (.deadline 8000000 511)
      ∧ quiet.attnFollowsQueue ∧ stepsFrom quiet (.deadline 8000000 511) := by
  refine ⟨?_, ⟨_, rfl⟩, ?_, ⟨_, rfl⟩⟩ <;> unfold State.attnFollowsQueue <;> decide +kernel

/-- With 15 notices queued, and with the marker behind them. -/
theorem witness_NoticesStayInQuota :
    fullOfNotices.noticesInQuota ∧ stepsFrom fullOfNotices (.deadline 8000000 511)
      ∧ marked.noticesInQuota ∧ stepsFrom marked (.deadline 8000000 511) := by
  refine ⟨?_, ⟨_, rfl⟩, ?_, ⟨_, rfl⟩⟩ <;> unfold State.noticesInQuota <;> decide +kernel

/-- Eight requests are queued and the ninth is refused. -/
def eightAsked : State :=
  let tags : List Byte := [1, 2, 3, 4, 5, 6, 7, 8]
  talking { quiet with rqe := { quiet.rqe with queue := tags.map fun t => ⟨t, .identify, []⟩, tags := tags } }

theorem witness_TagsStayOutstanding :
    eightAsked.tagsOutstanding ∧ stepsFrom eightAsked (.transactionEnd 0 (bitsOf (requestFrame 9 0x01 []))) := by
  refine ⟨⟨?_, by decide +kernel, by decide +kernel, by decide +kernel⟩, _, rfl⟩
  exact List.Perm.of_eq (by decide +kernel)

theorem quiet_completedAt {r : Nat} (h : r < 512) : (quiet.row r).completedAt = 20000000 := by
  have : quiet.rat.table = List.replicate 512 ⟨false, false, 20000000, false⟩ := rfl
  simp only [State.row, this, List.getD_eq_getElem?_getD, List.getElem?_replicate, h, if_true, Option.getD_some]

theorem witness_OrderListStaysSortedByAge :
    quiet.orderedByAge ∧ stepsFrom quiet (.routineThreshold 4000000) := by
  have ho : quiet.rfe.order = List.range 512 := by decide +kernel
  refine ⟨⟨by decide +kernel, .of_eq ho, ?_, fun r hr =>
      (quiet_completedAt hr).trans_le (by decide +kernel)⟩, _, rfl⟩
  rw [ho]
  refine List.Pairwise.imp_of_mem (R := fun _ _ => True) (fun {a b} ha hb _ => ?_)
    (List.pairwise_of_forall (fun _ _ => trivial))
  rw [quiet_completedAt (List.mem_range.1 ha), quiet_completedAt (List.mem_range.1 hb)]

/-- Row 511 owes a scrub, and its SCRUB is in flight and due. -/
def scrubbing : State :=
  let s := inFlight (withRow quiet 511 ⟨true, true, 0, false⟩) ⟨.scrub, 511, .rowTable, .scrub⟩
  { s with rfe := { s.rfe with scrubList := [511] } }

/-- Row 511 owes its scrub, in flight and due; at the end of INIT's warm-up every row owes one. -/
theorem witness_ScrubsStayOwed :
    scrubbing.scrubsOwed ∧ scrubbing.scrubBlocks ∧ stepsFrom scrubbing (.scrubCompletion 0) := by
  refine ⟨⟨by decide +kernel, by decide +kernel, fun r => ?_, by decide +kernel⟩, fun op h => ?_, _, rfl⟩
  · constructor
    · intro h
      have : r = 511 := by simpa [scrubbing] using h
      subst this; decide +kernel
    · rintro ⟨h, hp⟩
      have : ∀ r, r < 512 → (scrubbing.row r).scrubPending = true → r ∈ scrubbing.rfe.scrubList := by decide +kernel
      exact this r h hp
  · intro hk
    have : op = operation ⟨.scrub, 511, .rowTable, .scrub⟩ := (Option.some.inj h).symm
    subst this; exact absurd rfl hk

/-- The ROUTINE refresh of the head row is in flight and due. -/
theorem witness_RoutineStaysSingle :
    quiet.orderedByAge ∧ quiet.routineHeld ∧ stepsFrom quiet (.routineThreshold 4000000) := by
  refine ⟨witness_OrderListStaysSortedByAge.1, ⟨by decide +kernel, fun c h => ?_, fun op h => ?_, by decide +kernel⟩,
    _, rfl⟩
  · have : quiet.holdsClaim (fun d => d == c && d.cls == .routine) = false := rfl
    simp [this] at h
  · simp [quiet_inFlight] at h

/-- The held row's session, with its burst about to start. -/
def readAsked : State :=
  asked heldSession .read [0, 1, 192, 64]

theorem witness_SessionsStayMatched :
    readAsked.sessionsMatchCircuit ∧ stepsFrom readAsked (.read 0 .closeFirst) := by
  refine ⟨⟨fun k => ?_, fun k h => ?_, by decide +kernel, fun k row job start h => ?_, by decide +kernel⟩, _, rfl⟩
  · cases k <;> decide +kernel
  · exact absurd h (by cases k <;> decide +kernel)
  · exact nomatch (show Circuit.held .k0 3 = .bursting (some k) row job start from h)

/-- LR0's load is in flight and due, LR1's claimed, with 32 segments of stream 0, and none of the rest. -/
def claiming : State :=
  let s := (streaming .playback .starved .loading 5).setLr .lr1 { holding .loading 0 with takeSeq := 1 }
  let s := s.setStr .s0 { streamIn .playback .starved with queue := List.replicate 30 seg }
  let s := inFlight s ⟨.load, 7, .register .lr0, .stream⟩
  { s with arb := { s.arb with claims := [⟨.load, 7, .register .lr1, .stream⟩] } }

theorem claiming_registers : claiming.registersMatchClaims := by
  have hop : ∀ op, claiming.inFlight = some op → op = operation ⟨.load, 7, .register .lr0, .stream⟩ :=
    fun op h => (Option.some.inj h).symm
  have hk : ∀ c ∈ claiming.arb.claims, c.kind ≠ .commit := by decide +kernel
  refine ⟨fun c h => ?_, fun r => ?_, fun r => ?_, fun r op h => ?_, fun r => ?_, fun c hc h => absurd h (hk c hc),
    fun n => ?_, by decide +kernel⟩
  · rcases Bool.or_eq_true_iff.1 h with h | h
    · obtain ⟨d, hd, he⟩ := List.any_eq_true.1 h
      have : ∀ d ∈ claiming.arb.claims, d.inPlace = true := by decide +kernel
      exact beq_iff_eq.1 he ▸ this d hd
    · have : (operation ⟨.load, 7, .register .lr0, .stream⟩).claim = c := beq_iff_eq.1 h
      exact this ▸ (by decide +kernel)
  · cases r <;> decide +kernel
  · cases r <;> decide +kernel
  · cases hop op h; cases r <;> decide +kernel
  · cases r <;> decide +kernel
  · cases n <;> decide +kernel

/-- The load in flight completes, with another claimed and the segment total at its bound. -/
theorem witness_StreamsAndRegistersKeepTheirLaws :
    claiming.sessionsMatchCircuit ∧ claiming.registersMatchClaims ∧ claiming.segmentTotal .s0 = 32
      ∧ stepsFrom claiming (.loadCompletion ⟨0, .closeFirst⟩) := by
  refine ⟨⟨fun k => ?_, fun k h => ?_, by decide +kernel, fun k row job start h => ?_, by decide +kernel⟩,
    claiming_registers, by decide +kernel, _, rfl⟩
  · cases k <;> decide +kernel
  · exact absurd h (by cases k <;> decide +kernel)
  · exact nomatch (show Circuit.operating _ = .bursting (some k) row job start from h)

/-- The fields at their greatest values. -/
theorem witness_PayloadsReadBack :
    255 < 256 ∧ (List.replicate 255 (0 : CellVal)).length < 256 ∧ 1 ≤ [seg].length ∧ (List.replicate 8 seg).length ≤ 8
      ∧ ∀ g ∈ [({ row := 32767, first := 255, count := 255, repeats := 255, mark := some 0xFF } : Segment)],
        g.row < 32768 ∧ g.first < 256 ∧ g.count < 256 ∧ g.repeats < 256 := by
  decide +kernel

end Sys2Proof.Tests
end

section
/-! PROOF. FILL_ROWS (R7, R140, R141): the laws of a completion's end, then the request's beginning and each FILL's
completion. -/

namespace Sys2Proof.Machine

variable (s : State)

/-! ## Claims held -/

theorem State.raiseClaim_hasClaim (c : Claim) : (s.raiseClaim c).hasClaim c := by
  simp [State.hasClaim, State.holdsClaim]

theorem State.settle_hasClaim (c : Claim) : s.settle.hasClaim c ↔ s.hasClaim c := by
  simp only [State.hasClaim, State.settle_holdsClaim]

theorem State.begun_hasClaim (tie : TieOrder) (c : Claim) : (s.begun tie).hasClaim c ↔ s.hasClaim c := by
  simp only [State.hasClaim, State.begun_holdsClaim]

theorem State.setPhase_hasClaim (p : Phase) (c : Claim) : (s.setPhase p).hasClaim c ↔ s.hasClaim c := Iff.rfl

theorem State.hasClaim_of_mem {c : Claim} (h : c ∈ s.arb.claims) : s.hasClaim c :=
  (s.holdsClaim_iff _).2 (.inl ⟨c, h, beq_self_eq_true c⟩)

/-- In a free circuit a claim held is a pending one. -/
theorem State.mem_of_hasClaim {c : Claim} (hf : s.arb.circuit = .free) (h : s.hasClaim c) : c ∈ s.arb.claims := by
  obtain ⟨d, hd, he⟩ | ⟨op, ho, -⟩ := (s.holdsClaim_iff _).1 h
  · exact beq_iff_eq.1 he ▸ hd
  · rw [State.inFlight_eq_some, hf] at ho; cases ho

/-! ## The end of an event that left the circuit free -/

/-- All but the arbiter, the request engine, the refresh engine and the outbound queue are as before, the registers but
for what a grant changes. -/
def State.keepsUnits (s t : State) : Prop :=
  t.rat = s.rat ∧ t.ste = s.ste ∧ t.ntu = s.ntu ∧ s.registersKept t ∧ t.sst = s.sst

theorem State.keepsUnits_refl : s.keepsUnits s :=
  ⟨rfl, rfl, rfl, fun _ => rfl, rfl⟩

variable {s} in
theorem State.keepsUnits.trans {t u : State} (h : s.keepsUnits t) (h' : t.keepsUnits u) : s.keepsUnits u := by
  obtain ⟨hrat, hste, hntu, hlr, hsst⟩ := h
  obtain ⟨hrat', hste', hntu', hlr', hsst'⟩ := h'
  refine ⟨hrat'.trans hrat, hste'.trans hste, hntu'.trans hntu, fun r => ?_, hsst'.trans hsst⟩
  rw [hlr' r, hlr r]

theorem State.raiseClaim_keepsUnits (c : Claim) : s.keepsUnits (s.raiseClaim c) :=
  s.keepsUnits_refl

theorem State.setPhase_keepsUnits (p : Phase) : s.keepsUnits (s.setPhase p) :=
  s.keepsUnits_refl

theorem State.finish_keepsUnits (status : Status) (flags : Byte) (data : List Byte) :
    s.keepsUnits (s.finish status flags data) := by
  simp [State.keepsUnits, State.registersKept]

theorem State.settle_of_free (h : s.arb.circuit = .free) : s.settle = s.grantDecision := by
  simp [State.settle, h]

theorem State.settle_keepsUnits (h : s.arb.circuit = .free) : s.keepsUnits s.settle := by
  have hsst : s.settle.sst = s.sst := by simp [s.settle_of_free h]
  simp [State.keepsUnits, State.registersKept, hsst, ← s.settle_lr]

/-- A free circuit stays free or takes an operation granted at this moment (R43). -/
theorem State.settle_circuitFreed (h : s.arb.circuit = .free) : s.settle.circuitFreed := by
  rw [s.settle_of_free h]
  unfold State.grantDecision
  split
  · exact .inr ⟨_, (s.grant_spec _).1, by simp [State.operationOf]⟩
  · exact .inl h

/-- With no row held, the end of a request leaves all to the next one or is the arbiter's act (R47, R163). -/
theorem State.conclude_of_free (tie : TieOrder) (h : s.arb.circuit = .free) :
    s.conclude tie = s ∨ s.conclude tie = s.settle := by
  have hc : s.closeHeld = s := by simp [State.closeHeld, h]
  obtain ⟨e, -⟩ | ⟨e, -⟩ | ⟨e, -⟩ := s.conclude_cases tie
  · exact .inl e
  · exact .inr e
  · exact .inr (by rw [e, hc])

theorem State.conclude_keepsUnits (tie : TieOrder) (h : s.arb.circuit = .free) : s.keepsUnits (s.conclude tie) := by
  obtain e | e := s.conclude_of_free tie h
  · rw [e]; exact s.keepsUnits_refl
  · rw [e]; exact s.settle_keepsUnits h

theorem State.conclude_circuitFreed (tie : TieOrder) (h : s.arb.circuit = .free) : (s.conclude tie).circuitFreed := by
  obtain e | e := s.conclude_of_free tie h
  · rw [e]; exact .inl h
  · rw [e]; exact s.settle_circuitFreed h

/-- The reply that a request's last completion gives. -/
theorem State.conclude_finish_answers {r : Request} {rest : List Request} (tie : TieOrder) (status : Status)
    (flags : Byte) (data : List Byte) (h : s.rqe.queue = r :: rest) :
    s.answers ((s.finish status flags data).conclude tie) r.tag rest status flags data := by
  simp [State.answers, s.finish_spec status flags data h]

/-! ## What a completion does, whatever its kind -/

theorem State.completing_of_due {dt : Nat} {op : Operation} (h : s.due dt op) :
    (s.advance dt).completing = some op := by
  obtain ⟨hlive, hop, htime⟩ := h
  have hin : (s.advance dt).inFlight = some op := State.inFlight_eq_some _ |>.2 hop
  simp [State.completing, hin, hlive, State.elapsed, htime]

theorem State.rowCompleted_memory (row : Nat) : (s.rowCompleted row).rat.memory = s.rat.memory := by
  simp [State.rowCompleted]

/-- A completion raises nothing but the refresh engine's ROUTINE claim (R23, R47). -/
theorem State.rowCompleted_hasClaim {row : Nat} {c : Claim} (h : (s.rowCompleted row).hasClaim c) :
    s.hasClaim c ∨ c.cls = .routine := by
  have hmem := State.mem_of_hasClaim _ (s.rowCompleted_circuit row) h
  unfold State.rowCompleted at hmem
  obtain e | ⟨head, -, -, -, -, -, -, -, -, e⟩ :=
    State.checkRoutine_cases (State.setCircuit (State.withdraw _ _) .free)
  · rw [e] at hmem
    exact .inl (s.hasClaim_of_mem (List.mem_of_mem_filter hmem))
  · rw [e] at hmem
    obtain hmem | hmem := List.mem_append.1 hmem
    · exact .inl (s.hasClaim_of_mem (List.mem_of_mem_filter hmem))
    · exact .inr (List.mem_singleton.1 hmem ▸ rfl)

/-! ## A FILL's completion -/

/-- What a FILL's completion does before the request engine acts: the cells, the LOST flag, the row's completion. -/
def State.filled (s : State) (row : Nat) (value : CellVal) (mask : SectionSet) : State :=
  ((s.writeSections row mask fun _ => value).updateRow row
    fun e => { e with lost := lostAfterWrite mask e.lost }).rowCompleted row

theorem State.filled_circuit (row : Nat) (value : CellVal) (mask : SectionSet) :
    (s.filled row value mask).arb.circuit = .free :=
  State.rowCompleted_circuit _ row

theorem State.filled_frame (row : Nat) (value : CellVal) (mask : SectionSet) :
    (s.filled row value mask).ste = s.ste ∧ (s.filled row value mask).ntu = s.ntu
      ∧ (s.filled row value mask).sst = s.sst ∧ (s.filled row value mask).rqe = s.rqe
      ∧ (s.filled row value mask).hlc = s.hlc ∧ ∀ r, (s.filled row value mask).lr r = s.lr r := by
  simp [State.filled]

/-- The value stands in every cell of the masked sections of the row; every other cell is as before (R7). -/
theorem State.filled_read {row r col : Nat} (value : CellVal) (mask : SectionSet) (hrow : row < 512)
    (hcol : col < 256) :
    (s.filled row value mask).rat.memory.read r col =
      if r = row ∧ mask.getLsbD (col / 64) = true then value else s.rat.memory.read r col := by
  unfold State.filled
  rw [State.rowCompleted_memory]
  exact s.writeSections_read mask (fun _ => value) hrow hcol

theorem State.filled_hasClaim {row : Nat} {value : CellVal} {mask : SectionSet} {c : Claim}
    (h : (s.filled row value mask).hasClaim c) : s.hasClaim c ∨ c.cls = .routine := by
  obtain h | h := State.rowCompleted_hasClaim _ h
  · left
    simpa [State.hasClaim, State.holdsClaim, State.inFlight] using h
  · exact .inr h

section Completion

variable {s} {op : Operation} {value : CellVal} {mask : SectionSet} (tie : TieOrder)
  (hc : s.completing = some op) (hk : op.claim.kind = .fill value mask)
include hc hk

theorem fillCompletion_of_discarded (hd : op.discarded = true) :
    fillCompletion tie s = (s.filled op.claim.row value mask).settle := by
  simp [fillCompletion, hc, hk, hd, State.filled]

/-- Before the last row the next row's FILL is claimed, with the value and mask of the request (R141). -/
theorem fillCompletion_of_lt {first last current : Nat} {v : CellVal} {m : SectionSet} (hd : op.discarded = false)
    (hp : s.rqe.phase = .filling first last current v m) (hlt : current < last) :
    fillCompletion tie s =
      (((s.filled op.claim.row value mask).raiseClaim ⟨.fill v m, current + 1, .requestEngine, .host⟩).setPhase
        (.filling first last (current + 1) v m)).settle := by
  simp [fillCompletion, hc, hk, hd, hp, hlt, State.filled]

/-- After the last row the request is answered with the number of its rows (R141). -/
theorem fillCompletion_of_le {first last current : Nat} {v : CellVal} {m : SectionSet} (hd : op.discarded = false)
    (hp : s.rqe.phase = .filling first last current v m) (hle : last ≤ current) :
    fillCompletion tie s =
      ((s.filled op.claim.row value mask).finish .ok 0 (natBytes2 (last - first + 1))).conclude tie := by
  simp [fillCompletion, hc, hk, hd, hp, Nat.not_lt.2 hle, State.filled]

theorem fillCompletion_of_not_filling (hd : op.discarded = false)
    (hp : ¬ ∃ first last current v m, s.rqe.phase = .filling first last current v m) :
    fillCompletion tie s = (s.filled op.claim.row value mask).settle := by
  cases h : s.rqe.phase
  case filling => exact absurd ⟨_, _, _, _, _, h⟩ hp
  all_goals simp [fillCompletion, hc, hk, hd, h, State.filled]

/-- Whatever the request engine does next, it and the arbiter leave the units as the FILL has left them. -/
theorem fillCompletion_keepsUnits : (s.filled op.claim.row value mask).keepsUnits (fillCompletion tie s) := by
  have hf := s.filled_circuit op.claim.row value mask
  cases hd : op.discarded with
  | true =>
    rw [fillCompletion_of_discarded tie hc hk hd]
    exact State.settle_keepsUnits _ hf
  | false =>
    by_cases hp : ∃ first last current v m, s.rqe.phase = .filling first last current v m
    · obtain ⟨first, last, current, v, m, hp⟩ := hp
      by_cases hlt : current < last
      · rw [fillCompletion_of_lt tie hc hk hd hp hlt]
        exact State.settle_keepsUnits _ hf
      · rw [fillCompletion_of_le tie hc hk hd hp (Nat.not_lt.1 hlt)]
        exact (State.finish_keepsUnits ..).trans (State.conclude_keepsUnits _ tie (by simpa using hf))
    · rw [fillCompletion_of_not_filling tie hc hk hd hp]
      exact State.settle_keepsUnits _ hf

end Completion

/-! ## The beginning of FILL_ROWS -/

theorem State.beginning_of_heads {s : State} {tag : Byte} {k : RequestKind} {payload : List Byte}
    {rest : List Request} (dt : Nat) (h : s.heads tag k payload rest) : (s.advance dt).beginning k = some payload := by
  obtain ⟨hlive, hphase, hqueue⟩ := h
  simp [State.beginning, hlive, hphase, hqueue]

/-- A FILL_ROWS that passes its checks claims its first row (R140). -/
theorem fillRows_of_valid {s : State} {payload : List Byte} {first last : Nat} {value : CellVal} {m : Byte}
    (tie : TieOrder) (hb : s.beginning .fillRows = some payload)
    (hp : parseFill payload = some (first, last, value, m)) (hlast : last < 512) (hfirst : first ≤ last)
    (hmin : 1 ≤ m.toNat) (hmax : m.toNat ≤ 15) (hready : s.rat.state = .ready) :
    fillRows tie s =
      ((s.raiseClaim ⟨.fill value (m.setWidth 4), first, .requestEngine, .host⟩).setPhase
        (.filling first last first value (m.setWidth 4))).begun tie := by
  have hrange : ¬ (Config.rows ≤ last ∨ last < first ∨ fillMaskOk m = false) := by
    simp [Config.rows, fillMaskOk, hlast, hfirst, hmin, hmax]
  have hinit : s.inInit = false := by simp [State.inInit, hready]
  simp [fillRows, hb, hp, hrange, hinit]

/-- The end of a beginning acts on the arbiter, the registers a grant passes on, and the slot of a held row. -/
theorem State.begun_onlyArbiterActs (tie : TieOrder) : s.onlyArbiterActs (s.begun tie) :=
  ⟨by simp [State.blocksKept, State.cellsKept], fun r => s.begun_lr tie r, fun k => s.begun_slot tie k⟩

/-! ## The obligation -/

theorem fillRows_claims_first_row (s : State) (dt first last : Nat) (tie : TieOrder) (value : CellVal) (mask tag : Byte)
    (payload : List Byte) (rest : List Request) (hh : s.heads tag .fillRows payload rest)
    (hp : parseFill payload = some (first, last, value, mask)) (hlast : last < 512) (hfirst : first ≤ last)
    (hmin : 1 ≤ mask.toNat) (hmax : mask.toNat ≤ 15) (hready : s.rat.state = .ready) :
    Completes (.fillRows ⟨dt, tie⟩) s fun t =>
      t.hasClaim ⟨.fill value (mask.setWidth 4), first, .requestEngine, .host⟩
        ∧ t.rqe = { s.rqe with phase := .filling first last first value (mask.setWidth 4) }
        ∧ t.hlc = s.hlc ∧ s.onlyArbiterActs t := by
  refine ⟨fillRows tie (s.advance dt), rfl, ?_⟩
  rw [fillRows_of_valid tie (State.beginning_of_heads dt hh) hp hlast hfirst hmin hmax hready]
  refine ⟨?_, by simp, by simp, State.begun_onlyArbiterActs _ tie⟩
  rw [State.begun_hasClaim, State.setPhase_hasClaim]
  exact State.raiseClaim_hasClaim _ _

theorem fillCompletion_next_row {s : State} {op : Operation} {value : CellVal} {mask : SectionSet} {first last : Nat}
    (tie : TieOrder) (hc : s.completing = some op) (hk : op.claim.kind = .fill value mask) (hd : op.discarded = false)
    (hp : s.rqe.phase = .filling first last op.claim.row value mask) (hlt : op.claim.row < last) :
    (fillCompletion tie s).hasClaim ⟨.fill value mask, op.claim.row + 1, .requestEngine, .host⟩
      ∧ (fillCompletion tie s).rqe = { s.rqe with phase := .filling first last (op.claim.row + 1) value mask }
      ∧ (fillCompletion tie s).hlc = s.hlc := by
  obtain ⟨-, -, -, hrqe, hhlc, -⟩ := s.filled_frame op.claim.row value mask
  rw [fillCompletion_of_lt tie hc hk hd hp hlt]
  refine ⟨?_, by simp [hrqe], by simp [hhlc]⟩
  rw [State.settle_hasClaim, State.setPhase_hasClaim]
  exact State.raiseClaim_hasClaim _ _

theorem fillCompletion_last_row {s : State} {op : Operation} {value : CellVal} {mask : SectionSet} {first last : Nat}
    {r : Request} {rest : List Request} (tie : TieOrder) (hc : s.completing = some op)
    (hk : op.claim.kind = .fill value mask) (hd : op.discarded = false)
    (hp : s.rqe.phase = .filling first last op.claim.row value mask) (hq : s.rqe.queue = r :: rest)
    (hle : last ≤ op.claim.row) :
    s.answers (fillCompletion tie s) r.tag rest .ok 0 (natBytes2 (last - first + 1))
      ∧ (fillCompletion tie s).circuitFreed := by
  obtain ⟨-, -, -, hrqe, hhlc, -⟩ := s.filled_frame op.claim.row value mask
  rw [fillCompletion_of_le tie hc hk hd hp hle]
  constructor
  · have := State.conclude_finish_answers (s.filled op.claim.row value mask) tie .ok 0 (natBytes2 (last - first + 1))
      (hrqe ▸ hq)
    rwa [State.answers, hrqe, hhlc] at this
  · exact State.conclude_circuitFreed _ tie (by simpa using s.filled_circuit op.claim.row value mask)

theorem fillCompletion_abandoned {s : State} {op : Operation} {value : CellVal} {mask : SectionSet} (tie : TieOrder)
    (hc : s.completing = some op) (hk : op.claim.kind = .fill value mask) (hd : op.discarded = true) :
    (fillCompletion tie s).rqe = s.rqe ∧ (fillCompletion tie s).hlc = s.hlc ∧ (fillCompletion tie s).circuitFreed
      ∧ ∀ c, (fillCompletion tie s).hasClaim c → s.hasClaim c ∨ c.cls = .routine := by
  obtain ⟨-, -, -, hrqe, hhlc, -⟩ := s.filled_frame op.claim.row value mask
  rw [fillCompletion_of_discarded tie hc hk hd]
  refine ⟨by simp [hrqe], by simp [hhlc], State.settle_circuitFreed _ (s.filled_circuit ..), fun c h => ?_⟩
  exact s.filled_hasClaim ((State.settle_hasClaim _ c).1 h)

/-- Settles O15: the request's beginning claims the first row; a completion is the written row, then the next claim, the
reply, or nothing, each followed by the arbiter's act on a free circuit. -/
theorem fillWritesValueIntoMaskedSections : Obligations.FillWritesValueIntoMaskedSections := by
  refine ⟨fillRows_claims_first_row, fun s op dt first last tie value mask hdue hk hrow => ?_⟩
  have hc := s.completing_of_due hdue
  obtain ⟨hste, hntu, hsst, -, -, hlr⟩ := (s.advance dt).filled_frame op.claim.row value mask
  obtain ⟨hrat', hste', hntu', hlr', hsst'⟩ := fillCompletion_keepsUnits tie hc hk
  refine ⟨fillCompletion tie (s.advance dt), rfl, fun row col hcol => ?_,
    fun r rest hd hp hq => ⟨fun hlt => ?_, fun hle => ?_⟩, fun hd => ?_,
    hste'.trans hste, hntu'.trans hntu, fun r => ?_, hsst'.trans hsst⟩
  · rw [hrat']
    exact (s.advance dt).filled_read value mask hrow hcol
  · exact fillCompletion_next_row tie hc hk hd hp hlt
  · obtain ⟨hans, hfree⟩ := fillCompletion_last_row tie hc hk hd hp hq hle
    exact ⟨hans, fun _ => hfree⟩
  · exact fillCompletion_abandoned tie hc hk hd
  · exact hlr r ▸ hlr' r

end Sys2Proof.Machine
end

section
/-! PROOF. ATTN follows the outbound queue (R157): what a part without supply or under HRST ignores (R16, R159), what
keeps it live, then the law for the link's commands and for those of the supply. -/

namespace Sys2Proof.Machine

variable (s : State)

/-! ## A change of the refresh mode leaves the part live -/

theorem State.foldl_live {α : Type} {f : State → α → State} (hf : ∀ t a, (f t a).live = t.live) (l : List α) :
    (l.foldl f s).live = s.live := by
  induction l generalizing s with
  | nil => rfl
  | cons a l ih => exact (ih (f s a)).trans (hf s a)

@[simp] theorem State.toAuto_live : s.toAuto.live = s.live := by
  have hraise : ∀ (t : State) (row : Nat), (t.raiseUrgent row).live = t.live := fun t row => by simp
  simp only [State.toAuto, State.checkRoutine_frame, State.foldl_live _ hraise]
  rfl

@[simp] theorem State.toHosted_live : s.toHosted.live = s.live := by
  have hreport : ∀ (t : State) (row : Nat), ((t.markCrossed row).report (.rowAging row)).live = t.live :=
    fun t row => by simp
  simp only [State.toHosted, State.foldl_live _ hreport]
  rfl

@[simp] theorem State.setMode_live (m : RefreshMode) : (s.setMode m).live = s.live := by
  unfold State.setMode
  split
  · rfl
  · cases m with
    | auto => exact s.toAuto_live
    | hosted => exact s.toHosted_live

@[simp] theorem State.applySettings_live (m : Option RefreshMode) (v k : Option CellVal) :
    (s.applySettings m v k).live = s.live := by
  unfold State.applySettings
  cases m with
  | none => cases v <;> cases k <;> rfl
  | some m => simp only [State.setMode_live]; cases v <;> cases k <;> rfl

/-! ## Commands that need a live part -/

/-- On an inert part the command does nothing (R16, R159), and it leaves a part inert or live as it was. -/
structure NeedsSupply (f : State → State) : Prop where
  inert : ∀ s, s.live = false → f s = s
  keepsLive : ∀ s, (f s).live = s.live

theorem State.completing_of_inert (h : s.live = false) : s.completing = none := by
  cases hop : s.inFlight <;> simp [State.completing, hop, h]

theorem State.beginning_of_inert (k : RequestKind) (h : s.live = false) : s.beginning k = none := by
  simp [State.beginning, h]

/-! ### Completions (R39, R47) and the end of a burst (R48) -/

theorem loadCompletion_needsSupply (tie : TieOrder) : NeedsSupply (loadCompletion tie) where
  inert s h := by simp [loadCompletion, s.completing_of_inert h]
  keepsLive s := by
    simp only [loadCompletion]
    (repeat' split) <;> simp

theorem commitCompletion_needsSupply (tie : TieOrder) : NeedsSupply (commitCompletion tie) where
  inert s h := by simp [commitCompletion, s.completing_of_inert h]
  keepsLive s := by
    simp only [commitCompletion]
    (repeat' split) <;> simp

theorem copyLoadCompletion_needsSupply : NeedsSupply copyLoadCompletion where
  inert s h := by simp [copyLoadCompletion, s.completing_of_inert h]
  keepsLive s := by
    simp only [copyLoadCompletion]
    (repeat' split) <;> simp

theorem copyCommitCompletion_needsSupply (tie : TieOrder) : NeedsSupply (copyCommitCompletion tie) where
  inert s h := by simp [copyCommitCompletion, s.completing_of_inert h]
  keepsLive s := by
    simp only [copyCommitCompletion]
    (repeat' split) <;> simp

theorem fillCompletion_needsSupply (tie : TieOrder) : NeedsSupply (fillCompletion tie) where
  inert s h := by simp [fillCompletion, s.completing_of_inert h]
  keepsLive s := by
    simp only [fillCompletion]
    (repeat' split) <;> simp

theorem refreshCompletion_needsSupply (tie : TieOrder) : NeedsSupply (refreshCompletion tie) where
  inert s h := by simp [refreshCompletion, s.completing_of_inert h]
  keepsLive s := by
    simp only [refreshCompletion]
    (repeat' split) <;> simp

theorem scrubCompletion_needsSupply : NeedsSupply scrubCompletion where
  inert s h := by simp [scrubCompletion, s.completing_of_inert h]
  keepsLive s := by
    simp only [scrubCompletion]
    (repeat' split) <;> simp [State.live]

theorem openCompletion_needsSupply (tie : TieOrder) : NeedsSupply (openCompletion tie) where
  inert s h := by simp [openCompletion, s.completing_of_inert h]
  keepsLive s := by
    simp only [openCompletion]
    (repeat' split) <;> simp

theorem columnBurstEnd_needsSupply (tie : TieOrder) : NeedsSupply (columnBurstEnd tie) where
  inert s h := by unfold columnBurstEnd; split <;> simp [h]
  keepsLive s := by
    simp only [columnBurstEnd]
    (repeat' split) <;> simp

/-! ### The warm-up's end and the thresholds of a row's age (R17, R23, R24, R29) -/

theorem warmupEnd_needsSupply : NeedsSupply warmupEnd where
  inert s h := by unfold warmupEnd; split <;> simp [h]
  keepsLive s := by
    simp only [warmupEnd]
    (repeat' split) <;> simp [State.live]

theorem routineThreshold_needsSupply : NeedsSupply routineThreshold where
  inert s h := by simp [routineThreshold, h]
  keepsLive s := by
    simp only [routineThreshold]
    (repeat' split) <;> simp

theorem urgentCrossing_needsSupply (row : Nat) : NeedsSupply (urgentCrossing row) where
  inert s h := by simp [urgentCrossing, h]
  keepsLive s := by
    simp only [urgentCrossing]
    (repeat' split) <;> simp

theorem deadline_needsSupply (row : Nat) : NeedsSupply (deadline row) where
  inert s h := by simp [deadline, h]
  keepsLive s := by
    simp only [deadline]
    (repeat' split) <;> simp [State.live]

/-! ### Requests (R163) -/

theorem identify_needsSupply (tie : TieOrder) : NeedsSupply (identify tie) where
  inert s h := by simp [identify, s.beginning_of_inert _ h]
  keepsLive s := by
    simp only [identify]
    (repeat' split) <;> simp

theorem status_needsSupply (tie : TieOrder) : NeedsSupply (status tie) where
  inert s h := by simp [status, s.beginning_of_inert _ h]
  keepsLive s := by
    simp only [status]
    (repeat' split) <;> simp

theorem configure_needsSupply (tie : TieOrder) : NeedsSupply (configure tie) where
  inert s h := by simp [configure, s.beginning_of_inert _ h]
  keepsLive s := by
    simp only [configure]
    (repeat' split) <;> simp

theorem openRow_needsSupply (tie : TieOrder) : NeedsSupply (openRow tie) where
  inert s h := by simp [openRow, s.beginning_of_inert _ h]
  keepsLive s := by
    simp only [openRow]
    (repeat' split) <;> simp

theorem close_needsSupply (tie : TieOrder) : NeedsSupply (close tie) where
  inert s h := by simp [close, s.beginning_of_inert _ h]
  keepsLive s := by
    simp only [close]
    (repeat' split) <;> simp

theorem read_needsSupply (tie : TieOrder) : NeedsSupply (read tie) where
  inert s h := by simp [read, s.beginning_of_inert _ h]
  keepsLive s := by
    simp only [read]
    (repeat' split) <;> simp

theorem write_needsSupply (tie : TieOrder) : NeedsSupply (write tie) where
  inert s h := by simp [write, s.beginning_of_inert _ h]
  keepsLive s := by
    simp only [write]
    (repeat' split) <;> simp

theorem exchange_needsSupply (tie : TieOrder) : NeedsSupply (exchange tie) where
  inert s h := by simp [exchange, s.beginning_of_inert _ h]
  keepsLive s := by
    simp only [exchange]
    (repeat' split) <;> simp

theorem fillRows_needsSupply (tie : TieOrder) : NeedsSupply (fillRows tie) where
  inert s h := by simp [fillRows, s.beginning_of_inert _ h]
  keepsLive s := by
    simp only [fillRows]
    (repeat' split) <;> simp

theorem copyRow_needsSupply (tie : TieOrder) : NeedsSupply (copyRow tie) where
  inert s h := by simp [copyRow, s.beginning_of_inert _ h]
  keepsLive s := by
    simp only [copyRow]
    (repeat' split) <;> simp

theorem refresh_needsSupply (tie : TieOrder) : NeedsSupply (refresh tie) where
  inert s h := by simp [refresh, s.beginning_of_inert _ h]
  keepsLive s := by
    simp only [refresh]
    (repeat' split) <;> simp

theorem rowQuery_needsSupply (tie : TieOrder) : NeedsSupply (rowQuery tie) where
  inert s h := by simp [rowQuery, s.beginning_of_inert _ h]
  keepsLive s := by
    simp only [rowQuery]
    (repeat' split) <;> simp

theorem streamSetup_needsSupply (tie : TieOrder) : NeedsSupply (streamSetup tie) where
  inert s h := by simp [streamSetup, s.beginning_of_inert _ h]
  keepsLive s := by
    simp only [streamSetup]
    (repeat' split) <;> simp

theorem streamAppend_needsSupply (tie : TieOrder) : NeedsSupply (streamAppend tie) where
  inert s h := by simp [streamAppend, s.beginning_of_inert _ h]
  keepsLive s := by
    simp only [streamAppend]
    (repeat' split) <;> simp

theorem streamStart_needsSupply (tie : TieOrder) : NeedsSupply (streamStart tie) where
  inert s h := by simp [streamStart, s.beginning_of_inert _ h]
  keepsLive s := by
    simp only [streamStart]
    (repeat' split) <;> simp

theorem streamStop_needsSupply (tie : TieOrder) : NeedsSupply (streamStop tie) where
  inert s h := by simp [streamStop, s.beginning_of_inert _ h]
  keepsLive s := by
    simp only [streamStop]
    (repeat' split) <;> simp

theorem streamFlush_needsSupply (tie : TieOrder) : NeedsSupply (streamFlush tie) where
  inert s h := by simp [streamFlush, s.beginning_of_inert _ h]
  keepsLive s := by
    simp only [streamFlush]
    (repeat' split) <;> simp

theorem streamQuery_needsSupply (tie : TieOrder) : NeedsSupply (streamQuery tie) where
  inert s h := by simp [streamQuery, s.beginning_of_inert _ h]
  keepsLive s := by
    simp only [streamQuery]
    (repeat' split) <;> simp

/-! ### Edges and expiries (R81, R113, R63, R68, R73, R139) -/

theorem playbackEdge_needsSupply (n : StreamId) : NeedsSupply (playbackEdge n) where
  inert s h := by simp [playbackEdge, h]
  keepsLive s := by
    simp only [playbackEdge]
    (repeat' split) <;> simp

theorem captureEdge_needsSupply (n : StreamId) (cell : CellVal) : NeedsSupply (captureEdge n cell) where
  inert s h := by simp [captureEdge, h]
  keepsLive s := by
    simp only [captureEdge]
    (repeat' split) <;> simp

theorem playbackHoldExpiry_needsSupply (r : LrId) : NeedsSupply (playbackHoldExpiry r) where
  inert s h := by unfold playbackHoldExpiry; split <;> simp [h]
  keepsLive s := by
    simp only [playbackHoldExpiry]
    (repeat' split) <;> simp

theorem captureHoldExpiry_needsSupply (r : LrId) : NeedsSupply (captureHoldExpiry r) where
  inert s h := by unfold captureHoldExpiry; split <;> simp [h]
  keepsLive s := by
    simp only [captureHoldExpiry]
    (repeat' split) <;> simp

theorem lr4HoldExpiry_needsSupply : NeedsSupply lr4HoldExpiry where
  inert s h := by simp [lr4HoldExpiry, h]
  keepsLive s := by
    simp only [lr4HoldExpiry]
    (repeat' split) <;> simp

theorem idleExpiry_needsSupply (k : SlotId) : NeedsSupply (idleExpiry k) where
  inert s h := by unfold idleExpiry; split <;> simp [h]
  keepsLive s := by
    simp only [idleExpiry]
    (repeat' split) <;> simp

/-- A command that is not the supply's, HCS_FALL or TRANSACTION_END is one that needs a live part, at its moment. -/
theorem exec_needsSupply {i : Instr} {s t : State} (hs : i.isSupply = false) (hf : ∀ dt, i ≠ .hcsFall dt)
    (he : ∀ dt bits, i ≠ .transactionEnd dt bits) (hx : exec i s = .next t) :
    ∃ f, NeedsSupply f ∧ t = f (s.advance i.elapsed) := by
  cases i
  case powerOn | hrstAssert | hrstDeassert | powerLoss => simp [Instr.isSupply] at hs
  case hcsFall dt => exact absurd rfl (hf dt)
  case transactionEnd dt bits => exact absurd rfl (he dt bits)
  case loadCompletion m => cases hx; exact ⟨_, loadCompletion_needsSupply m.tie, rfl⟩
  case commitCompletion m => cases hx; exact ⟨_, commitCompletion_needsSupply m.tie, rfl⟩
  case copyLoadCompletion => cases hx; exact ⟨_, copyLoadCompletion_needsSupply, rfl⟩
  case copyCommitCompletion m => cases hx; exact ⟨_, copyCommitCompletion_needsSupply m.tie, rfl⟩
  case fillCompletion m => cases hx; exact ⟨_, fillCompletion_needsSupply m.tie, rfl⟩
  case refreshCompletion m => cases hx; exact ⟨_, refreshCompletion_needsSupply m.tie, rfl⟩
  case scrubCompletion => cases hx; exact ⟨_, scrubCompletion_needsSupply, rfl⟩
  case openCompletion tie => cases hx; exact ⟨_, openCompletion_needsSupply tie, rfl⟩
  case columnBurstEnd tie => cases hx; exact ⟨_, columnBurstEnd_needsSupply tie, rfl⟩
  case warmupEnd => cases hx; exact ⟨_, warmupEnd_needsSupply, rfl⟩
  case routineThreshold => cases hx; exact ⟨_, routineThreshold_needsSupply, rfl⟩
  case urgentCrossing row =>
    simp only [exec, execUrgentCrossing] at hx
    split at hx <;> cases hx
    exact ⟨_, urgentCrossing_needsSupply row, rfl⟩
  case deadline row =>
    simp only [exec, execDeadline] at hx
    split at hx <;> cases hx
    exact ⟨_, deadline_needsSupply row, rfl⟩
  case identify m => cases hx; exact ⟨_, identify_needsSupply m.tie, rfl⟩
  case status m => cases hx; exact ⟨_, status_needsSupply m.tie, rfl⟩
  case configure m => cases hx; exact ⟨_, configure_needsSupply m.tie, rfl⟩
  case openRow m => cases hx; exact ⟨_, openRow_needsSupply m.tie, rfl⟩
  case close m => cases hx; exact ⟨_, close_needsSupply m.tie, rfl⟩
  case read tie => cases hx; exact ⟨_, read_needsSupply tie, rfl⟩
  case write tie => cases hx; exact ⟨_, write_needsSupply tie, rfl⟩
  case exchange tie => cases hx; exact ⟨_, exchange_needsSupply tie, rfl⟩
  case fillRows m => cases hx; exact ⟨_, fillRows_needsSupply m.tie, rfl⟩
  case copyRow m => cases hx; exact ⟨_, copyRow_needsSupply m.tie, rfl⟩
  case refresh m => cases hx; exact ⟨_, refresh_needsSupply m.tie, rfl⟩
  case rowQuery m => cases hx; exact ⟨_, rowQuery_needsSupply m.tie, rfl⟩
  case streamSetup m => cases hx; exact ⟨_, streamSetup_needsSupply m.tie, rfl⟩
  case streamAppend m => cases hx; exact ⟨_, streamAppend_needsSupply m.tie, rfl⟩
  case streamStart m => cases hx; exact ⟨_, streamStart_needsSupply m.tie, rfl⟩
  case streamStop m => cases hx; exact ⟨_, streamStop_needsSupply m.tie, rfl⟩
  case streamFlush m => cases hx; exact ⟨_, streamFlush_needsSupply m.tie, rfl⟩
  case streamQuery m => cases hx; exact ⟨_, streamQuery_needsSupply m.tie, rfl⟩
  case playbackEdge n => cases hx; exact ⟨_, playbackEdge_needsSupply n, rfl⟩
  case captureEdge n cell => cases hx; exact ⟨_, captureEdge_needsSupply n cell, rfl⟩
  case playbackHoldExpiry r =>
    simp only [exec, execPlaybackHoldExpiry] at hx
    split at hx <;> cases hx
    exact ⟨_, playbackHoldExpiry_needsSupply r, rfl⟩
  case captureHoldExpiry r =>
    simp only [exec, execCaptureHoldExpiry] at hx
    split at hx <;> cases hx
    exact ⟨_, captureHoldExpiry_needsSupply r, rfl⟩
  case lr4HoldExpiry => cases hx; exact ⟨_, lr4HoldExpiry_needsSupply, rfl⟩
  case idleExpiry k => cases hx; exact ⟨_, idleExpiry_needsSupply k, rfl⟩

/-! ## ATTN and the queue -/

/-- R157 as it stands on the link alone. -/
def State.attnMatches (s : State) : Prop :=
  s.hlc.attn = !s.hlc.outq.isEmpty

theorem State.enqueue_attnMatches (f : Frame) : (s.enqueue f).attnMatches := by
  simp [State.attnMatches]

theorem State.report_attnMatches (n : Notice) (h : s.attnMatches) : (s.report n).attnMatches := by
  unfold State.report
  split
  · split
    · simpa [State.attnMatches] using h
    · split
      · exact s.enqueue_attnMatches _
      · exact s.enqueue_attnMatches _
  · exact h

theorem State.finish_attnMatches (st : Status) (fl : Byte) (d : List Byte) (h : s.attnMatches) :
    (s.finish st fl d).attnMatches := by
  unfold State.finish
  split
  · exact h
  · exact State.enqueue_attnMatches _ _

theorem attnMatches_linkClosed : LinkClosed State.attnMatches where
  congr s t _ _ hhlc h := by rw [State.attnMatches, hhlc]; exact h
  report s n h := s.report_attnMatches n h
  finish s st fl d h := s.finish_attnMatches st fl d h

/-- A command that needs a live part keeps the law: on an inert part the queue stays empty. -/
theorem NeedsSupply.keeps_attnFollowsQueue {f : State → State} (hf : NeedsSupply f)
    (hm : s.attnMatches → (f s).attnMatches) (h : s.attnFollowsQueue) : (f s).attnFollowsQueue := by
  obtain ⟨hattn, hempty⟩ := h
  refine ⟨hm hattn, fun hd => ?_⟩
  have hlive : s.live = false := (hf.keepsLive s).symm.trans hd
  rw [hf.inert s hlive]
  exact hempty hlive

/-! ### The fall of HCS -/

/-- The fall of HCS fixes the head frame's bytes and removes no frame (R148, R183). -/
theorem hcsFall_attnFollowsQueue (h : s.attnFollowsQueue) : (hcsFall s).attnFollowsQueue := by
  obtain ⟨hattn, hempty⟩ := h
  unfold hcsFall
  split
  · next hc =>
    have hlive : s.live = true := (Bool.and_eq_true_iff.1 hc).1
    refine ⟨?_, fun hd => absurd (hlive.symm.trans hd) (by decide)⟩
    cases hq : s.hlc.outq <;> simp [hattn, hq]
  · exact ⟨hattn, hempty⟩

/-! ### The end of a transaction -/

/-- The removal of the frame sent clears ATTN with the last frame; a loss marker that goes on counting stays (R155,
R183). -/
theorem State.removeSent_attnMatches (x : Transaction) (n : Nat) (h : s.attnMatches) :
    (s.removeSent x n).attnMatches := by
  unfold State.removeSent
  split
  · split
    · exact h
    · rfl
    · rfl
    · next hq =>
      split
      · rfl
      · simpa [State.attnMatches, hq] using h
  · exact h

theorem State.removeSent_live (x : Transaction) (n : Nat) : (s.removeSent x n).live = s.live := by
  unfold State.removeSent
  (repeat' split) <;> rfl

/-- RESET leaves its reply alone in the queue (R173). -/
theorem State.resetRequest_attnMatches (req : Request) : (s.resetRequest req).attnMatches :=
  attnMatches_linkClosed.setMode_keeps _ _ rfl

theorem State.resetRequest_live (req : Request) : (s.resetRequest req).live = s.live := by
  simp only [State.resetRequest, State.setMode_live]
  simp [State.live]

theorem State.admitFrame_attnMatches (bytes : List Byte) (h : s.attnMatches) : (s.admitFrame bytes).attnMatches := by
  unfold State.admitFrame
  split
  · exact h
  · split
    · split
      · exact s.resetRequest_attnMatches _
      · exact h
    · exact h

theorem State.admitFrame_live (bytes : List Byte) : (s.admitFrame bytes).live = s.live := by
  unfold State.admitFrame
  split
  · rfl
  · split
    · split
      · exact s.resetRequest_live _
      · rfl
    · rfl

theorem State.endTransaction_attnMatches (x : Transaction) (bits : List Bool) (h : s.attnMatches) :
    (s.endTransaction x bits).attnMatches :=
  attnMatches_linkClosed.settle_keeps _
    (State.admitFrame_attnMatches _ (bytesOf bits) (s.removeSent_attnMatches x (bytesOf bits).length h))

theorem State.endTransaction_live (x : Transaction) (bits : List Bool) :
    (s.endTransaction x bits).live = s.live := by
  have hadmit := (State.admitFrame_live _ (bytesOf bits)).trans (s.removeSent_live x (bytesOf bits).length)
  simp only [State.endTransaction, State.settle_frame]
  exact hadmit

theorem transactionEnd_attnFollowsQueue (bits : List Bool) (h : s.attnFollowsQueue) :
    (transactionEnd bits s).attnFollowsQueue := by
  obtain ⟨hattn, hempty⟩ := h
  unfold transactionEnd
  split
  · next x _ =>
    split
    · next hlive =>
      have hlive' : (s.endTransaction x bits).live = true := (s.endTransaction_live x bits).trans hlive
      exact ⟨s.endTransaction_attnMatches x bits hattn, fun hd => absurd (hlive'.symm.trans hd) (by decide)⟩
    · exact ⟨hattn, hempty⟩
  · exact ⟨hattn, hempty⟩

/-! ### The supply and HRST -/

/-- At the power-on values the queue is empty and ATTN low, whatever the supply and HRST are (R159). -/
theorem State.attnFollowsQueue_of_atInit {level : Bool} (h : s.hlc = .atInit level) : s.attnFollowsQueue := by
  rw [State.attnFollowsQueue, h]
  exact ⟨rfl, fun _ => rfl⟩

theorem powerOn_attnFollowsQueue : (powerOn s).attnFollowsQueue :=
  State.attnFollowsQueue_of_atInit _ rfl

theorem powerLoss_attnFollowsQueue : (powerLoss s).attnFollowsQueue :=
  State.attnFollowsQueue_of_atInit _ rfl

/-- Without supply an edge of HRST finds the queue empty (R16). -/
theorem State.setHrst_attnFollowsQueue (level : Bool) (hp : s.powered = false) (h : s.attnFollowsQueue) :
    State.attnFollowsQueue { s with hrst := level } := by
  obtain ⟨hattn, hempty⟩ := h
  exact ⟨hattn, fun _ => hempty (by simp [State.live, hp])⟩

theorem hrstAssert_attnFollowsQueue (h : s.attnFollowsQueue) : (hrstAssert s).attnFollowsQueue := by
  unfold hrstAssert
  split
  · exact h
  · split
    · exact State.attnFollowsQueue_of_atInit _ rfl
    · next hp => exact s.setHrst_attnFollowsQueue true (by simpa using hp) h

theorem hrstDeassert_attnFollowsQueue (h : s.attnFollowsQueue) : (hrstDeassert s).attnFollowsQueue := by
  unfold hrstDeassert
  split
  · split
    · exact State.attnFollowsQueue_of_atInit _ rfl
    · next hp => exact s.setHrst_attnFollowsQueue false (by simpa using hp) h
  · exact h

/-! ### Every command, every step -/

theorem exec_supply_attnFollowsQueue {i : Instr} {s t : State} (hs : i.isSupply = true) (hx : exec i s = .next t)
    (h : s.attnFollowsQueue) : t.attnFollowsQueue := by
  cases i
  case powerOn => cases hx; exact powerOn_attnFollowsQueue _
  case hrstAssert dt => cases hx; exact hrstAssert_attnFollowsQueue (s.advance dt) h
  case hrstDeassert dt => cases hx; exact hrstDeassert_attnFollowsQueue (s.advance dt) h
  case powerLoss => cases hx; exact powerLoss_attnFollowsQueue _
  all_goals cases hs

theorem exec_attnFollowsQueue {i : Instr} {s t : State} (hx : exec i s = .next t) (h : s.attnFollowsQueue) :
    t.attnFollowsQueue := by
  by_cases hs : i.isSupply = true
  · exact exec_supply_attnFollowsQueue hs hx h
  by_cases hf : ∃ dt, i = .hcsFall dt
  · obtain ⟨dt, rfl⟩ := hf
    cases hx; exact hcsFall_attnFollowsQueue (s.advance dt) h
  by_cases he : ∃ dt bits, i = .transactionEnd dt bits
  · obtain ⟨dt, bits, rfl⟩ := he
    cases hx; exact transactionEnd_attnFollowsQueue (s.advance dt) bits h
  simp only [Bool.not_eq_true, not_exists] at hs hf he
  obtain ⟨f, hneeds, rfl⟩ := exec_needsSupply hs hf he hx
  exact hneeds.keeps_attnFollowsQueue (s.advance i.elapsed)
    (fun _ => attnMatches_linkClosed.exec_keeps s hs hf he hx h.1) h

/-- Settles O52: the report and the reply that queue a frame raise ATTN, the removal that empties the queue lowers it,
and a part that becomes inert takes its power-on values. -/
theorem attnFollowsQueue : Obligations.AttnFollowsQueue := by
  unfold Obligations.AttnFollowsQueue
  intro s t h hstep
  unfold step at hstep
  split at hstep
  · cases hstep; exact h
  · exact exec_attnFollowsQueue hstep h

end Sys2Proof.Machine
end

section
/-! PROOF. IDENTIFY (R170): a reply given at once, then the arbiter's acts at the end of the beginning, which are none
for an arbiter at rest. -/

namespace Sys2Proof.Machine

variable (s : State)

/-! ## The arbiter at rest -/

theorem State.closeHeld_of_not_held (h : ∀ k row, s.arb.circuit ≠ .held k row) : s.closeHeld = s := by
  unfold State.closeHeld
  split
  · next k row hc => exact absurd hc (h k row)
  · rfl

/-- An arbiter at rest grants nothing: its circuit is busy, or free with no claim pending (R43). -/
theorem State.settle_of_atRest (h : s.arbiterAtRest) : s.settle = s := by
  obtain ⟨hheld, hclaims⟩ := h
  by_cases hfree : s.arb.circuit = .free
  · rw [s.settle_of_free hfree, State.grantDecision, s.chooseGrant_nil (hclaims hfree)]
  · exact s.settle_busy hfree hheld

theorem State.begun_of_atRest (tie : TieOrder) (h : s.arbiterAtRest) : s.begun tie = s := by
  have hclose : s.closeHeld = s := s.closeHeld_of_not_held h.1
  have hsettle : s.settle = s := s.settle_of_atRest h
  rw [State.begun, hclose]
  obtain ⟨e, -⟩ | ⟨e, -⟩ | ⟨e, -⟩ := s.conclude_cases tie
  · exact e
  · rw [e, hsettle]
  · rw [e, hclose, hsettle]

/-! ## A request answered at its beginning -/

section Answered

variable {s} {tag : Byte} {k : RequestKind} {payload : List Byte} {rest : List Request} (dt : Nat) (tie : TieOrder)
  (status : Status) (flags : Byte) (data : List Byte)

theorem State.begun_finish_answers (h : s.heads tag k payload rest) :
    s.answers (((s.advance dt).finish status flags data).begun tie) tag rest status flags data := by
  obtain ⟨-, -, hqueue⟩ := h
  simp [State.answers, (s.advance dt).finish_spec status flags data hqueue]

variable (s) in
/-- A reply touches the request engine and the outbound queue only; all else that changes is the arbiter's act. -/
theorem State.begun_finish_raisesNothing :
    s.raisesNothing (((s.advance dt).finish status flags data).begun tie) := by
  refine ⟨?_, fun c hc => ?_⟩
  · simpa [State.onlyArbiterActs, State.blocksKept, State.cellsKept, State.registersKept, State.slotsKept] using
      State.begun_onlyArbiterActs ((s.advance dt).finish status flags data) tie
  · simpa [State.hasClaim, State.holdsClaim, State.inFlight] using (State.begun_hasClaim _ tie c).1 hc

/-- With the arbiter at rest the time, the request queue and the outbound queue are all that changes. -/
theorem State.begun_finish_of_atRest (h : s.heads tag k payload rest) (hrest : s.arbiterAtRest) :
    ((s.advance dt).finish status flags data).begun tie = { s with
      clock := s.clock + dt
      rqe := (((s.advance dt).finish status flags data).begun tie).rqe
      hlc := (((s.advance dt).finish status flags data).begun tie).hlc } := by
  obtain ⟨-, -, hqueue⟩ := h
  have hrest' : ((s.advance dt).finish status flags data).arbiterAtRest := by
    simpa [State.arbiterAtRest] using hrest
  rw [State.begun_of_atRest _ tie hrest', (s.advance dt).finish_spec status flags data hqueue]
  rfl

end Answered

/-! ## The obligation -/

/-- The family and part codes, the revision, 512 rows, 256 cells, 5 line registers, byte by byte (R170, R178). -/
theorem identityData_bytes : identityData = [0x4B, 0x25, 0x16, 0x01, 0x02, 0x00, 0x01, 0x00, 0x05] := by
  decide

/-- An IDENTIFY carries no payload, and no other check can refuse it (R170). -/
theorem identify_of_heads {s : State} {tag : Byte} {rest : List Request} (dt : Nat) (tie : TieOrder)
    (h : s.heads tag .identify [] rest) :
    identify tie (s.advance dt) = ((s.advance dt).finish .ok 0 identityData).begun tie := by
  simp [identify, State.beginning_of_heads dt h]

/-- Settles O28: the beginning of an IDENTIFY is its reply and then the arbiter's acts, none for an arbiter at rest. -/
theorem identifyAnswersFixedValues : Obligations.IdentifyAnswersFixedValues := by
  unfold Obligations.IdentifyAnswersFixedValues
  intro s dt tie tag rest h
  refine ⟨identify tie (s.advance dt), rfl, ?_⟩
  rw [identify_of_heads dt tie h, ← identityData_bytes]
  exact ⟨State.begun_finish_answers dt tie .ok 0 identityData h,
    s.begun_finish_raisesNothing dt tie .ok 0 identityData,
    State.begun_finish_of_atRest dt tie .ok 0 identityData h⟩

end Sys2Proof.Machine
end

section
/-! PROOF. What a command is apart from its moment, and the rule by which a property of every command is one of every
step; then the commands' time (log entries 2, 6, 21), what an inert part ignores, and the supply and HRST (R15, R16). -/

namespace Sys2Proof

/-- What a command does once its time has passed, where it names something the part has. -/
def Instr.run (i : Instr) (s : Machine.State) : Machine.State :=
  match i with
  | .powerOn _ => Machine.powerOn s
  | .hrstAssert _ => Machine.hrstAssert s
  | .hrstDeassert _ => Machine.hrstDeassert s
  | .warmupEnd _ => Machine.warmupEnd s
  | .loadCompletion m => Machine.loadCompletion m.tie s
  | .commitCompletion m => Machine.commitCompletion m.tie s
  | .copyLoadCompletion _ => Machine.copyLoadCompletion s
  | .copyCommitCompletion m => Machine.copyCommitCompletion m.tie s
  | .fillCompletion m => Machine.fillCompletion m.tie s
  | .refreshCompletion m => Machine.refreshCompletion m.tie s
  | .scrubCompletion _ => Machine.scrubCompletion s
  | .openCompletion _ tie => Machine.openCompletion tie s
  | .columnBurstEnd _ tie => Machine.columnBurstEnd tie s
  | .routineThreshold _ => Machine.routineThreshold s
  | .urgentCrossing _ row => Machine.urgentCrossing row s
  | .deadline _ row => Machine.deadline row s
  | .hcsFall _ => Machine.hcsFall s
  | .transactionEnd _ bits => Machine.transactionEnd bits s
  | .identify m => Machine.identify m.tie s
  | .status m => Machine.status m.tie s
  | .configure m => Machine.configure m.tie s
  | .openRow m => Machine.openRow m.tie s
  | .close m => Machine.close m.tie s
  | .read _ tie => Machine.read tie s
  | .write _ tie => Machine.write tie s
  | .exchange _ tie => Machine.exchange tie s
  | .fillRows m => Machine.fillRows m.tie s
  | .copyRow m => Machine.copyRow m.tie s
  | .refresh m => Machine.refresh m.tie s
  | .rowQuery m => Machine.rowQuery m.tie s
  | .streamSetup m => Machine.streamSetup m.tie s
  | .streamAppend m => Machine.streamAppend m.tie s
  | .streamStart m => Machine.streamStart m.tie s
  | .streamStop m => Machine.streamStop m.tie s
  | .streamFlush m => Machine.streamFlush m.tie s
  | .streamQuery m => Machine.streamQuery m.tie s
  | .playbackEdge _ n => Machine.playbackEdge n s
  | .captureEdge _ n cell => Machine.captureEdge n cell s
  | .playbackHoldExpiry _ r => Machine.playbackHoldExpiry r s
  | .captureHoldExpiry _ r => Machine.captureHoldExpiry r s
  | .lr4HoldExpiry _ => Machine.lr4HoldExpiry s
  | .idleExpiry _ k => Machine.idleExpiry k s
  | .powerLoss _ => Machine.powerLoss s

end Sys2Proof

namespace Sys2Proof.Machine

variable (s : State)

/-! ## Commands and steps -/

theorem isStream_eq (r : LrId) : r.isStream = (streamOf r).isSome := by
  cases r <;> rfl

/-- A command of something the part has runs at its moment (log entry 2). -/
theorem exec_of_wellFormed {i : Instr} (h : i.wellFormed = true) : exec i s = .next (i.run (s.advance i.elapsed)) := by
  cases i
  case urgentCrossing dt row | deadline dt row =>
    have hrow : row < Config.rows := by simpa [Instr.wellFormed] using h
    simp [exec, execUrgentCrossing, execDeadline, hrow, Instr.run, Instr.elapsed]
  case playbackHoldExpiry dt r | captureHoldExpiry dt r =>
    have hr : (streamOf r).isSome = true := isStream_eq r ▸ h
    simp [exec, execPlaybackHoldExpiry, execCaptureHoldExpiry, hr, Instr.run, Instr.elapsed]
  all_goals rfl

/-- A command of nothing the part has faults (log entry 21). -/
theorem exec_of_not_wellFormed {i : Instr} (h : i.wellFormed = false) :
    exec i s = .fault .noSuchRow ∨ exec i s = .fault .notAStreamRegister := by
  cases i
  case urgentCrossing dt row | deadline dt row =>
    have hrow : ¬ row < Config.rows := by simpa [Instr.wellFormed] using h
    simp [exec, execUrgentCrossing, execDeadline, hrow]
  case playbackHoldExpiry dt r | captureHoldExpiry dt r =>
    have hr : ¬ (streamOf r).isSome = true := by rw [← isStream_eq r]; simpa [Instr.wellFormed] using h
    simp [exec, execPlaybackHoldExpiry, execCaptureHoldExpiry, hr]
  all_goals cases h

theorem exec_next {i : Instr} {t : State} (hx : exec i s = .next t) :
    i.wellFormed = true ∧ t = i.run (s.advance i.elapsed) := by
  cases h : i.wellFormed with
  | true =>
    rw [exec_of_wellFormed s h] at hx
    cases hx
    exact ⟨rfl, rfl⟩
  | false => obtain e | e := exec_of_not_wellFormed s h <;> rw [e] at hx <;> cases hx

/-- What the passing of time, the queue of commands and every command keep, every step keeps. -/
theorem step_keeps {P : State → Prop} (hpending : ∀ s rest, P s → P { s with pending := rest })
    (hadvance : ∀ s dt, P s → P (State.advance s dt)) (hrun : ∀ (i : Instr) s, i.wellFormed = true → P s → P (i.run s))
    (s t : State) (h : P s) (hstep : step s = .next t) : P t := by
  unfold step at hstep
  split at hstep
  · cases hstep; exact h
  · obtain ⟨hwf, rfl⟩ := exec_next _ hstep
    exact hrun _ _ hwf (hadvance _ _ (hpending _ _ h))

/-- A command's claim about its outcome is one about its run. -/
theorem completes_of_run {i : Instr} {φ : State → Prop} (hwf : i.wellFormed = true)
    (h : φ (i.run (s.advance i.elapsed))) : Completes i s φ :=
  ⟨_, exec_of_wellFormed s hwf, h⟩

/-- Settles O1: step's two equations. -/
theorem stepRunsFrontCommand : Obligations.StepRunsFrontCommand := by
  refine ⟨fun c rest s h => ?_, fun s h => ?_⟩ <;> simp [step, h]

/-! ## A change of the refresh mode -/

theorem State.foldl_keeps {α β : Type} {f : State → α → State} (g : State → β) (hf : ∀ t a, g (f t a) = g t)
    (l : List α) : g (l.foldl f s) = g s := by
  induction l generalizing s with
  | nil => rfl
  | cons a l ih => exact (ih (f s a)).trans (hf s a)

/-- A change to AUTO leaves all but the mode and the claims. -/
@[simp] theorem State.toAuto_frame :
    s.toAuto.pending = s.pending ∧ s.toAuto.clock = s.clock ∧ s.toAuto.powered = s.powered ∧ s.toAuto.hrst = s.hrst
      ∧ s.toAuto.rat = s.rat ∧ s.toAuto.rfe = { s.rfe with mode := .auto } ∧ s.toAuto.lrb = s.lrb
      ∧ s.toAuto.ste = s.ste ∧ s.toAuto.sst = s.sst ∧ s.toAuto.rqe = s.rqe ∧ s.toAuto.hlc = s.hlc
      ∧ s.toAuto.ntu = s.ntu := by
  have hfold := fun (t : State) (l : List Nat) => t.foldl_keeps (f := State.raiseUrgent)
    (fun u => (u.pending, u.clock, u.powered, u.hrst, u.rat, u.rfe, u.lrb, u.ste, u.sst, u.rqe, u.hlc, u.ntu))
    (fun u a => by simp) l
  simp only [Prod.mk.injEq] at hfold
  simp [State.toAuto, hfold]

/-- A change to HOSTED leaves all but the mode, the claims, the rows' crossings and the reports. -/
@[simp] theorem State.toHosted_frame :
    s.toHosted.pending = s.pending ∧ s.toHosted.clock = s.clock ∧ s.toHosted.powered = s.powered
      ∧ s.toHosted.hrst = s.hrst ∧ s.toHosted.rat.memory = s.rat.memory ∧ s.toHosted.rat.state = s.rat.state
      ∧ s.toHosted.rat.lossFill = s.rat.lossFill ∧ s.toHosted.rat.table.length = s.rat.table.length
      ∧ s.toHosted.rfe = { s.rfe with mode := .hosted }
      ∧ s.toHosted.arb = { s.arb with claims := s.arb.claims.filter fun c => !(c.cls == .routine || c.cls == .urgent) }
      ∧ s.toHosted.lrb = s.lrb ∧ s.toHosted.ste = s.ste ∧ s.toHosted.sst = s.sst ∧ s.toHosted.rqe = s.rqe
      ∧ s.toHosted.ntu.mask = s.ntu.mask := by
  have hmark : ∀ (u : State) r, (u.markCrossed r).rat.memory = u.rat.memory ∧ (u.markCrossed r).rat.state = u.rat.state
      ∧ (u.markCrossed r).rat.lossFill = u.rat.lossFill ∧ (u.markCrossed r).rat.table.length = u.rat.table.length :=
    fun u r => by simp [State.markCrossed]
  have hmask : ∀ (u : State) n, (u.report n).ntu.mask = u.ntu.mask := fun u n => by
    unfold State.report; split_ifs <;> simp
  have hfold := fun (t : State) (l : List Nat) => t.foldl_keeps (f := fun u r => (u.markCrossed r).report (.rowAging r))
    (fun u => (u.pending, u.clock, u.powered, u.hrst, u.rat.memory, u.rat.state, u.rat.lossFill, u.rat.table.length,
      u.rfe, u.arb, u.lrb, u.ste, u.sst, u.rqe, u.ntu.mask))
    (fun u a => by simp [hmark, hmask]) l
  simp only [Prod.mk.injEq] at hfold
  simp [State.toHosted, hfold]

@[simp] theorem State.setMode_frame (m : RefreshMode) :
    (s.setMode m).pending = s.pending ∧ (s.setMode m).clock = s.clock ∧ (s.setMode m).powered = s.powered
      ∧ (s.setMode m).hrst = s.hrst ∧ (s.setMode m).rat.memory = s.rat.memory ∧ (s.setMode m).rat.state = s.rat.state
      ∧ (s.setMode m).rat.lossFill = s.rat.lossFill ∧ (s.setMode m).rat.table.length = s.rat.table.length
      ∧ (s.setMode m).rfe = { s.rfe with mode := m }
      ∧ (s.setMode m).lrb = s.lrb ∧ (s.setMode m).ste = s.ste ∧ (s.setMode m).sst = s.sst ∧ (s.setMode m).rqe = s.rqe
      ∧ (s.setMode m).ntu.mask = s.ntu.mask := by
  unfold State.setMode
  split
  · next h => subst h; simp
  · cases m <;> simp

@[simp] theorem State.applySettings_frame (m : Option RefreshMode) (v k : Option CellVal) :
    (s.applySettings m v k).pending = s.pending ∧ (s.applySettings m v k).clock = s.clock
      ∧ (s.applySettings m v k).rat.memory = s.rat.memory ∧ (s.applySettings m v k).rat.state = s.rat.state
      ∧ (s.applySettings m v k).rat.lossFill = v.getD s.rat.lossFill
      ∧ (s.applySettings m v k).rat.table.length = s.rat.table.length
      ∧ (s.applySettings m v k).rfe = { s.rfe with mode := m.getD s.rfe.mode }
      ∧ (s.applySettings m v k).lrb = s.lrb ∧ (s.applySettings m v k).ste = s.ste
      ∧ (s.applySettings m v k).sst = s.sst ∧ (s.applySettings m v k).rqe = s.rqe := by
  unfold State.applySettings
  cases m <;> cases v <;> cases k <;> simp

/-! ## Time -/

theorem State.resetRequest_time (req : Request) :
    (s.resetRequest req).pending = s.pending ∧ (s.resetRequest req).clock = s.clock := by
  simp [State.resetRequest]

theorem State.endTransaction_time (x : Transaction) (bits : List Bool) :
    (s.endTransaction x bits).pending = s.pending ∧ (s.endTransaction x bits).clock = s.clock := by
  have hremove : ∀ n, (s.removeSent x n).pending = s.pending ∧ (s.removeSent x n).clock = s.clock := fun n => by
    unfold State.removeSent; (repeat' split) <;> simp
  have hadmit : ∀ (t : State) bytes, (t.admitFrame bytes).pending = t.pending ∧ (t.admitFrame bytes).clock = t.clock :=
    fun t bytes => by unfold State.admitFrame; (repeat' split) <;> simp [State.resetRequest_time]
  simp [State.endTransaction, hremove, hadmit]

/-- No command but the one that brought it moves the clock, and none touches the queue of commands. -/
theorem run_time (i : Instr) : (i.run s).pending = s.pending ∧ (i.run s).clock = s.clock := by
  cases i <;> simp only [Instr.run]
  case powerOn | hrstAssert | hrstDeassert | powerLoss =>
    simp only [powerOn, hrstAssert, hrstDeassert, powerLoss, State.powerOnValues]
    (repeat' split) <;> simp
  case loadCompletion | commitCompletion | copyLoadCompletion | copyCommitCompletion =>
    simp only [loadCompletion, commitCompletion, copyLoadCompletion, copyCommitCompletion]
    (repeat' split) <;> simp
  case fillCompletion | refreshCompletion | scrubCompletion | openCompletion | columnBurstEnd =>
    simp only [fillCompletion, refreshCompletion, scrubCompletion, openCompletion, columnBurstEnd]
    (repeat' split) <;> simp
  case warmupEnd | routineThreshold | urgentCrossing | deadline =>
    simp only [warmupEnd, routineThreshold, urgentCrossing, deadline]
    (repeat' split) <;> simp
  case hcsFall | transactionEnd =>
    simp only [hcsFall, transactionEnd]
    (repeat' split) <;> simp [State.endTransaction_time]
  case identify | status | configure | rowQuery =>
    simp only [identify, status, configure, rowQuery]
    (repeat' split) <;> simp
  case openRow | close | read | write | exchange =>
    simp only [openRow, close, read, write, exchange]
    (repeat' split) <;> simp
  case fillRows | copyRow | refresh =>
    simp only [fillRows, copyRow, refresh]
    (repeat' split) <;> simp
  case streamSetup | streamAppend | streamStart | streamStop | streamFlush | streamQuery =>
    simp only [streamSetup, streamAppend, streamStart, streamStop, streamFlush, streamQuery]
    (repeat' split) <;> simp
  case playbackEdge | captureEdge =>
    simp only [playbackEdge, captureEdge]
    (repeat' split) <;> simp
  case playbackHoldExpiry | captureHoldExpiry | lr4HoldExpiry | idleExpiry =>
    simp only [playbackHoldExpiry, captureHoldExpiry, lr4HoldExpiry, idleExpiry]
    (repeat' split) <;> simp

/-- Settles O2: a well-formed command is its run at its moment, which moves no time itself. -/
theorem everyCommandOfThePartCompletes : Obligations.EveryCommandOfThePartCompletes := by
  unfold Obligations.EveryCommandOfThePartCompletes
  refine fun i s => ⟨fun h => completes_of_run s h ?_, exec_of_not_wellFormed s⟩
  simp [run_time]

/-! ## An inert part -/

/-- On an inert part HCS is all that a command of the link moves (R159). -/
theorem hcsFall_of_inert (h : s.live = false) : hcsFall s = { s with hlc := { s.hlc with hcsHigh := false } } := by
  simp [hcsFall, h]

theorem transactionEnd_of_inert (bits : List Bool) (h : s.live = false) :
    transactionEnd bits s = { s with hlc := { s.hlc with hcsHigh := true } } := by
  unfold transactionEnd
  split <;> simp [h]

/-- Settles O3: of the commands that are not the supply's, the link's two move HCS and the others need a live part. -/
theorem inertPartIgnoresCommands : Obligations.InertPartIgnoresCommands := by
  unfold Obligations.InertPartIgnoresCommands
  intro i s hwf hsup hlive
  have hx := exec_of_wellFormed s hwf
  refine ⟨_, hx, ?_⟩
  by_cases hf : ∃ dt, i = .hcsFall dt
  · obtain ⟨dt, rfl⟩ := hf
    exact hcsFall_of_inert (s.advance dt) hlive
  by_cases he : ∃ dt bits, i = .transactionEnd dt bits
  · obtain ⟨dt, bits, rfl⟩ := he
    exact transactionEnd_of_inert (s.advance dt) bits hlive
  simp only [not_exists] at hf he
  obtain ⟨f, hneeds, e⟩ := exec_needsSupply hsup hf he hx
  have hhcs : i.hcsAfter s.hlc.hcsHigh = s.hlc.hcsHigh := by
    cases i
    case hcsFall dt => exact absurd rfl (hf dt)
    case transactionEnd dt bits => exact absurd rfl (he dt bits)
    all_goals rfl
  rw [e, hneeds.inert (s.advance i.elapsed) hlive, hhcs]
  rfl

/-! ## The supply and HRST -/

theorem LineReg.atInit_blank : LineReg.atInit.blank := by
  simp [LineReg.blank, LineReg.atInit]

theorem StreamRec.atInit_blank : StreamRec.atInit.blank := by
  simp [StreamRec.blank, StreamRec.atInit, Counters.zero]

theorem LineRegs.get_atInit (r : LrId) : LineRegs.atInit.get r = .atInit := by
  cases r <;> rfl

theorem Streams.get_atInit (n : StreamId) : Streams.atInit.get n = .atInit := by
  cases n <;> rfl

theorem Sessions.get_atInit (k : SlotId) : Sessions.atInit.get k = .atInit := by
  cases k <;> rfl

theorem RowArray.atInit_getD (clock epoch : Nat) {r : Nat} (h : r < 512) (d : RowEntry) :
    (RowArray.atInit clock epoch).table.getD r d = RowEntry.atInit clock := by
  show (List.replicate 512 (RowEntry.atInit clock)).getD r d = RowEntry.atInit clock
  exact List.getD_replicate _ h

/-- The power-on values of the blocks, chapter by chapter (R15, R36, R53, R75, R108, R127, R144, R159, R175, R185). -/
theorem State.powerOnValues_atPowerOn (start : Option Nat) : (s.powerOnValues start).atPowerOn start := by
  refine ⟨⟨rfl, rfl, fun r hr => ?_⟩, by simp [State.powerOnValues, RefreshEngine.atInit], ⟨rfl, rfl, rfl⟩, fun r => ?_, fun n => ?_, fun k => ?_,
    ⟨rfl, rfl, rfl⟩, ⟨rfl, rfl, rfl, rfl, rfl⟩, ⟨rfl, rfl⟩⟩
  · have hrow : (s.powerOnValues start).row r = RowEntry.atInit s.clock := RowArray.atInit_getD s.clock _ hr _
    rw [hrow]
    exact ⟨rfl, rfl, rfl⟩
  · have hreg : (s.powerOnValues start).lr r = .atInit := LineRegs.get_atInit r
    exact hreg ▸ LineReg.atInit_blank
  · have hstr : (s.powerOnValues start).str n = .atInit := Streams.get_atInit n
    exact hstr ▸ StreamRec.atInit_blank
  · have hslot : (s.powerOnValues start).slot k = .atInit := Sessions.get_atInit k
    rw [hslot]
    exact ⟨rfl, rfl, rfl⟩

/-- Settles O4: both commands are the power-on values with the warm-up begun at their moment. -/
theorem powerUpInitialises : Obligations.PowerUpInitialises := by
  unfold Obligations.PowerUpInitialises
  refine fun s dt => ⟨fun hh => ⟨_, rfl, ?_⟩, fun hp hh => ⟨_, rfl, ?_⟩⟩
  · have e : powerOn (s.advance dt) =
        { (s.advance dt).powerOnValues (some (s.clock + dt)) with powered := true } := by
      simp [powerOn, hh]
    rw [e]
    exact ⟨by simp [State.live, State.powerOnValues, hh], State.powerOnValues_atPowerOn (s.advance dt) _⟩
  · have e : hrstDeassert (s.advance dt) =
        { (s.advance dt).powerOnValues (some (s.clock + dt)) with hrst := false } := by
      simp [hrstDeassert, hp, hh]
    rw [e]
    exact ⟨by simp [State.live, State.powerOnValues, hp], State.powerOnValues_atPowerOn (s.advance dt) _⟩

/-- With every row undefined a cell reads as the free value of its address (R1; log entry 10). -/
theorem Memory.read_allUndefined (epoch : Nat) {row col : Nat} (hr : row < 512) (hc : col < 256) :
    (Memory.allUndefined epoch).read row col = Config.undefinedCell epoch (row * 256 + col) := by
  have hrow : cellAddress row col / Config.columns = row := cellAddress_row hc
  simp [Memory.read, Memory.allUndefined, Memory.unlisted, hrow, hr]
  rfl

/-- Settles O5: both commands are the power-on values without a warm-up, one without supply, one under HRST. -/
theorem resetAndPowerLossStopThePart : Obligations.ResetAndPowerLossStopThePart := by
  unfold Obligations.ResetAndPowerLossStopThePart
  rintro s dt i (⟨rfl, hp, hh⟩ | rfl)
  · have e : hrstAssert (s.advance dt) = { (s.advance dt).powerOnValues none with hrst := true } := by
      simp [hrstAssert, hp, hh]
    refine ⟨_, rfl, ?_⟩
    rw [e]
    exact ⟨by simp [State.live], State.powerOnValues_atPowerOn (s.advance dt) none,
      fun row col hr hc => Memory.read_allUndefined _ hr hc⟩
  · exact ⟨_, rfl, rfl, State.powerOnValues_atPowerOn (s.advance dt) none,
      fun row col hr hc => Memory.read_allUndefined _ hr hc⟩

end Sys2Proof.Machine
end

section
/-! PROOF. What the stream engines can do to the rest of the part: whatever a write of a record or of a stream's register,
a report, the reply of a waiting STREAM_STOP, and a register's claim or its withdrawal keep (StreamClosed). -/

namespace Sys2Proof.Machine

/-- A property that every single act of a stream engine keeps. -/
structure StreamClosed (P : State → Prop) : Prop where
  setStr : ∀ {s : State} (n : StreamId) (x : StreamRec), P s → P (s.setStr n x)
  setLr : ∀ {s : State} {r : LrId} (x : LineReg), (streamOf r).isSome = true → P s → P (s.setLr r x)
  report : ∀ {s : State} (x : Notice), P s → P (s.report x)
  finish : ∀ {s : State} {n : StreamId}, s.rqe.phase = .stopping n → P s → P (s.finish .ok 0 [])
  raise : ∀ {s : State} {kind : ClaimKind} {r : LrId} (row : Nat), kind = .load ∨ kind = .commit →
    (streamOf r).isSome = true → P s → P (s.raiseClaim ⟨kind, row, .register r, .stream⟩)
  withdraw : ∀ {s : State} {r : LrId}, (streamOf r).isSome = true → P s → P (s.withdraw fun c => c.isOf r)

@[simp] theorem streamOf_evenReg (n : StreamId) : streamOf (evenReg n) = some n := by
  cases n <;> rfl

@[simp] theorem streamOf_oddReg (n : StreamId) : streamOf (oddReg n) = some n := by
  cases n <;> rfl

/-- A stream's registers are its two (R55). -/
theorem streamOf_eq_some {r : LrId} {n : StreamId} : streamOf r = some n ↔ r = evenReg n ∨ r = oddReg n := by
  cases r <;> cases n <;> decide

section Registers

variable {s : State} {n : StreamId} {r : LrId}

theorem State.streamOf_find {p : LrId → Bool} (h : [evenReg n, oddReg n].find? p = some r) : streamOf r = some n := by
  have hmem := List.mem_of_find?_eq_some h
  simp only [List.mem_cons, List.not_mem_nil, or_false] at hmem
  exact streamOf_eq_some.2 hmem

theorem State.streamOf_receiving (h : s.receiving n = some r) : streamOf r = some n :=
  State.streamOf_find h

/-- The registers that hold a segment are the stream's, each with its segment. -/
theorem State.mem_heldRegs : r ∈ s.heldRegs n ↔ streamOf r = some n ∧ (s.lr r).segment.isSome = true := by
  rw [streamOf_eq_some]
  simp only [State.heldRegs]
  cases he : (s.lr (evenReg n)).segment.isSome <;> cases ho : (s.lr (oddReg n)).segment.isSome
  case true.true => split <;> grind
  all_goals grind

theorem State.streamOf_playCurrent (h : s.playCurrent n = some r) : streamOf r = some n :=
  (State.mem_heldRegs.1 (List.mem_of_head? h)).1

end Registers

/-! ## The acts of the engines in steps of their own -/

/-- SEGMENT_MARK of a marked segment, on a condition (R91, R115). -/
def State.reportMark (s : State) (n : StreamId) (g : Segment) (b : Bool) : State :=
  match g.mark with
  | some m => s.reportIf b (.segmentMark n m g.row)
  | none => s

/-- A stop's first step: an overrun segment is abandoned (R122). -/
def State.abandonOverrun (s : State) (n : StreamId) : State :=
  match (s.str n).overrunSegment with
  | some t => s.capAbandonOverrun n t (s.str n).overrunCount
  | none => s

/-- A stop's second step: what becomes of the receiving register (R122). -/
def State.stopReceiving (s : State) (n : StreamId) : State :=
  match s.receiving n with
  | some r =>
    match (s.lr r).segment with
    | some g => s.capStopReceiving n r g
    | none => s
  | none => s

theorem State.capStopEffect_eq (s : State) (n : StreamId) :
    s.capStopEffect n = ((s.abandonOverrun n).stopReceiving n).stopNext n := rfl

/-- The mark and the counts of a commit's completion (R115). -/
def State.endSegment (s : State) (n : StreamId) (x : LineReg) (g : Segment) : State :=
  let s₁ := s.reportMark n g true
  if x.position = g.range then s₁.count n fun c => { c with completed := satAdd c.completed 1 }
  else
    let given := x.position - Config.sectionCells * sectionCount x.filled
    (s₁.report (.segmentAbandoned n g.row .stop given)).capAbandonCount n given

theorem State.capCommitted_eq (s : State) (n : StreamId) (r : LrId) (x : LineReg) (g : Segment) :
    s.capCommitted n r x g =
      ((((s.endSegment n x g).setLr r (x.cleared none)).capFinish n ⟨x.takeSeq, g⟩).capTake n).checkStopped n := rfl

/-- A begun segment is abandoned or, in STARVED, dropped by a stop; then the stop takes effect (R104). -/
def State.playStopDrop (s : State) (n : StreamId) (r : LrId) (g : Segment) : State :=
  let s₁ :=
    if (s.str n).state = .starved then s.report (.streamUnderrun n g.row (s.str n).starvedRun .dropped)
    else s.report (.segmentAbandoned n g.row .stop ((s.lr r).remaining g))
  let s₂ := s₁.count n fun c => { c with dropped := satAdd c.dropped 1 }
  ((s₂.emptyReg r).playCopy n g).playStopEffect n

theorem State.playStopNow_eq (s : State) (n : StreamId) :
    s.playStopNow n =
      match s.playCurrent n with
      | none => s.playStopEffect n
      | some r =>
        match (s.lr r).segment, s.playBegun n with
        | some g, true => s.playStopDrop n r g
        | _, _ => s.playStopEffect n := rfl

/-- The cell that an edge outputs, counted (R60, R89, R91). -/
def State.playOutput (s : State) (n : StreamId) (r : LrId) (g : Segment) : State :=
  let x := s.lr r
  let first := x.position == 0 && x.passesLeft == g.repeats
  let s₁ := s.mapStr n fun y =>
    { y with
      state := .running
      sd := some (cellAt x.content (Config.sectionCells * g.first + x.position))
      smk := first && g.mark.isSome }
  (s₁.count n fun c => { c with cellsMoved := satAdd c.cellsMoved 1 }).reportMark n g first

theorem State.playRead_eq (s : State) (n : StreamId) (r : LrId) (g : Segment) :
    s.playRead n r g =
      match (s.lr r).advanced g with
      | some x' => (s.playOutput n r g).setLr r { x' with state := .active, holdTimer := some s.clock, begun := true }
      | none =>
        ((((s.playOutput n r g).emptyReg r).count n fun c => { c with completed := satAdd c.completed 1 }).playCopy n
          g).playAfterEnd n := rfl

namespace StreamClosed

variable {P : State → Prop} (h : StreamClosed P) {s : State} {n : StreamId} {r : LrId}
include h

/-! ## What both directions share -/

theorem mapStr (f : StreamRec → StreamRec) (hp : P s) : P (s.mapStr n f) :=
  h.setStr n _ hp

theorem count (f : Counters → Counters) (hp : P s) : P (s.count n f) :=
  h.mapStr _ hp

theorem mapLr (f : LineReg → LineReg) (hr : streamOf r = some n) (hp : P s) : P (s.mapLr r f) :=
  h.setLr _ (by simp [hr]) hp

theorem setReg (x : LineReg) (hr : streamOf r = some n) (hp : P s) : P (s.setLr r x) :=
  h.setLr _ (by simp [hr]) hp

theorem emptyReg (hr : streamOf r = some n) (hp : P s) : P (s.emptyReg r) :=
  h.setLr _ (by simp [hr]) (h.withdraw (by simp [hr]) hp)

theorem takeHead (g : Segment) (rest : List Segment) (st : LrState) (hr : streamOf r = some n) (hp : P s) :
    P (s.takeHead n r g rest st) := by
  simp only [State.takeHead]
  exact h.mapLr _ hr (h.mapStr _ hp)

theorem streamToIdle (hp : P s) : P (s.streamToIdle n) := by
  simp only [State.streamToIdle]
  have hidle := h.mapStr (n := n) (fun x => { x with state := .idle, sd := none, smk := false, stopRequest := none }) hp
  have hreplied : P (if (s.mapStr n fun x => { x with state := .idle, sd := none, smk := false, stopRequest := none
      }).rqe.phase = .stopping n then
      (s.mapStr n fun x => { x with state := .idle, sd := none, smk := false, stopRequest := none }).finish .ok 0 []
      else s.mapStr n fun x => { x with state := .idle, sd := none, smk := false, stopRequest := none }) := by
    split
    · next hphase => exact h.finish hphase hidle
    · exact hidle
  split
  · exact h.report _ hreplied
  · exact hreplied

theorem stopNext (hp : P s) : P (s.stopNext n) := by
  unfold State.stopNext
  split
  · exact h.streamToIdle hp
  · exact h.mapStr _ hp

theorem checkStopped (hp : P s) : P (s.checkStopped n) := by
  unfold State.checkStopped
  split
  · exact h.streamToIdle hp
  · exact hp

theorem drain (hp : P s) : P (s.drain n) :=
  h.report _ (h.mapStr _ hp)

theorem reportIf (b : Bool) (x : Notice) (hp : P s) : P (s.reportIf b x) := by
  unfold State.reportIf
  split
  · exact h.report x hp
  · exact hp

theorem reportMark (g : Segment) (b : Bool) (hp : P s) : P (s.reportMark n g b) := by
  unfold State.reportMark
  split
  · exact h.reportIf b _ hp
  · exact hp

/-! ## Capture -/

theorem capTake (hp : P s) : P (s.capTake n) := by
  obtain e | ⟨q, g, rest, -, hfind, -, e⟩ := s.capTake_cases n
  · rw [e]; exact hp
  · have htaken := h.takeHead (n := n) g rest .active (State.streamOf_find hfind) hp
    rw [e]
    split
    · exact h.mapStr _ htaken
    · exact htaken

theorem releaseCopies (hp : P s) : P (s.releaseCopies n) := by
  simp only [State.releaseCopies]
  exact h.mapStr _ hp

theorem capFinish (t : Taken) (hp : P s) : P (s.capFinish n t) := by
  simp only [State.capFinish]
  split
  · generalize hs : State.releaseCopies _ n = s₂
    have hp₂ : P s₂ := hs ▸ h.releaseCopies (h.mapStr _ hp)
    split
    · exact h.mapStr _ hp₂
    · exact hp₂
  · exact hp

theorem capAbandonCount (given : Nat) (hp : P s) : P (s.capAbandonCount n given) :=
  h.count _ hp

theorem capAbandonOverrun (t : Taken) (cells : Nat) (hp : P s) : P (s.capAbandonOverrun n t cells) :=
  h.capFinish t (h.mapStr _ (h.capAbandonCount 0 (h.report _ hp)))

theorem raiseCommit (g : Segment) (hr : streamOf r = some n) (hp : P s) : P (s.raiseCommit r g) :=
  h.raise g.row (.inr rfl) (by simp [hr]) hp

theorem capStopReceiving (g : Segment) (hr : streamOf r = some n) (hp : P s) : P (s.capStopReceiving n r g) := by
  simp only [State.capStopReceiving]
  split
  · exact h.releaseCopies (h.mapStr _ (h.emptyReg hr hp))
  · split
    · exact h.capFinish _ (h.emptyReg hr (h.capAbandonCount _ (h.report _ hp)))
    · exact h.raiseCommit g hr hp

theorem abandonOverrun (hp : P s) : P (s.abandonOverrun n) := by
  unfold State.abandonOverrun
  split
  · exact h.capAbandonOverrun _ _ hp
  · exact hp

theorem stopReceiving (hp : P s) : P (s.stopReceiving n) := by
  unfold State.stopReceiving
  split
  · next q hq =>
    split
    · exact h.capStopReceiving _ (State.streamOf_receiving hq) hp
    · exact hp
  · exact hp

theorem capStopEffect (hp : P s) : P (s.capStopEffect n) := by
  rw [State.capStopEffect_eq]
  exact h.stopNext (h.stopReceiving (h.abandonOverrun hp))

theorem capRangeFull (hp : P s) : P (s.capRangeFull n) := by
  unfold State.capRangeFull
  split
  · exact h.capStopEffect hp
  · split
    · exact h.drain hp
    · exact h.capTake hp

theorem capReceive (g : Segment) (cell : CellVal) (hr : streamOf r = some n) (hp : P s) :
    P (s.capReceive n r g cell) := by
  simp only [State.capReceive]
  have hreceived := fun f f' => h.mapLr (n := n) f hr (h.mapStr (n := n) f' hp)
  split
  · exact h.capRangeFull (h.raiseCommit g hr (hreceived _ _))
  · exact hreceived _ _

theorem capDiscard (hp : P s) : P (s.capDiscard n) :=
  h.count _ hp

theorem capOverrunEnd (t : Taken) (hp : P s) : P (s.capOverrunEnd n t) := by
  simp only [State.capOverrunEnd]
  have habandoned := h.capAbandonOverrun (n := n) t t.segment.range hp
  split
  · exact h.drain habandoned
  · exact h.capTake habandoned

theorem capOverrunCount (t : Taken) (before : Nat) (hp : P s) : P (s.capOverrunCount n t before) := by
  simp only [State.capOverrunCount]
  split
  · exact h.capOverrunEnd t (h.mapStr _ hp)
  · exact h.mapStr _ hp

theorem capOverrunTake (g : Segment) (rest : List Segment) (hp : P s) : P (s.capOverrunTake n g rest) :=
  h.capOverrunCount _ 0 (h.mapStr _ hp)

theorem capEdge (cell : CellVal) (hp : P s) : P (s.capEdge n cell) := by
  have hdrain : P ((s.drain n).capDiscard n) := h.capDiscard (h.drain hp)
  unfold State.capEdge
  split
  case h_5 | h_6 => exact h.capDiscard hp
  case h_7 | h_8 =>
    split
    · next q hq =>
      split
      · exact h.capReceive _ _ (State.streamOf_receiving hq) hp
      · exact hp
    · split
      · exact hdrain
      · exact h.capOverrunTake _ _ (h.count _ hp)
  case h_9 =>
    split
    · exact h.capOverrunCount _ _ hp
    · split
      · exact hdrain
      · exact h.capOverrunTake _ _ hp
  all_goals exact hp

theorem capCommitted (x : LineReg) (g : Segment) (hr : streamOf r = some n) (hp : P s) :
    P (s.capCommitted n r x g) := by
  rw [State.capCommitted_eq]
  refine h.checkStopped (h.capTake (h.capFinish _ (h.setReg _ hr ?_)))
  unfold State.endSegment
  split
  · exact h.count _ (h.reportMark g true hp)
  · exact h.capAbandonCount _ (h.report _ (h.reportMark g true hp))

theorem capExpiry (g : Segment) (hr : streamOf r = some n) (hp : P s) : P (s.capExpiry n r g) := by
  simp only [State.capExpiry]
  have hended : P ((((s.report (.segmentAbandoned n g.row .stale (s.lr r).position)).capAbandonCount n
      (s.lr r).position).emptyReg r).capFinish n ⟨(s.lr r).takeSeq, g⟩) :=
    h.capFinish _ (h.emptyReg hr (h.capAbandonCount _ (h.report _ hp)))
  split
  · split
    · exact h.capStopEffect hended
    · split
      · exact h.drain hended
      · exact h.capTake hended
  · exact h.checkStopped (h.capTake hended)

/-! ## Playback -/

theorem playTakeOne (hr : streamOf r = some n) (hp : P s) : P (s.playTakeOne n r) := by
  obtain ⟨-, e⟩ | ⟨g, rest, -, -, e⟩ := s.playTakeOne_cases n r
  · rw [e]; exact hp
  · rw [e]
    exact h.raise g.row (.inl rfl) (by simp [hr]) (h.takeHead g rest .loading hr hp)

theorem playTakes (hp : P s) : P (s.playTakes n) := by
  unfold State.playTakes
  split
  · exact h.playTakeOne (streamOf_oddReg n) (h.playTakeOne (streamOf_evenReg n) hp)
  · exact hp

theorem playCopy (g : Segment) (hp : P s) : P (s.playCopy n g) := by
  unfold State.playCopy
  split
  · exact h.mapStr _ hp
  · exact hp

theorem playStopEffect (hp : P s) : P (s.playStopEffect n) :=
  h.stopNext (h.emptyReg (streamOf_oddReg n) (h.emptyReg (streamOf_evenReg n) (h.mapStr _ hp)))

/-- A begun segment's drop by a stop (R104). -/
theorem playStopDrop (q : LrId) (g : Segment) (hq : streamOf q = some n) (hp : P s) : P (s.playStopDrop n q g) := by
  simp only [State.playStopDrop]
  refine h.playStopEffect (h.playCopy g (h.emptyReg hq (h.count _ ?_)))
  split
  · exact h.report _ hp
  · exact h.report _ hp

theorem playStopNow (hp : P s) : P (s.playStopNow n) := by
  rw [State.playStopNow_eq]
  split
  · exact h.playStopEffect hp
  · next q hq =>
    split
    · exact h.playStopDrop q _ (State.streamOf_playCurrent hq) hp
    · exact h.playStopEffect hp

theorem playRefill (hp : P s) : P (s.playRefill n) := by
  simp only [State.playRefill]
  split
  · exact h.drain (h.playTakes hp)
  · exact h.playTakes hp

theorem playAfterEnd (hp : P s) : P (s.playAfterEnd n) := by
  unfold State.playAfterEnd
  split
  · exact h.playStopEffect hp
  · exact h.playRefill hp

theorem playAfterDrop (hp : P s) : P (s.playAfterDrop n) := by
  unfold State.playAfterDrop
  split
  · exact h.playStopEffect hp
  · split
    · split
      · exact h.playRefill (h.mapStr _ hp)
      · exact h.playRefill hp
    · exact h.playRefill hp

theorem playRead (g : Segment) (hr : streamOf r = some n) (hp : P s) : P (s.playRead n r g) := by
  rw [State.playRead_eq]
  have hread : P (s.playOutput n r g) := h.reportMark g _ (h.count _ (h.mapStr _ hp))
  split
  · exact h.setReg _ hr hread
  · exact h.playAfterEnd (h.playCopy g (h.count _ (h.emptyReg hr hread)))

theorem playDrop (g : Segment) (hr : streamOf r = some n) (hp : P s) : P (s.playDrop n r g) :=
  h.playAfterDrop (h.playCopy g (h.mapStr _ (h.report _ (h.emptyReg hr hp))))

theorem playStarved (g : Segment) (hr : streamOf r = some n) (hp : P s) : P (s.playStarved n r g) := by
  simp only [State.playStarved]
  split
  · exact h.mapLr _ hr (h.mapStr _ hp)
  · split
    · exact h.setReg _ hr (h.mapStr _ hp)
    · exact h.playDrop g hr (h.mapStr _ hp)

theorem playEdge (hp : P s) : P (s.playEdge n) := by
  unfold State.playEdge
  split
  case h_4 | h_5 | h_6 => exact h.count _ (h.mapStr _ hp)
  case h_7 | h_8 =>
    split
    · exact hp
    · next q hq =>
      have hr := State.streamOf_playCurrent hq
      split
      case h_1 | h_2 => exact h.playRead _ hr hp
      case h_3 | h_4 => exact h.playStarved _ hr (h.mapStr _ hp)
      case h_5 => exact hp
  case h_9 =>
    split
    · exact hp
    · next q hq =>
      split
      · exact h.playStarved _ (State.streamOf_playCurrent hq) hp
      · exact hp
  all_goals exact hp

theorem reportLoss (row : Nat) (hp : P s) : P (s.reportLoss n r row) := by
  unfold State.reportLoss
  split
  · exact h.report _ (h.mapStr _ hp)
  · exact hp

theorem playResume (row : Nat) (hp : P s) : P (s.playResume n row) :=
  h.report _ (h.mapStr _ hp)

theorem playLoaded (g : Segment) (wasReload : Bool) (hp : P s) : P (s.playLoaded n r g wasReload) := by
  simp only [State.playLoaded]
  generalize hs : (if wasReload then s.count n fun c => { c with reloads := satAdd c.reloads 1 } else s) = s₁
  have hp₂ : P (s₁.reportLoss n r g.row) := by
    refine h.reportLoss g.row ?_
    subst hs
    split
    · exact h.count _ hp
    · exact hp
  split
  · split
    · exact h.mapStr _ hp₂
    · split
      · exact h.playResume _ hp₂
      · split
        · exact h.playResume _ hp₂
        · exact hp₂
    · exact hp₂
  · exact hp₂

theorem playExpiry (g : Segment) (hr : streamOf r = some n) (hp : P s) : P (s.playExpiry n r g) := by
  simp only [State.playExpiry]
  have hraised := fun f => h.raise (kind := .load) (r := r) g.row (.inl rfl) (by simp [hr]) (h.mapLr (n := n) f hr hp)
  split
  · exact h.mapStr _ (hraised _)
  · exact hraised _

/-! ## Completions and requests -/

theorem streamTakes (hp : P s) : P (s.streamTakes n) := by
  unfold State.streamTakes
  split
  · exact h.playTakes hp
  · exact h.capTake hp
  · exact hp

theorem regDiscarded (hr : streamOf r = some n) (hp : P s) : P (s.regDiscarded n r) :=
  h.checkStopped (h.streamTakes (h.mapLr _ hr hp))

theorem appendSegments (gs : List Segment) (hp : P s) : P (s.appendSegments n gs) := by
  simp only [State.appendSegments]
  have hqueued := h.mapStr (n := n) (fun x => { x with queue := x.queue ++ gs }) hp
  split
  · refine h.playTakes ?_
    split
    · exact h.mapStr _ hqueued
    · exact hqueued
  · refine h.capTake ?_
    split
    · exact h.mapStr _ hqueued
    · exact hqueued
  · exact hqueued

theorem startStream (hp : P s) : P (s.startStream n) := by
  unfold State.startStream
  split
  · exact h.playTakes (h.mapStr _ hp)
  · exact h.capTake (h.mapStr _ hp)
  · exact hp

/-- A stop keeps what held with its request recorded. -/
theorem stopStream (k : StopKind)
    (hp : P ((s.mapStr n fun x => { x with stopRequest := some k }).setPhase (.stopping n))) :
    P (s.stopStream n k) := by
  simp only [State.stopStream]
  split
  · exact h.playStopNow hp
  · split
    · exact hp
    · exact h.playStopEffect hp
  · exact h.capStopEffect hp
  · split
    · exact hp
    · exact h.capStopEffect hp
  · exact h.stopNext hp

end StreamClosed

end Sys2Proof.Machine
end

section
/-! PROOF. What a step can do to the array, the row table, the refresh engine and the arbiter: the acts that a completion
shares whatever its kind, and the rule by which a property of these blocks is one of every step (RowLaw.step_keeps). -/

namespace Sys2Proof.Machine

/-! ## What a completion does before its claimant acts (R3 to R9, R12) -/

/-- A completed write of sections: its cells, and the row's entry. -/
def State.writtenSections (s : State) (row : Nat) (mask : SectionSet) (value : Nat → CellVal)
    (entry : RowEntry → RowEntry) : State :=
  (s.writeSections row mask value).updateRow row entry

/-- The scrub list without the row. -/
def State.unlistScrub (s : State) (row : Nat) : State :=
  { s with rfe := { s.rfe with scrubList := s.rfe.scrubList.erase row } }

/-- The cells, the LOST and scrub pending flags and the scrub list after the operation (R5 to R8, R12, R31). -/
def State.written (s : State) (op : Operation) : State :=
  match op.claim.kind with
  | .commit =>
    match op.claim.claimant with
    | .register r =>
      s.writtenSections op.claim.row op.sections (cellAt (s.lr r).content) fun e =>
        { e with lost := lostAfterWrite op.sections e.lost }
    | _ => s
  | .fill value mask =>
    s.writtenSections op.claim.row mask (fun _ => value) fun e => { e with lost := lostAfterWrite mask e.lost }
  | .copyCommit sections =>
    s.writtenSections op.claim.row sections (cellAt s.lrb.lr4.content) fun e =>
      { e with lost := lostAfterCopy sections op.sourceLost e.lost }
  | .scrub =>
    (s.writtenSections op.claim.row allSections (fun _ => op.value) fun e => { e with scrubPending := false }).unlistScrub
      op.claim.row
  | _ => s

section Written

variable (s : State) {op : Operation}

theorem State.written_load (hk : op.claim.kind = .load) : s.written op = s := by
  rw [State.written, hk]

theorem State.written_copyLoad (hk : op.claim.kind = .copyLoad) : s.written op = s := by
  rw [State.written, hk]

theorem State.written_refresh (hk : op.claim.kind = .refresh) : s.written op = s := by
  rw [State.written, hk]

theorem State.written_openRow (hk : op.claim.kind = .openRow) : s.written op = s := by
  rw [State.written, hk]

theorem State.written_commit {r : LrId} (hk : op.claim.kind = .commit) (hcl : op.claim.claimant = .register r) :
    s.written op = s.writtenSections op.claim.row op.sections (cellAt (s.lr r).content) fun e =>
      { e with lost := lostAfterWrite op.sections e.lost } := by
  rw [State.written, hk, hcl]

theorem State.written_fill {value : CellVal} {mask : SectionSet} (hk : op.claim.kind = .fill value mask) :
    s.written op = s.writtenSections op.claim.row mask (fun _ => value) fun e =>
      { e with lost := lostAfterWrite mask e.lost } := by
  rw [State.written, hk]

theorem State.written_copyCommit {sections : SectionSet} (hk : op.claim.kind = .copyCommit sections) :
    s.written op = s.writtenSections op.claim.row sections (cellAt s.lrb.lr4.content) fun e =>
      { e with lost := lostAfterCopy sections op.sourceLost e.lost } := by
  rw [State.written, hk]

theorem State.written_scrub (hk : op.claim.kind = .scrub) :
    s.written op = (s.writtenSections op.claim.row allSections (fun _ => op.value) fun e =>
      { e with scrubPending := false }).unlistScrub op.claim.row := by
  rw [State.written, hk]

/-- The writes touch the cells, the table's entries and the scrub list only. -/
theorem State.written_eq (op : Operation) :
    ∃ (m : Memory) (table : List RowEntry) (scrubs : List Nat), table.length = s.rat.table.length ∧
      s.written op = { s with
        rat := { s.rat with memory := m, table := table }, rfe := { s.rfe with scrubList := scrubs } } := by
  cases hk : op.claim.kind
  case commit =>
    cases hcl : op.claim.claimant
    case register => rw [s.written_commit hk hcl]; exact ⟨_, _, _, List.length_set, rfl⟩
    all_goals rw [State.written, hk, hcl]; exact ⟨_, _, _, rfl, rfl⟩
  case fill => rw [s.written_fill hk]; exact ⟨_, _, _, List.length_set, rfl⟩
  case copyCommit => rw [s.written_copyCommit hk]; exact ⟨_, _, _, List.length_set, rfl⟩
  case scrub => rw [s.written_scrub hk]; exact ⟨_, _, _, List.length_set, rfl⟩
  all_goals rw [State.written, hk]; exact ⟨_, _, _, rfl, rfl⟩

end Written

/-- The operation's writes, then what every completion does (R3, R25, R47). -/
def State.completed (s : State) (op : Operation) : State :=
  (s.written op).rowCompleted op.claim.row

@[simp] theorem State.written_frame (s : State) (op : Operation) :
    (s.written op).pending = s.pending ∧ (s.written op).clock = s.clock ∧ (s.written op).powered = s.powered
      ∧ (s.written op).hrst = s.hrst ∧ (s.written op).rat.state = s.rat.state
      ∧ (s.written op).rat.lossFill = s.rat.lossFill ∧ (s.written op).rfe.mode = s.rfe.mode
      ∧ (s.written op).rfe.order = s.rfe.order ∧ (s.written op).arb = s.arb ∧ (s.written op).lrb = s.lrb
      ∧ (s.written op).ste = s.ste ∧ (s.written op).sst = s.sst ∧ (s.written op).rqe = s.rqe
      ∧ (s.written op).hlc = s.hlc ∧ (s.written op).ntu = s.ntu
      ∧ (s.written op).rat.table.length = s.rat.table.length := by
  obtain ⟨m, table, scrubs, hlength, e⟩ := s.written_eq op
  simp [e, hlength]

@[simp] theorem State.completed_circuit (s : State) (op : Operation) : (s.completed op).arb.circuit = .free :=
  State.rowCompleted_circuit _ _

theorem State.completing_spec {s : State} {op : Operation} (h : s.completing = some op) :
    s.live = true ∧ s.arb.circuit = .operating op ∧ op.grantedAt + Config.tRow ≤ s.clock := by
  unfold State.completing at h
  split at h
  · next o ho =>
    split at h
    · next hc =>
      cases h
      simp only [Bool.and_eq_true, State.elapsed, decide_eq_true_eq] at hc
      exact ⟨hc.1, (State.inFlight_eq_some _).1 ho, hc.2⟩
    · cases h
  · cases h

/-- A row that loses its data: LOST, its scrub pending, listed and claimed (R11, R29). -/
def State.loseRow (s : State) (row : Nat) : State :=
  let s₁ := s.updateRow row fun e => { e with lost := true, scrubPending := true }
  State.raiseClaim { s₁ with rfe := { s₁.rfe with scrubList := s₁.rfe.scrubList ++ [row] } }
    ⟨.scrub, row, .refreshEngine, .scrub⟩

/-- A LOAD or COMMIT in its place is a stream register's. -/
theorem Claim.register_of_wellPlaced (c : Claim) (hw : c.wellPlaced = true) (hk : c.kind = .load ∨ c.kind = .commit) :
    ∃ r n, c.claimant = .register r ∧ streamOf r = some n := by
  unfold Claim.wellPlaced at hw
  obtain hk | hk := hk <;> rw [hk] at hw <;> cases hcl : c.claimant <;> rw [hcl] at hw
  case inl.register r => exact ⟨r, _, rfl, (Option.isSome_iff_exists.1 hw).choose_spec⟩
  case inr.register r => exact ⟨r, _, rfl, (Option.isSome_iff_exists.1 hw).choose_spec⟩
  all_goals cases hw

/-! ## What the engines and the arbiter do besides -/

/-- The circuit does nothing that ends by itself but a burst: it is FREE, HELD or BURSTING (R38). -/
def Circuit.noOperation : Circuit → Bool
  | .free | .held _ _ | .bursting _ _ _ _ => true
  | _ => false

/-- A property of the cells, the row table, the refresh engine and the arbiter that the acts of the stream engines, the
request engine and the sessions keep, and so do a grant and a change of the circuit without an operation. -/
structure ArbClosed (P : State → Prop) : Prop where
  congr : ∀ {s t : State}, P s → t.rat.memory = s.rat.memory → t.rat.table = s.rat.table → t.rfe = s.rfe →
    t.arb = s.arb → t.clock = s.clock → P t
  raise : ∀ {s : State} (c : Claim), c.cls = .stream ∨ c.cls = .host → P s → P (s.raiseClaim c)
  withdraw : ∀ {s : State} (r : LrId), P s → P (s.withdraw fun c => c.isOf r)
  circuit : ∀ {s : State} (c : Circuit), s.arb.circuit.noOperation = true → c.noOperation = true → P s →
    P (s.setCircuit c)
  grant : ∀ {s : State} (c : Claim), s.arb.circuit = .free → c ∈ s.arb.claims → s.grantable c = true → P s →
    P (s.grant c)

namespace ArbClosed

variable {P : State → Prop} (h : ArbClosed P) {s : State}
include h

theorem setLr (r : LrId) (x : LineReg) (hp : P s) : P (s.setLr r x) :=
  h.congr hp rfl rfl rfl rfl rfl

theorem mapLr (r : LrId) (f : LineReg → LineReg) (hp : P s) : P (s.mapLr r f) :=
  h.setLr r _ hp

theorem setSlot (k : SlotId) (x : Session) (hp : P s) : P (s.setSlot k x) :=
  h.congr hp rfl rfl rfl rfl rfl

theorem mapStr (n : StreamId) (f : StreamRec → StreamRec) (hp : P s) : P (s.mapStr n f) :=
  h.congr hp rfl rfl rfl rfl rfl

theorem setPhase (p : Phase) (hp : P s) : P (s.setPhase p) :=
  h.congr hp rfl rfl rfl rfl rfl

theorem report (x : Notice) (hp : P s) : P (s.report x) :=
  h.congr hp (by simp) (by simp) (by simp) (by simp) (by simp)

theorem finish (st : Status) (fl : Byte) (d : List Byte) (hp : P s) : P (s.finish st fl d) :=
  h.congr hp (by simp) (by simp) (by simp) (by simp) (by simp)

theorem refuse (st : Status) (hp : P s) : P (s.refuse st) :=
  h.finish st 0 [] hp

theorem emptyReg (r : LrId) (hp : P s) : P (s.emptyReg r) :=
  h.setLr r _ (h.withdraw r hp)

theorem freeSession (k : SlotId) (hp : P s) : P (s.freeSession k) :=
  h.setSlot k _ hp

/-- The acts of a stream engine are among them. -/
theorem streams : StreamClosed P where
  setStr _ _ hp := h.congr hp rfl rfl rfl rfl rfl
  setLr x _ hp := h.setLr _ x hp
  report x hp := h.report x hp
  finish _ hp := h.finish _ _ _ hp
  raise _ _ _ hp := h.raise _ (.inl rfl) hp
  withdraw _ hp := h.withdraw _ hp

/-! ### The arbiter's acts at the end of an event -/

theorem grantDecision (hf : s.arb.circuit = .free) (hp : P s) : P s.grantDecision := by
  unfold State.grantDecision
  split
  · next c hc =>
    obtain ⟨hmem, hgr⟩ := s.chooseGrant_mem hc
    exact h.grant c hf hmem hgr hp
  · exact hp

theorem closeHeld (hp : P s) : P s.closeHeld := by
  unfold State.closeHeld
  split
  · next k row hc => exact h.circuit .free (by simp [hc, Circuit.noOperation]) rfl (h.setSlot k _ hp)
  · exact hp

theorem settle (hp : P s) : P s.settle := by
  unfold State.settle
  split
  · next hf => exact h.grantDecision hf hp
  · next k row hc =>
    split
    · exact h.grantDecision (by rw [State.closeHeld_circuit, hc]) (h.closeHeld hp)
    · exact hp
  · exact hp

theorem conclude (tie : TieOrder) (hp : P s) : P (s.conclude tie) := by
  obtain ⟨e, -⟩ | ⟨e, -⟩ | ⟨e, -⟩ := s.conclude_cases tie
  · exact e.symm ▸ hp
  · exact e.symm ▸ h.settle hp
  · exact e.symm ▸ h.settle (h.closeHeld hp)

theorem begun (tie : TieOrder) (hp : P s) : P (s.begun tie) :=
  h.conclude tie (h.closeHeld hp)

/-! ### Completions, once the row's completion is made -/

section Completions

variable {op : Operation} (tie : TieOrder) (hc : s.completing = some op)
include hc

theorem loadCompletion {r : LrId} {n : StreamId} (hk : op.claim.kind = .load) (hcl : op.claim.claimant = .register r)
    (hr : streamOf r = some n) (hp : P (s.completed op)) : P (loadCompletion tie s) := by
  rw [State.completed, s.written_load hk] at hp
  simp only [Machine.loadCompletion, hc, hk, hcl, hr]
  split
  · exact h.conclude tie (h.streams.regDiscarded hr hp)
  · split
    · exact h.conclude tie (h.streams.playLoaded _ _ (h.mapLr r _ hp))
    · exact h.settle hp

theorem commitCompletion {r : LrId} {n : StreamId} (hk : op.claim.kind = .commit)
    (hcl : op.claim.claimant = .register r) (hr : streamOf r = some n) (hp : P (s.completed op)) :
    P (commitCompletion tie s) := by
  rw [State.completed, s.written_commit hk hcl] at hp
  simp only [Machine.commitCompletion, hc, hk, hcl, hr]
  split
  · exact h.conclude tie (h.streams.regDiscarded hr hp)
  · split
    · exact h.conclude tie (h.streams.capCommitted _ _ hr hp)
    · exact h.settle hp

omit hc in
theorem startCopy (job : CopyJob) (hp : P s) : P (s.startCopy job) :=
  h.setPhase _ (h.raise _ (.inr rfl) (h.setLr .lr4 _ hp))

omit hc in
theorem lr4Discarded (hp : P s) : P s.lr4Discarded := by
  simp only [State.lr4Discarded]
  split
  · exact h.startCopy _ (h.setLr .lr4 _ hp)
  · exact h.setLr .lr4 _ hp

theorem copyLoadCompletion (hk : op.claim.kind = .copyLoad) (hp : P (s.completed op)) : P (copyLoadCompletion s) := by
  rw [State.completed, s.written_copyLoad hk] at hp
  simp only [Machine.copyLoadCompletion, hc, hk]
  split
  · exact h.settle (h.lr4Discarded hp)
  · split
    · exact h.settle (h.raise _ (.inr rfl) (h.setLr .lr4 _ hp))
    · exact h.settle hp

theorem copyCommitCompletion {sections : SectionSet} (hk : op.claim.kind = .copyCommit sections)
    (hp : P (s.completed op)) : P (copyCommitCompletion tie s) := by
  rw [State.completed, s.written_copyCommit hk] at hp
  simp only [Machine.copyCommitCompletion, hc, hk]
  split
  · exact h.settle (h.lr4Discarded hp)
  · exact h.conclude tie (h.finish _ _ _ (h.setLr .lr4 _ hp))

theorem fillCompletion {value : CellVal} {mask : SectionSet} (hk : op.claim.kind = .fill value mask)
    (hp : P (s.completed op)) : P (fillCompletion tie s) := by
  rw [State.completed, s.written_fill hk] at hp
  simp only [Machine.fillCompletion, hc, hk]
  split
  · exact h.settle hp
  · split
    · split
      · exact h.settle (h.setPhase _ (h.raise _ (.inr rfl) hp))
      · exact h.conclude tie (h.finish _ _ _ hp)
    · exact h.settle hp

theorem refreshCompletion (hk : op.claim.kind = .refresh) (hp : P (s.completed op)) : P (refreshCompletion tie s) := by
  rw [State.completed, s.written_refresh hk] at hp
  simp only [Machine.refreshCompletion, hc, hk]
  split
  · split
    · split
      · exact h.settle (h.setPhase _ (h.raise _ (.inr rfl) hp))
      · exact h.conclude tie (h.finish _ _ _ hp)
    · exact h.settle hp
  · exact h.settle hp

theorem scrubCompletion (hk : op.claim.kind = .scrub) (hp : P (s.completed op)) : P (scrubCompletion s) := by
  rw [State.completed, s.written_scrub hk] at hp
  simp only [Machine.scrubCompletion, hc, hk, State.initDone]
  split
  · exact h.settle (h.report _ (h.congr hp rfl rfl rfl rfl rfl))
  · exact h.settle hp

theorem openCompletion (hk : op.claim.kind = .openRow) (hp : P (s.completed op)) : P (openCompletion tie s) := by
  have hfree : (s.rowCompleted op.claim.row).arb.circuit.noOperation = true := by
    rw [State.rowCompleted_circuit]; rfl
  rw [State.completed, s.written_openRow hk] at hp
  simp only [Machine.openCompletion, hc, hk]
  split
  · exact h.settle hp
  · split
    · exact h.conclude tie (h.setSlot _ _ (h.finish _ _ _ (h.setSlot _ _ (h.circuit _ hfree rfl hp))))
    · exact h.setPhase _ (h.circuit _ hfree rfl (h.setSlot _ _ hp))
    · exact h.settle hp

/-- Whatever the kind, the claimant and the arbiter act on the completed row. -/
theorem completion (dt : Nat) (hw : op.claim.wellPlaced = true) (hp : P (s.completed op)) :
    P ((op.claim.kind.completion dt tie).run s) := by
  cases hk : op.claim.kind
  case load =>
    obtain ⟨r, n, hcl, hr⟩ := op.claim.register_of_wellPlaced hw (.inl hk)
    exact h.loadCompletion tie hc hk hcl hr hp
  case commit =>
    obtain ⟨r, n, hcl, hr⟩ := op.claim.register_of_wellPlaced hw (.inr hk)
    exact h.commitCompletion tie hc hk hcl hr hp
  case refresh => exact h.refreshCompletion tie hc hk hp
  case scrub => exact h.scrubCompletion hc hk hp
  case openRow => exact h.openCompletion tie hc hk hp
  case fill => exact h.fillCompletion tie hc hk hp
  case copyLoad => exact h.copyLoadCompletion hc hk hp
  case copyCommit => exact h.copyCommitCompletion tie hc hk hp

end Completions

/-- The end of a burst, once its cells are written (R48). -/
theorem columnBurstEnd (tie : TieOrder) (hp : P s) (hburst : ∀ row j, P (s.applyBurst row j)) :
    P (columnBurstEnd tie s) := by
  unfold Machine.columnBurstEnd
  split
  · next slot row job start hcirc =>
    have hbusy : (s.applyBurst row job).arb.circuit.noOperation = true := by simp [hcirc, Circuit.noOperation]
    split
    · split
      · exact h.settle (h.circuit _ hbusy rfl (hburst row job))
      · exact h.conclude tie (h.setSlot _ _ (h.finish _ _ _ (h.circuit _ hbusy rfl (hburst row job))))
    · exact hp
  · exact hp

/-! ### Requests -/

section Requests

variable (tie : TieOrder)

theorem identify (hp : P s) : P (identify tie s) := by
  unfold Machine.identify
  split
  · exact hp
  · split
    · exact h.begun tie (h.finish _ _ _ hp)
    · exact h.begun tie (h.refuse _ hp)

theorem status (hp : P s) : P (status tie s) := by
  unfold Machine.status
  split
  · exact hp
  · split
    · exact h.begun tie (h.finish _ _ _ hp)
    · exact h.begun tie (h.refuse _ hp)

theorem rowQuery (hp : P s) : P (rowQuery tie s) := by
  unfold Machine.rowQuery
  split
  · exact hp
  · split
    · exact h.begun tie (h.refuse _ hp)
    · split
      · exact h.begun tie (h.refuse _ hp)
      · exact h.begun tie (h.finish _ _ _ hp)

theorem fillRows (hp : P s) : P (fillRows tie s) := by
  simp only [Machine.fillRows]
  split
  · exact hp
  · split
    · exact h.begun tie (h.refuse _ hp)
    · split_ifs
      · exact h.begun tie (h.refuse _ hp)
      · exact h.begun tie (h.refuse _ hp)
      · exact h.begun tie (h.setPhase _ (h.raise _ (.inr rfl) hp))

theorem copyRow (hp : P s) : P (copyRow tie s) := by
  unfold Machine.copyRow
  split
  · exact hp
  · split
    · exact h.begun tie (h.refuse _ hp)
    · split_ifs
      · exact h.begun tie (h.refuse _ hp)
      · exact h.begun tie (h.refuse _ hp)
      · exact h.begun tie (h.setPhase _ hp)
      · exact h.begun tie (h.startCopy _ hp)

theorem refresh (hp : P s) : P (refresh tie s) := by
  simp only [Machine.refresh]
  split
  · exact hp
  · split
    · exact h.begun tie (h.refuse _ hp)
    · split_ifs
      · exact h.begun tie (h.refuse _ hp)
      · exact h.begun tie (h.refuse _ hp)
      · exact h.begun tie (h.setPhase _ (h.raise _ (.inr rfl) hp))

theorem openRow (hp : P s) : P (openRow tie s) := by
  simp only [Machine.openRow]
  split
  · exact hp
  · split
    · exact h.begun tie (h.refuse _ hp)
    · split_ifs
      · exact h.begun tie (h.refuse _ hp)
      · exact h.begun tie (h.refuse _ hp)
      · split
        · exact h.begun tie (h.refuse _ hp)
        · exact h.begun tie (h.setPhase _ (h.raise _ (.inr rfl) (h.setSlot _ _ hp)))

theorem close (hp : P s) : P (close tie s) := by
  unfold Machine.close
  split
  · exact hp
  · split
    · exact h.begun tie (h.refuse _ hp)
    · split
      · exact h.begun tie (h.refuse _ hp)
      · exact h.begun tie (h.finish _ _ _ (h.setSlot _ _ (h.closeHeld hp)))

theorem raiseReopen (k : SlotId) (job : ColumnJob) (hp : P s) : P (s.raiseReopen k job) :=
  h.setPhase _ (h.raise _ (.inr rfl) hp)

theorem reopen (k : SlotId) (job : ColumnJob) (hp : P s) : P (s.reopen k job tie) := by
  cases tie
  · exact h.settle (h.raiseReopen k job (h.settle (h.closeHeld hp)))
  · exact h.settle (h.closeHeld (h.raiseReopen k job hp))

theorem startBurst (k : SlotId) (row : Nat) (job : ColumnJob) (hf : s.arb.circuit.noOperation = true) (hp : P s) :
    P (s.startBurst k row job) :=
  h.setPhase _ (h.circuit _ hf rfl hp)

theorem columnRequest (f : ColumnFields) (hp : P s) : P (s.columnRequest f tie) := by
  simp only [State.columnRequest]
  split
  · exact h.begun tie (h.refuse _ hp)
  · next k _ =>
    have hanswered : P (((s.stopIdle k).refuse .range).restartIdle k) :=
      h.setSlot k _ (h.refuse _ (h.setSlot k _ hp))
    have hstopped : P (s.stopIdle k) := h.setSlot k _ hp
    split
    · split
      · split
        · exact h.conclude tie hanswered
        · exact h.begun tie hanswered
      · exact h.begun tie hanswered
    · split
      · next k' row hcirc =>
        split_ifs
        · exact h.startBurst k row _ (by simp [hcirc, Circuit.noOperation]) hstopped
        · exact h.reopen tie k _ hstopped
        · exact h.reopen _ k _ hstopped
      · exact h.reopen _ k _ hstopped

theorem read (hp : P s) : P (read tie s) := by
  unfold Machine.read
  split
  · exact hp
  · split
    · exact h.begun tie (h.refuse _ hp)
    · exact h.columnRequest tie _ hp

theorem write (hp : P s) : P (write tie s) := by
  unfold Machine.write
  split
  · exact hp
  · split
    · exact h.begun tie (h.refuse _ hp)
    · exact h.columnRequest tie _ hp

theorem exchange (hp : P s) : P (exchange tie s) := by
  unfold Machine.exchange
  split
  · exact hp
  · split
    · exact h.begun tie (h.refuse _ hp)
    · exact h.columnRequest tie _ hp

theorem streamSetup (hp : P s) : P (streamSetup tie s) := by
  unfold Machine.streamSetup
  split
  · exact hp
  · split
    · exact h.begun tie (h.refuse _ hp)
    · split
      · exact h.begun tie (h.refuse _ hp)
      · split
        · exact h.begun tie (h.refuse _ hp)
        · split
          · exact h.begun tie (h.refuse _ hp)
          · exact h.begun tie (h.finish _ _ _ (h.mapStr _ _ hp))

theorem streamAppend (hp : P s) : P (streamAppend tie s) := by
  simp only [Machine.streamAppend]
  split
  · exact hp
  · split
    · exact h.begun tie (h.refuse _ hp)
    · split
      · exact h.begun tie (h.refuse _ hp)
      · split_ifs
        · exact h.begun tie (h.refuse _ hp)
        · exact h.begun tie (h.refuse _ hp)
        · exact h.begun tie (h.refuse _ hp)
        · exact h.begun tie (h.finish _ _ _ (h.streams.appendSegments _ hp))

theorem streamStart (hp : P s) : P (streamStart tie s) := by
  unfold Machine.streamStart
  split
  · exact hp
  · split
    · exact h.begun tie (h.refuse _ hp)
    · split
      · exact h.begun tie (h.refuse _ hp)
      · split_ifs
        · exact h.begun tie (h.refuse _ hp)
        · exact h.begun tie (h.refuse _ hp)
        · exact h.begun tie (h.finish _ _ _ (h.streams.startStream hp))

theorem streamStop (hp : P s) : P (streamStop tie s) := by
  unfold Machine.streamStop
  split
  · exact hp
  · split
    · exact h.begun tie (h.refuse _ hp)
    · split
      · exact h.begun tie (h.refuse _ hp)
      · split
        · exact h.begun tie (h.refuse _ hp)
        · split
          · exact h.begun tie (h.refuse _ hp)
          · exact h.begun tie (h.streams.stopStream _ (h.setPhase _ (h.mapStr _ _ hp)))

theorem streamFlush (hp : P s) : P (streamFlush tie s) := by
  simp only [Machine.streamFlush]
  split
  · exact hp
  · split
    · exact h.begun tie (h.refuse _ hp)
    · split
      · exact h.begun tie (h.refuse _ hp)
      · split
        · exact h.begun tie (h.refuse _ hp)
        · exact h.begun tie (h.finish _ _ _ (h.mapStr _ _ hp))

theorem streamQuery (hp : P s) : P (streamQuery tie s) := by
  unfold Machine.streamQuery
  split
  · exact hp
  · split
    · exact h.begun tie (h.refuse _ hp)
    · split
      · exact h.begun tie (h.refuse _ hp)
      · exact h.begun tie (h.finish _ _ _ hp)

end Requests

/-! ### Edges and expiries -/

theorem playbackEdge (n : StreamId) (hp : P s) : P (playbackEdge n s) := by
  unfold Machine.playbackEdge
  split
  · exact h.settle (h.streams.playEdge hp)
  · exact hp

theorem captureEdge (n : StreamId) (cell : CellVal) (hp : P s) : P (captureEdge n cell s) := by
  unfold Machine.captureEdge
  split
  · exact h.settle (h.streams.capEdge cell hp)
  · exact hp

theorem playbackHoldExpiry (r : LrId) (hp : P s) : P (playbackHoldExpiry r s) := by
  unfold Machine.playbackHoldExpiry
  split
  · next n g hr _ =>
    split
    · exact h.settle (h.streams.playExpiry g hr hp)
    · exact hp
  · exact hp

theorem captureHoldExpiry (r : LrId) (hp : P s) : P (captureHoldExpiry r s) := by
  unfold Machine.captureHoldExpiry
  split
  · next n g hr _ =>
    split
    · exact h.settle (h.streams.capExpiry g hr hp)
    · exact hp
  · exact hp

theorem lr4HoldExpiry (hp : P s) : P (lr4HoldExpiry s) := by
  unfold Machine.lr4HoldExpiry
  split
  · exact h.settle (h.finish _ _ _ (h.emptyReg .lr4 hp))
  · exact hp

theorem idleExpiry (k : SlotId) (hp : P s) : P (idleExpiry k s) := by
  unfold Machine.idleExpiry
  split
  · split
    · exact h.report _ (h.setSlot k _ hp)
    · exact hp
  · exact hp

end ArbClosed

/-! ## Every act of a step -/

/-- A property of the array, the row table, the refresh engine and the arbiter that every single act of a step keeps. -/
structure RowLaw (P : State → Prop) : Prop extends ArbClosed P where
  advance : ∀ {s : State} (dt : Nat), P s → P (s.advance dt)
  completed : ∀ {s : State} {op : Operation}, s.arb.circuit = .operating op → P s → P (s.completed op)
  burst : ∀ {s : State} (row : Nat) (j : ColumnJob), P s → P (s.applyBurst row j)
  warmedUp : ∀ {s : State} {start : Nat}, s.arb.circuit = .warmup (some start) → P s →
    P { s with arb := { s.arb with
      circuit := .free
      claims := s.arb.claims ++ s.rfe.scrubList.map fun r => ⟨.scrub, r, .rowTable, .scrub⟩ } }
  routine : ∀ {s : State}, P s → P s.checkRoutine
  crossed : ∀ {s : State} (row : Nat), P s → P (s.markCrossed row)
  noRoutine : ∀ {s : State} (row : Nat), P s → P (s.withdraw fun c => c.cls == .routine && c.row == row)
  urgent : ∀ {s : State} (row : Nat), s.rfe.mode = .auto → P s → P (s.raiseUrgent row)
  lost : ∀ {s : State} {row : Nat}, row < 512 → s.undisturbed row = true → P s → P (s.loseRow row)
  auto : ∀ {s : State}, P s → P { s with rfe := { s.rfe with mode := .auto } }
  hosted : ∀ {s : State}, P s → P (State.withdraw { s with rfe := { s.rfe with mode := .hosted } }
    fun c => c.cls == .routine || c.cls == .urgent)
  noHost : ∀ {s : State}, P s → P (s.withdraw fun c => c.cls == .stream || c.cls == .host)
  abandoned : ∀ {s : State}, P s →
    P { s with arb := { s.arb with circuit := s.arb.circuit.abandoned, preferred := .s0 } }
  powerOn : ∀ (s : State) (start : Option Nat), P (s.powerOnValues start)

namespace RowLaw

variable {P : State → Prop} (h : RowLaw P) {s : State}
include h

theorem toAuto (hp : P s) : P s.toAuto := by
  simp only [State.toAuto]
  apply h.routine
  generalize State.agedRows _ = rows
  suffices hfold : ∀ (t : State), t.rfe.mode = .auto → P t → P (rows.foldl State.raiseUrgent t) from
    hfold _ rfl (h.auto hp)
  induction rows with
  | nil => exact fun t _ ht => ht
  | cons row rows ih => exact fun t hmode ht => ih _ (by simpa using hmode) (h.urgent row hmode ht)

theorem toHosted (hp : P s) : P s.toHosted := by
  simp only [State.toHosted]
  generalize List.filter _ (State.agedRows _) = rows
  have hwithdrawn := h.hosted hp
  revert hwithdrawn
  generalize State.withdraw _ _ = t
  induction rows generalizing t with
  | nil => exact fun ht => ht
  | cons row rows ih => exact fun ht => ih _ (h.report _ (h.crossed row ht))

theorem setMode (m : RefreshMode) (hp : P s) : P (s.setMode m) := by
  unfold State.setMode
  split
  · exact hp
  · cases m
    · exact h.toAuto hp
    · exact h.toHosted hp

theorem applySettings (m : Option RefreshMode) (v k : Option CellVal) (hp : P s) : P (s.applySettings m v k) := by
  unfold State.applySettings
  have hset : ∀ (t : State), P t → P (match m with
      | some m => t.setMode m
      | none => t) := by
    intro t ht
    cases m
    · exact ht
    · exact h.setMode _ ht
  cases v <;> cases k <;> exact hset _ (h.congr hp rfl rfl rfl rfl rfl)

theorem configure (tie : TieOrder) (hp : P s) : P (configure tie s) := by
  simp only [Machine.configure]
  split
  · exact hp
  · split
    · exact h.begun tie (h.refuse _ hp)
    · split
      · exact h.begun tie (h.finish _ _ _ (h.applySettings _ _ _ hp))
      · exact h.begun tie (h.refuse _ hp)

theorem resetRequest (req : Request) (hp : P s) : P (s.resetRequest req) := by
  have hemptied := h.emptyReg .lr4 (h.emptyReg .lr3 (h.emptyReg .lr2 (h.emptyReg .lr1 (h.emptyReg .lr0 (h.noHost hp)))))
  have hfreed := h.freeSession .k3 (h.freeSession .k2 (h.freeSession .k1 (h.freeSession .k0 hemptied)))
  exact h.setMode .auto (h.congr (h.abandoned hfreed) rfl rfl rfl rfl rfl)

theorem removeSent (x : Transaction) (n : Nat) (hp : P s) : P (s.removeSent x n) := by
  unfold State.removeSent
  split
  · split
    · exact hp
    · exact h.congr hp rfl rfl rfl rfl rfl
    · exact h.congr hp rfl rfl rfl rfl rfl
    · split
      · exact h.congr hp rfl rfl rfl rfl rfl
      · exact h.congr hp rfl rfl rfl rfl rfl
  · exact hp

theorem admitFrame (bytes : List Byte) (hp : P s) : P (s.admitFrame bytes) := by
  unfold State.admitFrame
  split
  · exact hp
  · split_ifs
    · exact h.resetRequest _ hp
    · exact h.congr hp rfl rfl rfl rfl rfl
    · exact hp

theorem transactionEnd (bits : List Bool) (hp : P s) : P (transactionEnd bits s) := by
  unfold Machine.transactionEnd
  split
  · split
    · exact h.settle (h.congr (h.admitFrame _ (h.removeSent _ _ hp)) rfl rfl rfl rfl rfl)
    · exact h.congr hp rfl rfl rfl rfl rfl
  · exact h.congr hp rfl rfl rfl rfl rfl

theorem hcsFall (hp : P s) : P (hcsFall s) := by
  unfold Machine.hcsFall
  split
  · exact h.congr hp rfl rfl rfl rfl rfl
  · exact h.congr hp rfl rfl rfl rfl rfl

theorem warmupEnd (hp : P s) : P (warmupEnd s) := by
  unfold Machine.warmupEnd
  split
  · next start hcirc =>
    split
    · exact h.settle (h.warmedUp hcirc hp)
    · exact hp
  · exact hp

theorem routineThreshold (hp : P s) : P (routineThreshold s) := by
  unfold Machine.routineThreshold
  split
  · exact h.settle (h.routine hp)
  · exact hp

theorem urgentCrossing (row : Nat) (hp : P s) : P (urgentCrossing row s) := by
  simp only [Machine.urgentCrossing]
  split
  · split
    · next hmode => exact h.settle (h.urgent row (by simpa using hmode) (h.noRoutine row (h.crossed row hp)))
    · exact h.report _ (h.crossed row hp)
  · exact hp

theorem deadline {row : Nat} (hrow : row < 512) (hp : P s) : P (deadline row s) := by
  simp only [Machine.deadline]
  split
  · next hdue => exact h.settle (h.report _ (h.lost hrow hdue.2.2 hp))
  · exact hp

end RowLaw

/-! ## Completions that are not due, or of another kind, do nothing (log entry 3) -/

section Undue

variable (s : State) (tie : TieOrder)

/-- A completion's command does nothing, or completes an operation in flight of its kind. -/
def completes (s t : State) (kind : ClaimKind → Prop) : Prop :=
  t = s ∨ ∃ op, s.completing = some op ∧ kind op.claim.kind ∧ op.claim.wellPlaced = true

theorem loadCompletion_completes : completes s (loadCompletion tie s) (· = .load) := by
  unfold loadCompletion
  split
  · next op hc =>
    split
    · next r hk hcl =>
      split
      · next n hr => exact .inr ⟨op, hc, hk, by simp [Claim.wellPlaced, hk, hcl, hr]⟩
      · exact .inl rfl
    · exact .inl rfl
  · exact .inl rfl

theorem commitCompletion_completes : completes s (commitCompletion tie s) (· = .commit) := by
  unfold commitCompletion
  split
  · next op hc =>
    split
    · next r hk hcl =>
      split
      · next n hr => exact .inr ⟨op, hc, hk, by simp [Claim.wellPlaced, hk, hcl, hr]⟩
      · exact .inl rfl
    · exact .inl rfl
  · exact .inl rfl

theorem copyLoadCompletion_completes : completes s (copyLoadCompletion s) (· = .copyLoad) := by
  unfold copyLoadCompletion
  split
  · next op hc =>
    split
    · next hk => exact .inr ⟨op, hc, hk, by simp [Claim.wellPlaced, hk]⟩
    · exact .inl rfl
  · exact .inl rfl

theorem copyCommitCompletion_completes :
    completes s (copyCommitCompletion tie s) (fun k => ∃ sections, k = .copyCommit sections) := by
  unfold copyCommitCompletion
  split
  · next op hc =>
    split
    · next sections hk => exact .inr ⟨op, hc, ⟨sections, hk⟩, by simp [Claim.wellPlaced, hk]⟩
    · exact .inl rfl
  · exact .inl rfl

theorem fillCompletion_completes :
    completes s (fillCompletion tie s) (fun k => ∃ value mask, k = .fill value mask) := by
  unfold fillCompletion
  split
  · next op hc =>
    split
    · next value mask hk => exact .inr ⟨op, hc, ⟨value, mask, hk⟩, by simp [Claim.wellPlaced, hk]⟩
    · exact .inl rfl
  · exact .inl rfl

theorem refreshCompletion_completes : completes s (refreshCompletion tie s) (· = .refresh) := by
  unfold refreshCompletion
  split
  · next op hc =>
    split
    · next hk => exact .inr ⟨op, hc, hk, by simp [Claim.wellPlaced, hk]⟩
    · exact .inl rfl
  · exact .inl rfl

theorem scrubCompletion_completes : completes s (scrubCompletion s) (· = .scrub) := by
  unfold scrubCompletion
  split
  · next op hc =>
    split
    · next hk => exact .inr ⟨op, hc, hk, by simp [Claim.wellPlaced, hk]⟩
    · exact .inl rfl
  · exact .inl rfl

theorem openCompletion_completes : completes s (openCompletion tie s) (· = .openRow) := by
  unfold openCompletion
  split
  · next op hc =>
    split
    · next hk => exact .inr ⟨op, hc, hk, by simp [Claim.wellPlaced, hk]⟩
    · exact .inl rfl
  · exact .inl rfl

end Undue

namespace RowLaw

variable {P : State → Prop} (h : RowLaw P) {s : State}
include h

/-- A completion's command keeps the law: it does nothing, or completes its operation. -/
theorem completes_keeps {kind : ClaimKind → Prop} {t : State} (tie : TieOrder) (hc : completes s t kind)
    (hrun : ∀ k, kind k → t = (k.completion 0 tie).run s) (hp : P s) : P t := by
  obtain rfl | ⟨op, hop, hk, hw⟩ := hc
  · exact hp
  · rw [hrun _ hk]
    exact h.completion tie hop 0 hw (h.completed (State.completing_spec hop).2.1 hp)

/-- The law holds after every command. -/
theorem run_keeps (i : Instr) (hwf : i.wellFormed = true) (hp : P s) : P (i.run s) := by
  cases i <;> simp only [Instr.run]
  case powerOn => exact h.congr (h.powerOn s _) rfl rfl rfl rfl rfl
  case powerLoss => exact h.congr (h.powerOn s _) rfl rfl rfl rfl rfl
  case hrstAssert =>
    unfold hrstAssert
    split_ifs
    · exact hp
    · exact h.congr (h.powerOn s none) rfl rfl rfl rfl rfl
    · exact h.congr hp rfl rfl rfl rfl rfl
  case hrstDeassert =>
    unfold hrstDeassert
    split_ifs
    · exact h.congr (h.powerOn s _) rfl rfl rfl rfl rfl
    · exact h.congr hp rfl rfl rfl rfl rfl
    · exact hp
  case warmupEnd => exact h.warmupEnd hp
  case loadCompletion m => exact h.completes_keeps m.tie (loadCompletion_completes s m.tie) (by rintro _ rfl; rfl) hp
  case commitCompletion m =>
    exact h.completes_keeps m.tie (commitCompletion_completes s m.tie) (by rintro _ rfl; rfl) hp
  case copyLoadCompletion =>
    exact h.completes_keeps .closeFirst (copyLoadCompletion_completes s) (by rintro _ rfl; rfl) hp
  case copyCommitCompletion m =>
    exact h.completes_keeps m.tie (copyCommitCompletion_completes s m.tie) (by rintro _ ⟨_, rfl⟩; rfl) hp
  case fillCompletion m =>
    exact h.completes_keeps m.tie (fillCompletion_completes s m.tie) (by rintro _ ⟨_, _, rfl⟩; rfl) hp
  case refreshCompletion m =>
    exact h.completes_keeps m.tie (refreshCompletion_completes s m.tie) (by rintro _ rfl; rfl) hp
  case scrubCompletion => exact h.completes_keeps .closeFirst (scrubCompletion_completes s) (by rintro _ rfl; rfl) hp
  case openCompletion tie => exact h.completes_keeps tie (openCompletion_completes s tie) (by rintro _ rfl; rfl) hp
  case columnBurstEnd tie => exact h.columnBurstEnd tie hp fun row j => h.burst row j hp
  case routineThreshold => exact h.routineThreshold hp
  case urgentCrossing row => exact h.urgentCrossing row hp
  case deadline row => exact h.deadline (by simpa [Instr.wellFormed, Config.rows] using hwf) hp
  case hcsFall => exact h.hcsFall hp
  case transactionEnd bits => exact h.transactionEnd bits hp
  case identify m => exact h.identify m.tie hp
  case status m => exact h.status m.tie hp
  case configure m => exact h.configure m.tie hp
  case openRow m => exact h.openRow m.tie hp
  case close m => exact h.close m.tie hp
  case read tie => exact h.read tie hp
  case write tie => exact h.write tie hp
  case exchange tie => exact h.exchange tie hp
  case fillRows m => exact h.fillRows m.tie hp
  case copyRow m => exact h.copyRow m.tie hp
  case refresh m => exact h.refresh m.tie hp
  case rowQuery m => exact h.rowQuery m.tie hp
  case streamSetup m => exact h.streamSetup m.tie hp
  case streamAppend m => exact h.streamAppend m.tie hp
  case streamStart m => exact h.streamStart m.tie hp
  case streamStop m => exact h.streamStop m.tie hp
  case streamFlush m => exact h.streamFlush m.tie hp
  case streamQuery m => exact h.streamQuery m.tie hp
  case playbackEdge n => exact h.playbackEdge n hp
  case captureEdge n cell => exact h.captureEdge n cell hp
  case playbackHoldExpiry r => exact h.playbackHoldExpiry r hp
  case captureHoldExpiry r => exact h.captureHoldExpiry r hp
  case lr4HoldExpiry => exact h.lr4HoldExpiry hp
  case idleExpiry k => exact h.idleExpiry k hp

/-- The law holds after every step. -/
theorem step_keeps {s t : State} (hp : P s) (hstep : step s = .next t) : P t :=
  Machine.step_keeps (fun _ _ hp => h.congr hp rfl rfl rfl rfl rfl) (fun _ dt hp => h.advance dt hp)
    (fun i _ hwf hp => h.run_keeps i hwf hp) s t hp hstep

end RowLaw

end Sys2Proof.Machine
end

section
/-! PROOF. The laws of the array, the row table, the refresh engine and the arbiter that every step keeps: the cells'
canonical form, the order list, the scrubs owed, and the ROUTINE claim (log entry 11, R20, R31, R23). -/

namespace Sys2Proof.Machine

/-! ## The cells in canonical form (log entry 11) -/

theorem State.written_memory_wf (s : State) (op : Operation) (hwf : s.rat.memory.wf = true) :
    (s.written op).rat.memory.wf = true := by
  cases hk : op.claim.kind
  case commit =>
    cases hcl : op.claim.claimant
    case register => rw [s.written_commit hk hcl]; exact s.writeSections_wf _ _ _ hwf
    all_goals rw [State.written, hk, hcl]; exact hwf
  case fill => rw [s.written_fill hk]; exact s.writeSections_wf _ _ _ hwf
  case copyCommit => rw [s.written_copyCommit hk]; exact s.writeSections_wf _ _ _ hwf
  case scrub => rw [s.written_scrub hk]; exact s.writeSections_wf _ _ _ hwf
  all_goals rw [State.written, hk]; exact hwf

/-- A property of the cells alone is kept by whatever leaves the cells. -/
theorem rowLaw_of_memory {Q : Memory → Prop}
    (hwritten : ∀ (s : State) (op : Operation), Q s.rat.memory → Q (s.written op).rat.memory)
    (hburst : ∀ (s : State) (row : Nat) (j : ColumnJob), Q s.rat.memory → Q (s.applyBurst row j).rat.memory)
    (hinit : ∀ epoch, Q (Memory.allUndefined epoch)) : RowLaw fun s => Q s.rat.memory where
  congr hp hm _ _ _ _ := by rwa [hm]
  raise _ _ hp := hp
  withdraw _ hp := hp
  circuit _ _ _ hp := hp
  grant c _ _ _ hp := by simpa using hp
  advance _ hp := hp
  completed {s op} _ hp := by
    rw [State.completed, State.rowCompleted_memory]
    exact hwritten s op hp
  burst row j hp := hburst _ row j hp
  warmedUp _ hp := hp
  routine hp := by simpa using hp
  crossed _ hp := hp
  noRoutine _ hp := hp
  urgent _ _ hp := by simpa using hp
  lost _ _ hp := hp
  auto hp := hp
  hosted hp := hp
  noHost hp := hp
  abandoned hp := hp
  powerOn s _ := hinit _

/-- Settles O51: whatever writes cells sets whole rows, and a set row keeps the form. -/
theorem stepsKeepMemoryCanonical : Obligations.StepsKeepMemoryCanonical := fun _ _ hwf hstep =>
  (rowLaw_of_memory (Q := fun m => m.wf = true) State.written_memory_wf State.applyBurst_wf
    Memory.allUndefined_wf).step_keeps hwf hstep

/-! ## The entries of the row table and the scrub list after a completion's writes -/

theorem State.writtenSections_row (s : State) (row q : Nat) (mask : SectionSet) (value : Nat → CellVal)
    (f : RowEntry → RowEntry) : (s.writtenSections row mask value f).row q = (s.updateRow row f).row q := rfl

theorem State.unlistScrub_row (s : State) (row q : Nat) : (s.unlistScrub row).row q = s.row q := rfl

/-- What a change of one entry does to a projection of every entry. -/
theorem State.updateRow_proj_eq {α : Type} (g : RowEntry → α) (s : State) (row q : Nat) (f : RowEntry → RowEntry) :
    g ((s.updateRow row f).row q) = if q = row ∧ row < s.rat.table.length then g (f (s.row q)) else g (s.row q) := by
  by_cases hrow : row < s.rat.table.length
  · rw [State.row_updateRow s row q f hrow]
    by_cases hq : q = row <;> simp [hq, hrow]
  · rw [if_neg fun h => hrow h.2]
    simp only [State.row, State.updateRow, List.set_eq_of_length_le (Nat.le_of_not_lt hrow)]

/-- A change of one entry leaves a projection that the change leaves. -/
theorem State.updateRow_proj {α : Type} (g : RowEntry → α) (s : State) (row q : Nat) (f : RowEntry → RowEntry)
    (hf : ∀ e, g (f e) = g e) : g ((s.updateRow row f).row q) = g (s.row q) := by
  rw [s.updateRow_proj_eq g, hf, ite_self]

/-- A projection of the entries that the LOST flag does not touch is left by every kind but a SCRUB. -/
theorem State.written_proj {α : Type} (g : RowEntry → α) (s : State) {op : Operation} (q : Nat)
    (hlost : ∀ (e : RowEntry) (b : Bool), g { e with lost := b } = g e) (hk : op.claim.kind ≠ .scrub) :
    g ((s.written op).row q) = g (s.row q) := by
  cases hkind : op.claim.kind
  case commit =>
    cases hcl : op.claim.claimant
    case register =>
      rw [s.written_commit hkind hcl, s.writtenSections_row, s.updateRow_proj g _ _ _ fun e => hlost e _]
    all_goals rw [State.written, hkind, hcl]
  case fill => rw [s.written_fill hkind, s.writtenSections_row, s.updateRow_proj g _ _ _ fun e => hlost e _]
  case copyCommit =>
    rw [s.written_copyCommit hkind, s.writtenSections_row, s.updateRow_proj g _ _ _ fun e => hlost e _]
  case scrub => exact absurd hkind hk
  all_goals rw [State.written, hkind]

theorem State.written_row_scrub (s : State) {op : Operation} (hk : op.claim.kind = .scrub) (q : Nat) :
    (s.written op).row q = (s.updateRow op.claim.row fun e => { e with scrubPending := false }).row q := by
  rw [s.written_scrub hk, State.unlistScrub_row, State.writtenSections_row]

theorem State.written_completedAt (s : State) (op : Operation) (q : Nat) :
    ((s.written op).row q).completedAt = (s.row q).completedAt := by
  by_cases hk : op.claim.kind = .scrub
  · rw [s.written_row_scrub hk, s.updateRow_proj_eq RowEntry.completedAt, ite_self]
  · exact s.written_proj RowEntry.completedAt q (fun _ _ => rfl) hk

/-- A SCRUB clears the scrub pending flag of its row (R31). -/
theorem State.written_scrubPending (s : State) (op : Operation) (q : Nat) :
    ((s.written op).row q).scrubPending =
      if op.claim.kind = .scrub ∧ q = op.claim.row ∧ op.claim.row < s.rat.table.length then false
      else (s.row q).scrubPending := by
  by_cases hk : op.claim.kind = .scrub
  · rw [s.written_row_scrub hk, s.updateRow_proj_eq RowEntry.scrubPending]
    simp only [hk, true_and]
  · rw [s.written_proj RowEntry.scrubPending q (fun _ _ => rfl) hk, if_neg fun h => hk h.1]

/-- Only a SCRUB takes a row off the scrub list, its own (R31). -/
theorem State.written_scrubList (s : State) (op : Operation) :
    (s.written op).rfe.scrubList =
      if op.claim.kind = .scrub then s.rfe.scrubList.erase op.claim.row else s.rfe.scrubList := by
  cases hk : op.claim.kind
  case commit =>
    cases hcl : op.claim.claimant
    case register => rw [s.written_commit hk hcl]; rfl
    all_goals rw [State.written, hk, hcl]; rfl
  case fill => rw [s.written_fill hk]; rfl
  case copyCommit => rw [s.written_copyCommit hk]; rfl
  case scrub => rw [s.written_scrub hk]; rfl
  all_goals rw [State.written, hk]; rfl

/-! ### What completes besides, whatever the kind (R3, R25) -/

/-- The refresh engine's claims on the row are gone; R23's check may raise the head's ROUTINE claim. -/
theorem State.rowCompleted_cases (s : State) (row : Nat) :
    ∃ t : State, t.rat = (s.updateRow row fun e => { e with completedAt := s.clock, crossed := false }).rat
      ∧ t.rfe = { s.rfe with order := toTail row s.rfe.order }
      ∧ t.arb = { s.arb with claims := s.arb.claims.filter fun c => !c.isRefreshOf row, circuit := .free }
      ∧ s.rowCompleted row = t.checkRoutine :=
  ⟨State.setCircuit (State.withdraw { s.updateRow row (fun e => { e with completedAt := s.clock, crossed := false }) with
      rfe := { s.rfe with order := toTail row s.rfe.order } } fun c => c.isRefreshOf row) .free, rfl, rfl, rfl, rfl⟩

theorem State.rowCompleted_scrubList (s : State) (row : Nat) :
    (s.rowCompleted row).rfe.scrubList = s.rfe.scrubList := by
  obtain ⟨t, -, hrfe, -, e⟩ := s.rowCompleted_cases row
  simp [e, hrfe]

theorem State.rowCompleted_table (s : State) (row : Nat) :
    (s.rowCompleted row).rat = (s.updateRow row fun e => { e with completedAt := s.clock, crossed := false }).rat := by
  obtain ⟨t, hrat, -, -, e⟩ := s.rowCompleted_cases row
  simp [e, hrat]

theorem State.row_congr {s t : State} (h : t.rat = s.rat) (q : Nat) : t.row q = s.row q := by
  rw [State.row, h, State.row]

theorem State.completed_scrubPending (s : State) (op : Operation) (q : Nat) :
    ((s.completed op).row q).scrubPending =
      if op.claim.kind = .scrub ∧ q = op.claim.row ∧ op.claim.row < s.rat.table.length then false
      else (s.row q).scrubPending := by
  rw [State.completed, State.row_congr (State.rowCompleted_table _ _),
    State.updateRow_proj_eq RowEntry.scrubPending, ite_self, s.written_scrubPending]

theorem State.completed_completedAt (s : State) (op : Operation) (q : Nat) :
    ((s.completed op).row q).completedAt =
      if q = op.claim.row ∧ op.claim.row < s.rat.table.length then s.clock else (s.row q).completedAt := by
  rw [State.completed, State.row_congr (State.rowCompleted_table _ _),
    State.updateRow_proj_eq RowEntry.completedAt, s.written_completedAt]
  simp

theorem State.completed_order (s : State) (op : Operation) :
    (s.completed op).rfe.order = toTail op.claim.row s.rfe.order := by
  rw [State.completed, State.rowCompleted_order]
  simp

theorem State.completed_scrubList (s : State) (op : Operation) :
    (s.completed op).rfe.scrubList =
      if op.claim.kind = .scrub then s.rfe.scrubList.erase op.claim.row else s.rfe.scrubList := by
  rw [State.completed, State.rowCompleted_scrubList, s.written_scrubList]

theorem State.completed_mode (s : State) (op : Operation) : (s.completed op).rfe.mode = s.rfe.mode := by
  obtain ⟨t, -, hrfe, -, e⟩ := (s.written op).rowCompleted_cases op.claim.row
  simp [State.completed, e, hrfe]

theorem State.completed_clock (s : State) (op : Operation) : (s.completed op).clock = s.clock := by
  simp [State.completed]

theorem State.completed_table_length (s : State) (op : Operation) :
    (s.completed op).rat.table.length = s.rat.table.length := by
  simp [State.completed, State.rowCompleted_table]

/-- The claims after a completion: those but the refresh engine's on the row, and perhaps the head's ROUTINE claim. -/
theorem State.completed_claims (s : State) (op : Operation) :
    ∃ t : State, t.arb.claims = (s.arb.claims.filter fun c => !c.isRefreshOf op.claim.row)
      ∧ t.arb.circuit = .free ∧ t.rfe = (s.completed op).rfe ∧ s.completed op = t.checkRoutine := by
  obtain ⟨t, -, -, harb, e⟩ := (s.written op).rowCompleted_cases op.claim.row
  exact ⟨t, by simp [harb], by simp [harb], by simp [State.completed, e], e⟩

/-! ## The order list (R20) -/

theorem orderedByAge_completed {s : State} {op : Operation} (h : s.orderedByAge) : (s.completed op).orderedByAge := by
  obtain ⟨hlen, hperm, hsorted, hclock⟩ := h
  have hmem : ∀ r, r ∈ s.rfe.order ↔ r < 512 := fun r => by rw [hperm.mem_iff, List.mem_range]
  refine ⟨by rw [s.completed_table_length, hlen], ?_, ?_, fun r hr => ?_⟩
  · rw [s.completed_order]
    exact (toTail_perm _ _).trans hperm
  · have hother : ∀ {r}, r ≠ op.claim.row → ((s.completed op).row r).completedAt = (s.row r).completedAt := fun hr => by
      rw [s.completed_completedAt, if_neg fun h => hr h.1]
    rw [s.completed_order]
    by_cases hrow : op.claim.row ∈ s.rfe.order
    · have hnodup : s.rfe.order.Nodup := hperm.nodup_iff.2 List.nodup_range
      have hkept : ∀ {r}, r ∈ s.rfe.order.erase op.claim.row → r ≠ op.claim.row ∧ r ∈ s.rfe.order := fun hr =>
        hnodup.mem_erase_iff.1 hr
      rw [toTail_of_mem hrow, List.pairwise_append]
      refine ⟨(hsorted.sublist List.erase_sublist).imp_of_mem fun {a b} ha hb hab => ?_, List.pairwise_singleton _ _,
        fun a ha b hb => ?_⟩
      · rwa [hother (hkept ha).1, hother (hkept hb).1]
      · rw [List.mem_singleton.1 hb, hother (hkept ha).1, s.completed_completedAt,
          if_pos ⟨rfl, by rw [hlen]; exact (hmem _).1 hrow⟩]
        exact hclock a ((hmem a).1 (hkept ha).2)
    · rw [show toTail op.claim.row s.rfe.order = s.rfe.order by simp [toTail, hrow]]
      exact hsorted.imp_of_mem fun {a b} ha hb hab => by
        rwa [hother fun e => hrow (e ▸ ha), hother fun e => hrow (e ▸ hb)]
  · rw [s.completed_completedAt, s.completed_clock]
    split_ifs
    · exact Nat.le_refl _
    · exact hclock r hr

theorem orderedByAge_congr {s t : State} (h : s.orderedByAge) (hlen : t.rat.table.length = s.rat.table.length)
    (hat : ∀ r, (t.row r).completedAt = (s.row r).completedAt) (horder : t.rfe.order = s.rfe.order)
    (hclock : s.clock ≤ t.clock) : t.orderedByAge := by
  obtain ⟨hl, hperm, hsorted, hc⟩ := h
  exact ⟨by rw [hlen, hl], by rwa [horder], by simpa only [horder, hat] using hsorted,
    fun r hr => hat r ▸ (hc r hr).trans hclock⟩

theorem orderedByAge_powerOnValues (s : State) (start : Option Nat) : (s.powerOnValues start).orderedByAge := by
  have hrow : ∀ r, r < 512 → ((s.powerOnValues start).row r).completedAt = s.clock := fun r hr =>
    congrArg RowEntry.completedAt (RowArray.atInit_getD s.clock _ hr _)
  have horder : (s.powerOnValues start).rfe.order = List.range 512 := by
    simp [State.powerOnValues, RefreshEngine.atInit, Config.rows]
  refine ⟨List.length_replicate, horder ▸ .refl _, horder ▸ ?_, fun r hr => (hrow r hr).le⟩
  refine List.pairwise_lt_range.imp_of_mem fun {a b} ha hb _ => ?_
  rw [hrow a (List.mem_range.1 ha), hrow b (List.mem_range.1 hb)]

theorem rowLaw_orderedByAge : RowLaw State.orderedByAge where
  congr hp hm htable hrfe harb hclock :=
    orderedByAge_congr hp (by rw [htable]) (fun r => by rw [State.row, htable, State.row]) (by rw [hrfe]) hclock.ge
  raise _ _ hp := hp
  withdraw _ hp := hp
  circuit _ _ _ hp := hp
  grant c _ _ _ hp := orderedByAge_congr hp (by simp) (by simp) (by simp) (by simp)
  advance dt hp := orderedByAge_congr hp rfl (fun _ => rfl) rfl (Nat.le_add_right _ dt)
  completed _ hp := orderedByAge_completed hp
  burst row j hp := orderedByAge_congr hp (by simp) (by simp) (by simp) (by simp)
  warmedUp _ hp := hp
  routine hp := orderedByAge_congr hp (by simp) (by simp) (by simp) (by simp)
  crossed row hp := orderedByAge_congr hp (by simp [State.markCrossed])
    (fun r => State.updateRow_proj RowEntry.completedAt _ _ _ _ fun _ => rfl) rfl (Nat.le_refl _)
  noRoutine _ hp := hp
  urgent row _ hp := orderedByAge_congr hp (by simp) (by simp) (by simp) (by simp)
  lost {s row} _ _ hp := orderedByAge_congr hp (by simp [State.loseRow])
    (fun r => s.updateRow_proj RowEntry.completedAt row r (fun e => { e with lost := true, scrubPending := true })
      fun _ => rfl) rfl (Nat.le_refl _)
  auto hp := hp
  hosted hp := hp
  noHost hp := hp
  abandoned hp := hp
  powerOn := orderedByAge_powerOnValues

/-- Settles O55: only a completion moves a row, and the row it moves is the youngest. -/
theorem orderListStaysSortedByAge : Obligations.OrderListStaysSortedByAge := fun _ _ hp hstep =>
  rowLaw_orderedByAge.step_keeps hp hstep

/-! ## What the arbiter's and the refresh engine's acts leave of the claims held -/

section Held

variable {s : State} {p : Claim → Bool}

theorem State.holdsClaim_congr {t : State} (h : t.arb = s.arb) : t.holdsClaim p = s.holdsClaim p := by
  rw [State.holdsClaim, State.inFlight, h, State.holdsClaim, State.inFlight]

theorem State.inFlight_congr {t : State} (h : t.arb.circuit = s.arb.circuit) : t.inFlight = s.inFlight := by
  rw [State.inFlight, h, State.inFlight]

theorem State.inFlight_of_noOperation (h : s.arb.circuit.noOperation = true) : s.inFlight = none := by
  unfold State.inFlight
  split
  · next hc => rw [hc] at h; cases h
  · rfl

theorem State.holdsClaim_raiseClaim (c : Claim) : (s.raiseClaim c).holdsClaim p = (s.holdsClaim p || p c) := by
  rw [Bool.eq_iff_iff, Bool.or_eq_true, State.holdsClaim_iff, State.holdsClaim_iff]
  simp only [State.raiseClaim_arb, List.mem_append, List.mem_singleton, or_and_right, exists_or, exists_eq_left]
  exact or_right_comm

/-- A withdrawal leaves the claims held that it does not name; one in flight cannot be withdrawn (R51). -/
theorem State.holdsClaim_withdraw {q : Claim → Bool} (hq : ∀ c, p c = true → q c = false) :
    (s.withdraw q).holdsClaim p = s.holdsClaim p := by
  rw [Bool.eq_iff_iff, State.holdsClaim_iff, State.holdsClaim_iff]
  refine or_congr (exists_congr fun c => ?_) .rfl
  simp only [State.withdraw, List.mem_filter, Bool.not_eq_true']
  exact ⟨fun h => ⟨h.1.1, h.2⟩, fun h => ⟨⟨h.1, hq c h.2⟩, h.2⟩⟩

theorem State.holdsClaim_setCircuit (c : Circuit) (hs : s.arb.circuit.noOperation = true) (hc : c.noOperation = true) :
    (s.setCircuit c).holdsClaim p = s.holdsClaim p := by
  rw [State.holdsClaim, State.holdsClaim, s.inFlight_of_noOperation hs,
    State.inFlight_of_noOperation (s := s.setCircuit c) hc]
  rfl

theorem State.grant_inFlight (c : Claim) : (s.grant c).inFlight = some (s.operationOf c) :=
  (State.inFlight_eq_some _).2 (s.grant_spec c).1

/-- A grant takes a pending claim in flight: it stays held. -/
theorem State.holdsClaim_grant {c : Claim} (hf : s.arb.circuit = .free) (hc : c ∈ s.arb.claims) :
    (s.grant c).holdsClaim p = s.holdsClaim p := by
  have hnone : s.inFlight = none := s.inFlight_of_noOperation (by rw [hf]; rfl)
  rw [Bool.eq_iff_iff, State.holdsClaim_iff, State.holdsClaim_iff, s.grant_inFlight, (s.grant_spec c).2.1, hnone]
  simp only [Option.some.injEq, exists_eq_left', State.operationOf_claim, reduceCtorEq, false_and, exists_false, or_false]
  constructor
  · rintro (⟨d, hd, hpd⟩ | hpc)
    · exact ⟨d, List.mem_of_mem_erase hd, hpd⟩
    · exact ⟨c, hc, hpc⟩
  · rintro ⟨d, hd, hpd⟩
    by_cases hdc : d = c
    · exact .inr (hdc ▸ hpd)
    · exact .inl ⟨d, (List.mem_erase_of_ne hdc).2 hd, hpd⟩

theorem Circuit.abandoned_isWarmup (c : Circuit) : c.abandoned.isWarmup = c.isWarmup := by
  cases c <;> rfl

/-- A RESET keeps the operation in flight, to be discarded if it is the host's (R173). -/
theorem State.inFlight_abandoned :
    (State.inFlight { s with arb := { s.arb with circuit := s.arb.circuit.abandoned, preferred := .s0 } }) =
      s.inFlight.map fun op => { op with discarded := op.discarded || op.claim.cls == .host } := by
  unfold State.inFlight
  cases s.arb.circuit <;> rfl

theorem State.holdsClaim_abandoned :
    State.holdsClaim { s with arb := { s.arb with circuit := s.arb.circuit.abandoned, preferred := .s0 } } p =
      s.holdsClaim p := by
  rw [State.holdsClaim, State.inFlight_abandoned, State.holdsClaim]
  cases s.inFlight <;> rfl

end Held

end Sys2Proof.Machine
end

section
/-! PROOF. The scrubs owed, and the ROUTINE claim (R31, R10, R42, R23, R26, R27). -/

namespace Sys2Proof.Machine

/-! ## Claims that have nothing to do with a scrub -/

theorem Claim.scrubs_spec {c : Claim} {r : Nat} (h : c.scrubs r = true) :
    c.kind = .scrub ∧ c.row = r ∧ c.cls = .scrub ∧ (c.claimant = .refreshEngine ∨ c.claimant = .rowTable) := by
  simpa [Claim.scrubs, and_assoc] using h

theorem Claim.scrubs_isOf {c : Claim} {r : Nat} (q : LrId) (h : c.scrubs r = true) : c.isOf q = false := by
  obtain ⟨-, -, -, hcl | hcl⟩ := c.scrubs_spec h <;> simp [Claim.isOf, Claim.register?, hcl]

theorem Claim.scrubs_cls {c : Claim} {r : Nat} {k : ClaimClass} (hk : k ≠ .scrub) (h : c.scrubs r = true) :
    (c.cls == k) = false := by
  rw [(c.scrubs_spec h).2.2.1]
  exact beq_eq_false_iff_ne.2 hk.symm

/-! ## The scrubs owed (R10, R31, R42) -/

section Scrubs

variable {s t : State}

theorem scrubsOwed_congr (h : s.scrubsOwed) (hlen : t.rat.table.length = s.rat.table.length)
    (hpending : ∀ r, (t.row r).scrubPending = (s.row r).scrubPending)
    (hlist : t.rfe.scrubList = s.rfe.scrubList)
    (hwarm : t.arb.circuit.isWarmup = false → s.arb.circuit.isWarmup = false)
    (hheld : ∀ r, s.holdsClaim (fun c => c.scrubs r) = true → t.holdsClaim (fun c => c.scrubs r) = true) :
    t.scrubsOwed := by
  obtain ⟨hl, hnodup, hmem, hclaims⟩ := h
  refine ⟨by rw [hlen, hl], by rwa [hlist], fun r => by rw [hlist, hpending, hmem], fun hw r hr => ?_⟩
  exact hheld r (hclaims (hwarm hw) r (hlist ▸ hr))

theorem scrubBlocks_congr (h : s.scrubBlocks) (hpending : ∀ r, (t.row r).scrubPending = (s.row r).scrubPending)
    (hflight : t.inFlight.map Operation.claim = s.inFlight.map Operation.claim) : t.scrubBlocks := by
  intro op hop hk
  rw [hop, Option.map_some, eq_comm, Option.map_eq_some_iff] at hflight
  obtain ⟨op', hop', hclaim⟩ := hflight
  rw [← hclaim] at hk ⊢
  rw [hpending]
  exact h op' hop' hk

theorem scrubBlocks_of_none (h : s.inFlight = none) : s.scrubBlocks := fun op hop _ => by
  rw [h] at hop
  cases hop

/-- The two laws of the scrubs. -/
def State.scrubsKept (s : State) : Prop :=
  s.scrubsOwed ∧ s.scrubBlocks

/-- What touches neither the entries' flags nor the scrub list, and no claim held of a SCRUB or in flight. -/
theorem scrubsKept_congr (h : s.scrubsKept) (hrat : t.rat.table = s.rat.table)
    (hlist : t.rfe.scrubList = s.rfe.scrubList)
    (hwarm : t.arb.circuit.isWarmup = false → s.arb.circuit.isWarmup = false)
    (hflight : t.inFlight.map Operation.claim = s.inFlight.map Operation.claim)
    (hheld : ∀ r, s.holdsClaim (fun c => c.scrubs r) = true → t.holdsClaim (fun c => c.scrubs r) = true) :
    t.scrubsKept := by
  have hrow : ∀ r, (t.row r).scrubPending = (s.row r).scrubPending := fun r => by rw [State.row, hrat, State.row]
  exact ⟨scrubsOwed_congr h.1 (by rw [hrat]) hrow hlist hwarm hheld, scrubBlocks_congr h.2 hrow hflight⟩

theorem scrubsKept_raiseClaim (c : Claim) (h : s.scrubsKept) : (s.raiseClaim c).scrubsKept :=
  scrubsKept_congr h rfl rfl id rfl fun r hr => by rw [State.holdsClaim_raiseClaim, hr, Bool.true_or]

theorem scrubsKept_withdraw {q : Claim → Bool} (hq : ∀ c r, c.scrubs r = true → q c = false) (h : s.scrubsKept) :
    (s.withdraw q).scrubsKept :=
  scrubsKept_congr h rfl rfl id rfl fun r hr => by rwa [State.holdsClaim_withdraw fun c hc => hq c r hc]

theorem scrubsKept_circuit (c : Circuit) (hs : s.arb.circuit.noOperation = true) (hc : c.noOperation = true)
    (h : s.scrubsKept) : (s.setCircuit c).scrubsKept := by
  refine scrubsKept_congr h rfl rfl (fun _ => ?_) ?_ fun r hr => by rwa [State.holdsClaim_setCircuit c hs hc]
  · cases hcirc : s.arb.circuit with
    | warmup => rw [hcirc] at hs; cases hs
    | _ => rfl
  · rw [s.inFlight_of_noOperation hs, State.inFlight_of_noOperation (s := s.setCircuit c) hc]

theorem scrubsKept_grant {c : Claim} (hf : s.arb.circuit = .free) (hc : c ∈ s.arb.claims) (hg : s.grantable c = true)
    (h : s.scrubsKept) : (s.grant c).scrubsKept := by
  obtain ⟨howed, -⟩ := h
  refine ⟨scrubsOwed_congr howed (by simp) (by simp) (by simp) (fun _ => by rw [hf]; rfl) fun r hr => by
    rwa [State.holdsClaim_grant hf hc], fun op hop hk => ?_⟩
  rw [s.grant_inFlight, Option.some.injEq] at hop
  subst hop
  simpa [State.grantable, State.operationOf_claim, show c.kind ≠ .scrub from hk] using hg

theorem scrubsKept_checkRoutine (h : s.scrubsKept) : s.checkRoutine.scrubsKept := by
  obtain e | ⟨head, -, -, -, -, -, -, -, -, e⟩ := s.checkRoutine_cases
  · rwa [e]
  · rw [e]
    exact scrubsKept_raiseClaim _ h

/-- A completion of another kind is of a row without a scrub pending; a SCRUB's takes its row off the list. -/
theorem scrubsKept_completed {op : Operation} (hcirc : s.arb.circuit = .operating op) (h : s.scrubsKept) :
    (s.completed op).scrubsKept := by
  obtain ⟨⟨hlen, hnodup, hmem, hclaims⟩, hblocks⟩ := h
  refine ⟨⟨by rw [s.completed_table_length, hlen], ?_, fun r => ?_, fun _ r hr => ?_⟩,
    scrubBlocks_of_none (State.inFlight_of_noOperation (by rw [State.completed_circuit]; rfl))⟩
  · rw [s.completed_scrubList]
    split_ifs
    · exact hnodup.erase _
    · exact hnodup
  · rw [s.completed_scrubList, s.completed_scrubPending]
    by_cases hk : op.claim.kind = .scrub
    · rw [if_pos hk, hnodup.mem_erase_iff, hmem, hlen]
      by_cases hr : r = op.claim.row
      · subst hr
        by_cases hrow : op.claim.row < 512 <;> simp [hk, hrow]
      · simp [hr]
    · simp only [hk, false_and, if_false, hmem]
  · have hrlist : r ∈ s.rfe.scrubList ∧ (op.claim.kind = .scrub → r ≠ op.claim.row) := by
      rw [s.completed_scrubList] at hr
      split_ifs at hr with hk
      · exact ⟨(hnodup.mem_erase_iff.1 hr).2, fun _ => (hnodup.mem_erase_iff.1 hr).1⟩
      · exact ⟨hr, fun hk' => absurd hk' hk⟩
    have hheld := hclaims (by rw [hcirc]; rfl) r hrlist.1
    obtain ⟨c, hc, hcr⟩ | ⟨op', hop', hcr⟩ := (s.holdsClaim_iff _).1 hheld
    · obtain ⟨t, hclaims', -, -, e⟩ := s.completed_claims op
      have hnot : c.isRefreshOf op.claim.row = false := by
        rw [Claim.isRefreshOf, Claim.scrubs_cls (by decide) hcr, Claim.scrubs_cls (by decide) hcr]
        rfl
      have ht : t.holdsClaim (fun c => c.scrubs r) = true :=
        (t.holdsClaim_iff _).2 (.inl ⟨c, by rw [hclaims']; exact List.mem_filter.2 ⟨hc, by rw [hnot]; rfl⟩, hcr⟩)
      rw [e]
      obtain e' | ⟨_, _, -, -, -, -, -, -, -, e'⟩ := t.checkRoutine_cases
      · rw [e', ht]
      · rw [e', State.holdsClaim_raiseClaim, ht, Bool.true_or]
    · rw [(State.inFlight_eq_some _).2 hcirc] at hop'
      cases hop'
      obtain ⟨hk, hrow, -⟩ := Claim.scrubs_spec hcr
      exact absurd hrow.symm (hrlist.2 hk)

theorem scrubsKept_loseRow {row : Nat} (hrow : row < 512) (hun : s.undisturbed row = true) (h : s.scrubsKept) :
    (s.loseRow row).scrubsKept := by
  obtain ⟨⟨hlen, hnodup, hmem, hclaims⟩, hblocks⟩ := h
  simp only [State.undisturbed, Bool.and_eq_true, Bool.not_eq_true'] at hun
  obtain ⟨hclear, hnone⟩ := hun
  have hpending : ∀ q, ((s.loseRow row).row q).scrubPending = if q = row then true else (s.row q).scrubPending :=
    fun q => by
      have e := s.updateRow_proj_eq RowEntry.scrubPending row q fun e => { e with lost := true, scrubPending := true }
      exact e.trans (by simp [hlen, hrow])
  have hlist : (s.loseRow row).rfe.scrubList = s.rfe.scrubList ++ [row] := rfl
  have hnot : row ∉ s.rfe.scrubList := fun hr => by simpa [hclear] using ((hmem row).1 hr).2
  refine ⟨⟨by simp [State.loseRow, hlen], ?_, fun r => ?_, fun hw r hr => ?_⟩, fun op hop hk => ?_⟩
  · rw [hlist]
    exact hnodup.append (List.nodup_singleton _) (by simpa using hnot)
  · rw [hlist, List.mem_append, List.mem_singleton, hpending, hmem]
    by_cases hr : r = row <;> simp [hr, hrow]
  · have hraised : ∀ p, (s.loseRow row).holdsClaim p = (s.holdsClaim p || p ⟨.scrub, row, .refreshEngine, .scrub⟩) :=
      fun p => (State.holdsClaim_raiseClaim (p := p) _).trans rfl
    rw [hlist, List.mem_append, List.mem_singleton] at hr
    rw [hraised]
    obtain hr | rfl := hr
    · rw [hclaims hw r hr, Bool.true_or]
    · simp [Claim.scrubs]
  · rw [hpending]
    have hop' : s.inFlight = some op := hop
    have hne : op.claim.row ≠ row := fun e => by simp [State.inFlightOn, hop', e] at hnone
    rw [if_neg hne]
    exact hblocks op hop' hk

theorem scrubsKept_powerOnValues (s : State) (start : Option Nat) : (s.powerOnValues start).scrubsKept := by
  have hlist : (s.powerOnValues start).rfe.scrubList = List.range 512 := by
    simp [State.powerOnValues, RefreshEngine.atInit, Config.rows]
  refine ⟨⟨List.length_replicate, hlist ▸ List.nodup_range, fun r => ?_, fun hw => (by cases hw)⟩,
    scrubBlocks_of_none rfl⟩
  rw [hlist, List.mem_range]
  exact ⟨fun hr => ⟨hr, congrArg RowEntry.scrubPending (RowArray.atInit_getD s.clock _ hr _)⟩, And.left⟩

theorem rowLaw_scrubsKept : RowLaw State.scrubsKept where
  congr {s t} hp _ htable hrfe harb _ :=
    scrubsKept_congr hp htable (by rw [hrfe]) (by rw [harb]; exact id)
      (by rw [State.inFlight_congr (s := s) (by rw [harb])])
      fun _ hr => by rwa [State.holdsClaim_congr harb]
  raise c _ hp := scrubsKept_raiseClaim c hp
  withdraw r hp := scrubsKept_withdraw (fun _ _ hc => Claim.scrubs_isOf r hc) hp
  circuit c hs hc hp := scrubsKept_circuit c hs hc hp
  grant _ hf hc hg hp := scrubsKept_grant hf hc hg hp
  advance _ hp := hp
  completed hcirc hp := scrubsKept_completed hcirc hp
  burst {s} row j hp := scrubsKept_congr hp (by simp) (by simp) (by simp)
    (by rw [State.inFlight_congr (s := s) (by simp)]) fun _ hr => by rwa [State.holdsClaim_congr (s := s) (by simp)]
  warmedUp {s start} hcirc hp := by
    obtain ⟨⟨hlen, hnodup, hmem, -⟩, -⟩ := hp
    refine ⟨⟨hlen, hnodup, hmem, fun _ r hr => (State.holdsClaim_iff _ _).2 (.inl ⟨⟨.scrub, r, .rowTable, .scrub⟩, ?_, ?_⟩)⟩,
      scrubBlocks_of_none rfl⟩
    · exact List.mem_append_right _ (List.mem_map_of_mem hr)
    · simp [Claim.scrubs]
  routine hp := scrubsKept_checkRoutine hp
  crossed {s} row hp := by
    have hrow : ∀ r, ((s.markCrossed row).row r).scrubPending = (s.row r).scrubPending := fun r =>
      s.updateRow_proj RowEntry.scrubPending row r (fun e => { e with crossed := true }) fun _ => rfl
    exact ⟨scrubsOwed_congr hp.1 (by simp [State.markCrossed]) hrow rfl id fun _ hr => hr, scrubBlocks_congr hp.2 hrow rfl⟩
  noRoutine row hp := scrubsKept_withdraw (fun _ _ hc => by rw [Claim.scrubs_cls (by decide) hc]; rfl) hp
  urgent {s} row _ hp := by
    unfold State.raiseUrgent
    split
    · exact hp
    · exact scrubsKept_raiseClaim _ hp
  lost hrow hun hp := scrubsKept_loseRow hrow hun hp
  auto hp := hp
  hosted {s} hp := scrubsKept_withdraw (s := { s with rfe := { s.rfe with mode := .hosted } })
    (fun _ _ hc => by rw [Claim.scrubs_cls (by decide) hc, Claim.scrubs_cls (by decide) hc]; rfl) hp
  noHost hp := scrubsKept_withdraw
    (fun _ _ hc => by rw [Claim.scrubs_cls (by decide) hc, Claim.scrubs_cls (by decide) hc]; rfl) hp
  abandoned {s} hp := scrubsKept_congr hp rfl rfl (by rw [← Circuit.abandoned_isWarmup s.arb.circuit]; exact id)
    (by rw [State.inFlight_abandoned, Option.map_map]; rfl) fun _ hr => by rwa [State.holdsClaim_abandoned]
  powerOn := scrubsKept_powerOnValues

end Scrubs

/-- Settles O56: a grant passes over a row with a scrub pending unless it is its SCRUB. -/
theorem scrubsStayOwed : Obligations.ScrubsStayOwed := fun _ _ howed hblocks hstep =>
  rowLaw_scrubsKept.step_keeps ⟨howed, hblocks⟩ hstep

end Sys2Proof.Machine
end

section
/-! PROOF. The ROUTINE claim: one at most, of the head row, and none in HOSTED mode (R23, R26, R27). -/

namespace Sys2Proof.Machine

theorem toTail_head {row x : Nat} {order : List Nat} (h : order.head? = some x) (hne : x ≠ row) :
    (toTail row order).head? = some x := by
  obtain ⟨rest, rfl⟩ := List.head?_eq_some_iff.1 h
  by_cases hrow : row ∈ rest
  · rw [toTail_of_mem (List.mem_cons_of_mem _ hrow), List.erase_cons_tail (by simpa using hne)]
    rfl
  · rw [toTail, if_neg (by simpa [hrow] using Ne.symm hne)]
    rfl

section Routine

variable {s t : State}

/-- The ROUTINE claims held are of the head row. -/
theorem routineHeld_head_iff :
    (∀ c, s.holdsClaim (fun d => d == c && d.cls == .routine) = true → s.rfe.order.head? = some c.row) ↔
      (∀ c ∈ s.arb.claims, c.cls = .routine → s.rfe.order.head? = some c.row)
        ∧ ∀ op, s.inFlight = some op → op.claim.cls = .routine → s.rfe.order.head? = some op.claim.row := by
  simp only [State.holdsClaim_iff, Bool.and_eq_true, beq_iff_eq]
  constructor
  · exact fun h => ⟨fun c hc hk => h c (.inl ⟨c, hc, rfl, hk⟩), fun op hop hk => h _ (.inr ⟨op, hop, rfl, hk⟩)⟩
  · rintro ⟨hpending, hflight⟩ c (⟨d, hd, rfl, hk⟩ | ⟨op, hop, rfl, hk⟩)
    · exact hpending d hd hk
    · exact hflight op hop hk

/-- Fewer claims pending, and in flight the same claim or none. -/
theorem routineHeld_of_sublist (h : s.routineHeld) (hsub : t.arb.claims.Sublist s.arb.claims)
    (hflight : ∀ op, t.inFlight = some op → ∃ op', s.inFlight = some op' ∧ op'.claim = op.claim)
    (horder : t.rfe.order = s.rfe.order) (hmode : t.rfe.mode = .hosted → s.rfe.mode = .hosted) : t.routineHeld := by
  obtain ⟨hcount, hhead, hsingle, hhosted⟩ := h
  obtain ⟨hpending, hgranted⟩ := routineHeld_head_iff.1 hhead
  refine ⟨(hsub.filter _).length_le.trans hcount, routineHeld_head_iff.2 ⟨fun c hc hk => ?_, fun op hop hk => ?_⟩,
    fun op hop hk c hc => ?_, fun hm c hc => hhosted (hmode hm) c (hsub.subset hc)⟩
  · rw [horder]
    exact hpending c (hsub.subset hc) hk
  · obtain ⟨op', hop', e⟩ := hflight op hop
    rw [horder, ← e]
    exact hgranted op' hop' (e ▸ hk)
  · obtain ⟨op', hop', e⟩ := hflight op hop
    exact hsingle op' hop' (e ▸ hk) c (hsub.subset hc)

theorem routineHeld_congr (h : s.routineHeld) (harb : t.arb = s.arb) (hrfe : t.rfe = s.rfe) : t.routineHeld :=
  routineHeld_of_sublist h (by rw [harb]) (fun op hop => ⟨op, by rwa [← State.inFlight_congr (s := s) (by rw [harb])], rfl⟩)
    (by rw [hrfe]) (by rw [hrfe]; exact id)

/-- A claim of another class joins; an URGENT one in AUTO mode only. -/
theorem routineHeld_raiseClaim (c : Claim) (hc : c.cls ≠ .routine) (hu : s.rfe.mode = .hosted → c.cls ≠ .urgent)
    (h : s.routineHeld) : (s.raiseClaim c).routineHeld := by
  obtain ⟨hcount, hhead, hsingle, hhosted⟩ := h
  obtain ⟨hpending, hgranted⟩ := routineHeld_head_iff.1 hhead
  have hmem : ∀ d, d ∈ (s.raiseClaim c).arb.claims ↔ d ∈ s.arb.claims ∨ d = c := fun d => by simp
  refine ⟨?_, routineHeld_head_iff.2 ⟨fun d hd hk => ?_, hgranted⟩, fun op hop hk d hd => ?_, fun hm d hd => ?_⟩
  · simpa [List.filter_append, hc] using hcount
  · obtain hd | rfl := (hmem d).1 hd
    · exact hpending d hd hk
    · exact absurd hk hc
  · obtain hd | rfl := (hmem d).1 hd
    · exact hsingle op hop hk d hd
    · exact hc
  · obtain hd | rfl := (hmem d).1 hd
    · exact hhosted hm d hd
    · exact ⟨hc, hu hm⟩

/-- R23's check claims for the head, in AUTO mode, and only with no ROUTINE claim held. -/
theorem routineHeld_checkRoutine (h : s.routineHeld) : s.checkRoutine.routineHeld := by
  obtain e | ⟨head, rest, horder, hmode, hnone, -, -, -, -, e⟩ := s.checkRoutine_cases
  · rwa [e]
  obtain ⟨hcount, hhead, hsingle, hhosted⟩ := h
  obtain ⟨-, hgranted⟩ := routineHeld_head_iff.1 hhead
  have hnot := (Bool.eq_false_iff.1 hnone ∘ (s.holdsClaim_iff _).2)
  have hpendingNot : ∀ c ∈ s.arb.claims, c.cls ≠ .routine := fun c hc hk => hnot (.inl ⟨c, hc, by simp [hk]⟩)
  have hflightNot : ∀ op, s.inFlight = some op → op.claim.cls ≠ .routine := fun op hop hk =>
    hnot (.inr ⟨op, hop, by simp [hk]⟩)
  rw [e]
  refine ⟨?_, routineHeld_head_iff.2 ⟨fun d hd hk => ?_, hgranted⟩, fun op hop hk => absurd hk (hflightNot op hop),
    fun hm => absurd hm (by rw [State.raiseClaim_rfe, hmode]; decide)⟩
  · have hempty : s.arb.claims.filter (fun c => c.cls == .routine) = [] := by
      simpa [List.filter_eq_nil_iff] using hpendingNot
    simp [List.filter_append, hempty]
  · rw [State.raiseClaim_arb, List.mem_append, List.mem_singleton] at hd
    obtain hd | rfl := hd
    · exact absurd hk (hpendingNot d hd)
    · simp [horder]

theorem routineHeld_grant {c : Claim} (hc : c ∈ s.arb.claims) (h : s.routineHeld) :
    (s.grant c).routineHeld := by
  obtain ⟨hcount, hhead, hsingle, hhosted⟩ := h
  obtain ⟨hpending, -⟩ := routineHeld_head_iff.1 hhead
  have hclaims : (s.grant c).arb.claims = s.arb.claims.erase c := (s.grant_spec c).2.1
  have hrfe : (s.grant c).rfe = s.rfe := by simp
  refine ⟨?_, routineHeld_head_iff.2 ⟨fun d hd hk => ?_, fun op hop hk => ?_⟩, fun op hop hk d hd hd' => ?_,
    fun hm d hd => ?_⟩
  · rw [hclaims]
    exact (List.erase_sublist.filter _).length_le.trans hcount
  · rw [hrfe]
    exact hpending d (List.mem_of_mem_erase (hclaims ▸ hd)) hk
  · rw [s.grant_inFlight, Option.some.injEq] at hop
    subst hop
    rw [hrfe]
    exact hpending c hc hk
  · rw [s.grant_inFlight, Option.some.injEq] at hop
    subst hop
    rw [hclaims] at hd
    have hperm := (List.perm_cons_erase hc).filter (fun c => c.cls == .routine)
    have hmem : d ∈ (s.arb.claims.erase c).filter (fun c => c.cls == .routine) := List.mem_filter.2 ⟨hd, by simp [hd']⟩
    have hkc : (c.cls == .routine) = true := beq_iff_eq.2 hk
    rw [List.filter_cons, if_pos hkc] at hperm
    have hlen := hperm.length_eq
    have hpos := List.length_pos_of_mem hmem
    simp only [List.length_cons] at hlen
    omega
  · exact hhosted (hrfe ▸ hm) d (List.mem_of_mem_erase (hclaims ▸ hd))

/-- The head's completion takes its ROUTINE claim with it; another row's leaves the head. -/
theorem routineHeld_completed {op : Operation} (h : s.routineHeld) : (s.completed op).routineHeld := by
  obtain ⟨hcount, hhead, -, hhosted⟩ := h
  obtain ⟨hpending, -⟩ := routineHeld_head_iff.1 hhead
  obtain ⟨t, hclaims, hcirc, hrfe, e⟩ := s.completed_claims op
  rw [e]
  apply routineHeld_checkRoutine
  have hnone : t.inFlight = none := State.inFlight_of_noOperation (by rw [hcirc]; rfl)
  have hmem : ∀ c ∈ t.arb.claims, c ∈ s.arb.claims ∧ c.isRefreshOf op.claim.row = false := fun c hc => by
    rw [hclaims, List.mem_filter, Bool.not_eq_true'] at hc
    exact hc
  refine ⟨?_, routineHeld_head_iff.2 ⟨fun c hc hk => ?_, fun op' hop' => ?_⟩, fun op' hop' => ?_, fun hm c hc => ?_⟩
  · rw [hclaims]
    exact (List.filter_sublist.filter _).length_le.trans hcount
  · obtain ⟨hcs, hnot⟩ := hmem c hc
    rw [hrfe, s.completed_order]
    exact toTail_head (hpending c hcs hk) fun hrow => by simp [Claim.isRefreshOf, hk, hrow] at hnot
  · rw [hnone] at hop'
    cases hop'
  · rw [hnone] at hop'
    cases hop'
  · rw [hrfe, State.completed_mode] at hm
    exact hhosted hm c (hmem c hc).1

theorem routineHeld_of_noClaims (hc : s.arb.claims = []) (hf : s.inFlight = none) : s.routineHeld := by
  have hnone : ∀ op, s.inFlight ≠ some op := fun op hop => by rw [hf] at hop; cases hop
  exact ⟨by simp [hc], routineHeld_head_iff.2 ⟨by simp [hc], fun op hop => absurd hop (hnone op)⟩,
    fun op hop => absurd hop (hnone op), by simp [hc]⟩

theorem rowLaw_routineHeld : RowLaw State.routineHeld where
  congr hp _ _ hrfe harb _ := routineHeld_congr hp harb hrfe
  raise c hk hp := routineHeld_raiseClaim c (by obtain e | e := hk <;> simp [e]) (fun _ => by obtain e | e := hk <;> simp [e]) hp
  withdraw _ hp := routineHeld_of_sublist hp List.filter_sublist (fun op hop => ⟨op, hop, rfl⟩) rfl id
  circuit c hs hc hp := routineHeld_of_sublist hp (.refl _)
    (fun op hop => by rw [State.inFlight_of_noOperation hc] at hop; cases hop) rfl id
  grant _ _ hc _ hp := routineHeld_grant hc hp
  advance _ hp := hp
  completed _ hp := routineHeld_completed hp
  burst row j hp := routineHeld_congr hp (by simp) (by simp)
  warmedUp {s start} hcirc hp := by
    obtain ⟨hcount, hhead, -, hhosted⟩ := hp
    obtain ⟨hpending, -⟩ := routineHeld_head_iff.1 hhead
    have hscrub : ∀ c ∈ s.rfe.scrubList.map fun r => (⟨.scrub, r, .rowTable, .scrub⟩ : Claim), c.cls = .scrub := by
      simp
    have hfilter : (s.rfe.scrubList.map fun r => (⟨.scrub, r, .rowTable, .scrub⟩ : Claim)).filter
        (fun c => c.cls == .routine) = [] := by
      rw [List.filter_eq_nil_iff]
      exact fun c hc => by simp [hscrub c hc]
    refine ⟨by simpa [List.filter_append, hfilter] using hcount,
      routineHeld_head_iff.2 ⟨fun c hc hk => ?_, fun op hop => (by cases hop)⟩, fun op hop => (by cases hop),
      fun hm c hc => ?_⟩
    · obtain hc | hc := List.mem_append.1 hc
      · exact hpending c hc hk
      · simp [hscrub c hc] at hk
    · obtain hc | hc := List.mem_append.1 hc
      · exact hhosted hm c hc
      · simp [hscrub c hc]
  routine hp := routineHeld_checkRoutine hp
  crossed _ hp := routineHeld_congr hp rfl rfl
  noRoutine _ hp := routineHeld_of_sublist hp List.filter_sublist (fun op hop => ⟨op, hop, rfl⟩) rfl id
  urgent {s} row hmode hp := by
    unfold State.raiseUrgent
    split
    · exact hp
    · exact routineHeld_raiseClaim _ (by simp) (fun hm => by rw [hmode] at hm; cases hm) hp
  lost {s row} _ _ hp := routineHeld_raiseClaim _ (by simp) (fun _ => by simp)
    (routineHeld_of_sublist (s := s) hp (.refl _) (fun op hop => ⟨op, hop, rfl⟩) rfl id)
  auto hp := routineHeld_of_sublist hp (.refl _) (fun op hop => ⟨op, hop, rfl⟩) rfl (fun hm => by cases hm)
  hosted {s} hp := by
    obtain ⟨hcount, hhead, hsingle, hhosted⟩ := routineHeld_of_sublist
      (t := s.withdraw fun c => c.cls == .routine || c.cls == .urgent) hp List.filter_sublist
      (fun op hop => ⟨op, hop, rfl⟩) rfl id
    refine ⟨hcount, hhead, hsingle, fun _ c hc => ?_⟩
    simpa using (List.mem_filter.1 hc).2
  noHost hp := routineHeld_of_sublist hp List.filter_sublist (fun op hop => ⟨op, hop, rfl⟩) rfl id
  abandoned {s} hp := routineHeld_of_sublist hp (.refl _) (fun op hop => by
    rw [State.inFlight_abandoned, Option.map_eq_some_iff] at hop
    obtain ⟨op', hop', rfl⟩ := hop
    exact ⟨op', hop', rfl⟩) rfl id
  powerOn _ _ := routineHeld_of_noClaims rfl rfl

end Routine

/-- Settles O57: a completion of the head takes its claim with it, so the head's claim stays the head's. -/
theorem routineStaysSingle : Obligations.RoutineStaysSingle := fun _ _ _ hp hstep =>
  rowLaw_routineHeld.step_keeps hp hstep

end Sys2Proof.Machine
end

section
/-! PROOF. What every completion leaves in the row table, the order list, the claims and the cells, whatever its claimant
and the arbiter then do. -/

namespace Sys2Proof.Machine

/-! ## The row table, the refresh engine and its claims after a completion -/

/-- The LOST flag an operation leaves its row (R6, R7, R12). -/
def Operation.lostAfter (op : Operation) (lost : Bool) : Bool :=
  match op.claim.kind with
  | .fill _ mask => lostAfterWrite mask lost
  | .commit => lostAfterWrite op.sections lost
  | .copyCommit range => lostAfterCopy range op.sourceLost lost
  | _ => lost

theorem State.written_row (s : State) {op : Operation} (hw : op.claim.wellPlaced = true)
    (hrow : op.claim.row < s.rat.table.length) :
    (s.written op).row op.claim.row = { s.row op.claim.row with
      lost := op.lostAfter (s.row op.claim.row).lost
      scrubPending := if op.claim.kind = .scrub then false else (s.row op.claim.row).scrubPending } := by
  cases hk : op.claim.kind
  case commit =>
    obtain ⟨r, -, hcl, -⟩ := op.claim.register_of_wellPlaced hw (.inr hk)
    rw [s.written_commit hk hcl, State.writtenSections_row, State.row_updateRow _ _ _ _ hrow]
    simp [Operation.lostAfter, hk]
  case fill =>
    rw [s.written_fill hk, State.writtenSections_row, State.row_updateRow _ _ _ _ hrow]
    simp [Operation.lostAfter, hk]
  case copyCommit =>
    rw [s.written_copyCommit hk, State.writtenSections_row, State.row_updateRow _ _ _ _ hrow]
    simp [Operation.lostAfter, hk]
  case scrub =>
    rw [s.written_row_scrub hk, State.row_updateRow _ _ _ _ hrow]
    simp [Operation.lostAfter, hk]
  case load => rw [s.written_load hk]; simp [Operation.lostAfter, hk]
  case copyLoad => rw [s.written_copyLoad hk]; simp [Operation.lostAfter, hk]
  case refresh => rw [s.written_refresh hk]; simp [Operation.lostAfter, hk]
  case openRow => rw [s.written_openRow hk]; simp [Operation.lostAfter, hk]

/-- No other row's entry changes. -/
theorem State.updateRow_row_ne (s : State) {row q : Nat} (f : RowEntry → RowEntry) (hq : q ≠ row) :
    (s.updateRow row f).row q = s.row q :=
  (s.updateRow_proj_eq id row q f).trans (if_neg fun h => hq h.1)

theorem State.written_row_ne (s : State) (op : Operation) {q : Nat} (hq : q ≠ op.claim.row) :
    (s.written op).row q = s.row q := by
  cases hk : op.claim.kind
  case commit =>
    cases hcl : op.claim.claimant
    case register => rw [s.written_commit hk hcl, State.writtenSections_row, s.updateRow_row_ne _ hq]
    all_goals rw [State.written, hk, hcl]
  case fill => rw [s.written_fill hk, State.writtenSections_row, s.updateRow_row_ne _ hq]
  case copyCommit => rw [s.written_copyCommit hk, State.writtenSections_row, s.updateRow_row_ne _ hq]
  case scrub => rw [s.written_row_scrub hk, s.updateRow_row_ne _ hq]
  all_goals rw [State.written, hk]

theorem State.completed_row (s : State) {op : Operation} (hw : op.claim.wellPlaced = true)
    (hrow : op.claim.row < s.rat.table.length) :
    (s.completed op).row op.claim.row =
      { lost := op.lostAfter (s.row op.claim.row).lost
        scrubPending := if op.claim.kind = .scrub then false else (s.row op.claim.row).scrubPending
        completedAt := s.clock
        crossed := false } := by
  have hlen : op.claim.row < (s.written op).rat.table.length := by simpa using hrow
  rw [State.completed, State.rowCompleted_row _ hlen, if_pos rfl, s.written_row hw hrow]
  simp

theorem State.completed_row_ne (s : State) (op : Operation) {q : Nat} (hq : q ≠ op.claim.row) :
    (s.completed op).row q = s.row q := by
  rw [State.completed, State.row_congr (State.rowCompleted_table _ _), State.updateRow_row_ne _ _ hq,
    s.written_row_ne op hq]

/-- The completed row is 0 ns old, so R23's check does not claim for it: none of the refresh engine's claims on it is
left (R25). -/
theorem State.completed_noRefresh (s : State) {op : Operation} (hrow : op.claim.row < s.rat.table.length) :
    (s.completed op).holdsClaim (fun c => c.isRefreshOf op.claim.row) = false := by
  obtain ⟨t, hclaims, hcirc, hrfe, e⟩ := s.completed_claims op
  have hnone : t.holdsClaim (fun c => c.isRefreshOf op.claim.row) = false := by
    rw [State.holdsClaim, State.inFlight_of_noOperation (by rw [hcirc]; rfl), hclaims]
    simp
  obtain e' | ⟨head, rest, -, -, -, hage, -, -, -, e'⟩ := t.checkRoutine_cases
  · rw [e, e', hnone]
  · have hrat : t.rat = (s.completed op).rat := by rw [e]; simp
    have hclock : t.clock = s.clock := by rw [← s.completed_clock op, e]; simp
    have hne : head ≠ op.claim.row := by
      rintro rfl
      rw [State.age, State.row_congr hrat, s.completed_completedAt, if_pos ⟨rfl, hrow⟩, hclock, Nat.sub_self] at hage
      exact absurd hage (by decide)
    rw [e, e', State.holdsClaim_raiseClaim, hnone]
    simpa [Claim.isRefreshOf] using hne

/-- What the row table, the order list and the refresh engine's claims on a row are. -/
def State.tableIs (entries : Nat → RowEntry) (order : List Nat) (row clock : Nat) (s : State) : Prop :=
  (∀ q, s.row q = entries q) ∧ s.rfe.order = order ∧ s.clock = clock
    ∧ s.holdsClaim (fun c => c.isRefreshOf row) = false

theorem Claim.isRefreshOf_of_cls {c : Claim} {row : Nat} (h : c.cls = .stream ∨ c.cls = .host) :
    c.isRefreshOf row = false := by
  obtain h | h := h <;> simp [Claim.isRefreshOf, h]

/-- The engines and the arbiter change none of these at a completion. -/
theorem arbClosed_tableIs (entries : Nat → RowEntry) (order : List Nat) (row clock : Nat) :
    ArbClosed (State.tableIs entries order row clock) where
  congr hp _ htable hrfe harb hclock := by
    obtain ⟨hrow, horder, hc, hclaims⟩ := hp
    exact ⟨fun q => by rw [State.row, htable]; exact hrow q, by rw [hrfe, horder], by rw [hclock, hc],
      by rw [State.holdsClaim_congr harb, hclaims]⟩
  raise c hc hp := by
    obtain ⟨hrow, horder, hclock, hclaims⟩ := hp
    exact ⟨hrow, horder, hclock, by
      rw [State.holdsClaim_raiseClaim, hclaims, Claim.isRefreshOf_of_cls hc, Bool.or_self]⟩
  withdraw {s} r hp := by
    obtain ⟨hrow, horder, hclock, hclaims⟩ := hp
    refine ⟨hrow, horder, hclock, Bool.eq_false_iff.2 fun h => Bool.eq_false_iff.1 hclaims ?_⟩
    rw [State.holdsClaim_iff] at h ⊢
    exact h.imp_left fun ⟨c, hc, hcr⟩ => ⟨c, List.mem_of_mem_filter hc, hcr⟩
  circuit c hs hc hp := by
    obtain ⟨hrow, horder, hclock, hclaims⟩ := hp
    exact ⟨hrow, horder, hclock, by rw [State.holdsClaim_setCircuit c hs hc, hclaims]⟩
  grant c hf hc _ hp := by
    obtain ⟨hrow, horder, hclock, hclaims⟩ := hp
    exact ⟨by simpa using hrow, by simpa using horder, by simpa using hclock, by
      rw [State.holdsClaim_grant hf hc, hclaims]⟩

/-! ## A completion's command -/

theorem ClaimKind.completion_wellFormed (k : ClaimKind) (dt : Nat) (tie : TieOrder) :
    (k.completion dt tie).wellFormed = true ∧ (k.completion dt tie).elapsed = dt := by
  cases k <;> exact ⟨rfl, rfl⟩

/-- What holds of the completed row, and the engines and the arbiter keep, holds after the completion's command. -/
theorem ArbClosed.completes {P : State → Prop} (h : ArbClosed P) {s : State} {op : Operation} {dt : Nat} (tie : TieOrder)
    (hdue : s.due dt op) (hw : op.claim.wellPlaced = true) (hp : P ((s.advance dt).completed op)) :
    Completes (op.claim.kind.completion dt tie) s P := by
  obtain ⟨hwf, helapsed⟩ := op.claim.kind.completion_wellFormed dt tie
  refine ⟨_, exec_of_wellFormed s hwf, ?_⟩
  rw [helapsed]
  exact h.completion tie (s.completing_of_due hdue) dt hw hp

/-- Settles O7: the completion's own part makes these changes, and the engines and the arbiter keep them. -/
theorem completionUpdatesRowTable : Obligations.CompletionUpdatesRowTable := by
  intro s op dt tie hdue hw hlen hrow horder
  have hlen' : op.claim.row < (s.advance dt).rat.table.length := by
    show op.claim.row < s.rat.table.length
    omega
  obtain ⟨t, ht, htable, htorder, htclock, htclaims⟩ :=
    (arbClosed_tableIs (((s.advance dt).completed op).row) ((s.advance dt).completed op).rfe.order op.claim.row
      ((s.advance dt).completed op).clock).completes tie hdue hw ⟨fun _ => rfl, rfl, rfl, State.completed_noRefresh _ hlen'⟩
  refine ⟨t, ht, ?_, fun q hq => ?_, ?_, htclaims⟩
  · rw [htable, State.completed_row _ hw hlen', htclock, State.completed_clock]
    cases hk : op.claim.kind <;> simp only [Operation.lostAfter, hk] <;> rfl
  · rw [htable, State.completed_row_ne _ _ hq]
    rfl
  · rw [htorder, State.completed_order, toTail_of_mem (show op.claim.row ∈ (s.advance dt).rfe.order from horder)]
    rfl

/-! ## The cells after a completion -/

/-- The engines and the arbiter leave the cells at a completion. -/
theorem arbClosed_memory (m : Memory) : ArbClosed fun s => s.rat.memory = m where
  congr hp hm _ _ _ _ := hm.trans hp
  raise _ _ hp := hp
  withdraw _ hp := hp
  circuit _ _ _ hp := hp
  grant c _ _ _ hp := by simpa using hp

/-- The cells of the written sections of one row, after a write of sections. -/
theorem State.writtenSections_read (s : State) {row r c : Nat} (mask : SectionSet) (value : Nat → CellVal)
    (f : RowEntry → RowEntry) (h : row < 512) (hc : c < 256) :
    (s.writtenSections row mask value f).rat.memory.read r c =
      if r = row ∧ coversColumn mask c = true then value c else s.rat.memory.read r c :=
  s.writeSections_read mask value h hc

theorem coversColumn_allSections {c : Nat} (hc : c < 256) : coversColumn allSections c = true := by
  have hsection : c / 64 < 4 := by omega
  show (0xF : BitVec 4).getLsbD (c / 64) = true
  generalize c / 64 = i at hsection
  interval_cases i <;> rfl

/-- Settles O8: the operation's writes are of whole sections of its row. -/
theorem completionWritesItsSections : Obligations.CompletionWritesItsSections := by
  intro s op dt tie hdue hw hrow
  obtain ⟨t, ht, hm⟩ := (arbClosed_memory ((s.advance dt).completed op).rat.memory).completes tie hdue hw rfl
  refine ⟨t, ht, fun r c hc => ?_⟩
  rw [hm, State.completed, State.rowCompleted_memory]
  cases hk : op.claim.kind
  case commit =>
    obtain ⟨q, -, hcl, -⟩ := op.claim.register_of_wellPlaced hw (.inr hk)
    rw [State.written_commit _ hk hcl, State.writtenSections_read _ _ _ _ hrow hc, hcl, ite_and]
    rfl
  case fill =>
    rw [State.written_fill _ hk, State.writtenSections_read _ _ _ _ hrow hc, ite_and]
    rfl
  case copyCommit =>
    rw [State.written_copyCommit _ hk, State.writtenSections_read _ _ _ _ hrow hc, ite_and]
    rfl
  case scrub =>
    rw [State.written_scrub _ hk]
    refine (State.writtenSections_read (s.advance dt) allSections (fun _ => op.value)
      (fun e => { e with scrubPending := false }) hrow hc).trans ?_
    rw [ite_and, if_pos (coversColumn_allSections hc)]
    rfl
  all_goals rw [State.written, hk]; exact (ite_self _).symm

end Sys2Proof.Machine
end

section
/-! PROOF. The laws of the request queue, the outstanding tags and the outbound queue that every step keeps (R161, R162,
R182). -/

namespace Sys2Proof.Machine

/-- A law of the request queue, the outstanding tags and the outbound queue: what each act on them keeps. -/
structure QueueLaw (Q : List Request → List Byte → List Frame → Prop) : Prop where
  /-- A notice joins, while no loss marker is queued and fewer than 15 notices are (R182). -/
  notice : ∀ {q ts out} (x : Notice), out.any Frame.isMarker = false → (out.filter Frame.isNotice).length < 15 →
    Q q ts out → Q q ts (out ++ [.notice x])
  /-- The loss marker joins, while none is queued. -/
  marker : ∀ {q ts out}, out.any Frame.isMarker = false → Q q ts out → Q q ts (out ++ [.lossMarker 1 1])
  counted : ∀ {q ts out}, Q q ts out → Q q ts (out.map Frame.countDiscard)
  /-- The request in execution leaves the queue, and its reply joins (R163). -/
  answered : ∀ {r q ts out} st fl d, Q (r :: q) ts out → Q q ts (out ++ [.reply r.tag st fl d])
  fixed : ∀ {q ts f out}, Q q ts (f :: out) → Q q ts (f.fixed :: out)
  replySent : ∀ {q ts tag st fl d out}, Q q ts (.reply tag st fl d :: out) → Q q (ts.erase tag) out
  frameSent : ∀ {q ts f out}, f.replyTag = none → Q q ts (f :: out) → Q q ts out
  markerKept : ∀ {q ts c a out}, Q q ts (.lossMarker c a :: out) → Q q ts (.lossMarker a a :: out)
  /-- An accepted request joins the queue and its tag the set (R152). -/
  admitted : ∀ {q ts out} (req : Request), req.tag ∉ ts → ts.length < 8 → req.tag ≠ 0 → Q q ts out →
    Q (q ++ [req]) (ts ++ [req.tag]) out
  reset : ∀ {tag} st, tag ≠ 0 → Q [] [tag] [.reply tag st 0 []]
  init : Q [] [] []

/-- A request read from a frame has no tag 0 (R151). -/
theorem parseInbound_tag {bytes : List Byte} {req : Request} (h : parseInbound bytes = .ok req) : req.tag ≠ 0 := by
  unfold parseInbound at h
  simp only at h
  split at h
  · cases h
  split_ifs at h
  split at h
  · cases h
  split_ifs at h
  split at h
  · split_ifs at h with htag
    split at h
    · cases h
    · cases h
      exact htag
  · cases h

namespace QueueLaw

variable {Q : List Request → List Byte → List Frame → Prop} (h : QueueLaw Q)
include h

theorem report {s : State} (n : Notice) (hp : Q s.rqe.queue s.rqe.tags s.hlc.outq) :
    Q (s.report n).rqe.queue (s.report n).rqe.tags (s.report n).hlc.outq := by
  unfold State.report
  split_ifs with _ hmarker hcount
  · exact h.counted hp
  · exact h.notice n (by simpa using hmarker) hcount hp
  · exact h.marker (by simpa using hmarker) hp
  · exact hp

theorem finish {s : State} (st : Status) (fl : Byte) (d : List Byte) (hp : Q s.rqe.queue s.rqe.tags s.hlc.outq) :
    Q (s.finish st fl d).rqe.queue (s.finish st fl d).rqe.tags (s.finish st fl d).hlc.outq := by
  unfold State.finish
  split
  · exact hp
  · next r rest hq =>
    rw [hq] at hp
    exact h.answered st fl d hp

/-- Every command but those of the supply and of the link keeps it. -/
theorem linkClosed : LinkClosed fun s => Q s.rqe.queue s.rqe.tags s.hlc.outq where
  congr _ _ hq ht hh hp := by rwa [hq, ht, hh]
  report _ n hp := h.report n hp
  finish _ st fl d hp := h.finish st fl d hp

theorem hcsFall {s : State} (hp : Q s.rqe.queue s.rqe.tags s.hlc.outq) :
    Q (hcsFall s).rqe.queue (hcsFall s).rqe.tags (hcsFall s).hlc.outq := by
  unfold Machine.hcsFall
  split
  · cases hout : s.hlc.outq <;> rw [hout] at hp
    · exact hp
    · exact h.fixed hp
  · exact hp

theorem removeSent {s : State} (x : Transaction) (n : Nat) (hp : Q s.rqe.queue s.rqe.tags s.hlc.outq) :
    Q (s.removeSent x n).rqe.queue (s.removeSent x n).rqe.tags (s.removeSent x n).hlc.outq := by
  unfold State.removeSent
  split
  · split
    · exact hp
    · next hout => exact h.replySent (hout ▸ hp)
    · next hout => exact h.frameSent rfl (hout ▸ hp)
    · next hout =>
      split
      · exact h.frameSent rfl (hout ▸ hp)
      · exact h.markerKept (hout ▸ hp)
  · exact hp

theorem resetRequest {s : State} {req : Request} (htag : req.tag ≠ 0) :
    Q (s.resetRequest req).rqe.queue (s.resetRequest req).rqe.tags (s.resetRequest req).hlc.outq :=
  h.linkClosed.setMode_keeps _ .auto (h.reset _ htag)

theorem admitFrame {s : State} (bytes : List Byte) (hp : Q s.rqe.queue s.rqe.tags s.hlc.outq) :
    Q (s.admitFrame bytes).rqe.queue (s.admitFrame bytes).rqe.tags (s.admitFrame bytes).hlc.outq := by
  unfold State.admitFrame
  split
  · exact hp
  · next req hreq =>
    split_ifs with hacc hreset
    · exact h.resetRequest (parseInbound_tag hreq)
    · simp only [State.admission, hreq] at hacc
      split_ifs at hacc with hdup hroom
      exact h.admitted req (by simpa using hdup) (hroom.resolve_right hreset) (parseInbound_tag hreq) hp
    · exact hp

theorem transactionEnd {s : State} (bits : List Bool) (hp : Q s.rqe.queue s.rqe.tags s.hlc.outq) :
    Q (transactionEnd bits s).rqe.queue (transactionEnd bits s).rqe.tags (transactionEnd bits s).hlc.outq := by
  unfold Machine.transactionEnd
  split
  · split
    · exact h.linkClosed.settle_keeps _ (h.admitFrame _ (h.removeSent _ _ hp))
    · exact hp
  · exact hp

/-- The law holds after every command. -/
theorem exec_keeps {i : Instr} {s t : State} (hx : exec i s = .next t) (hp : Q s.rqe.queue s.rqe.tags s.hlc.outq) :
    Q t.rqe.queue t.rqe.tags t.hlc.outq := by
  obtain ⟨-, e⟩ := exec_next s hx
  cases i
  case powerOn => rw [e]; exact h.init
  case powerLoss => rw [e]; exact h.init
  case hrstAssert =>
    rw [e, Instr.run, hrstAssert]
    split_ifs
    · exact hp
    · exact h.init
    · exact hp
  case hrstDeassert =>
    rw [e, Instr.run, hrstDeassert]
    split_ifs
    · exact h.init
    · exact hp
    · exact hp
  case hcsFall dt => rw [e]; exact h.hcsFall (s := s.advance dt) hp
  case transactionEnd dt bits => rw [e]; exact h.transactionEnd (s := s.advance dt) bits hp
  all_goals exact h.linkClosed.exec_keeps s rfl (fun _ => by simp) (fun _ _ => by simp) hx hp

/-- The law holds after every step. -/
theorem step_keeps {s t : State} (hp : Q s.rqe.queue s.rqe.tags s.hlc.outq) (hstep : step s = .next t) :
    Q t.rqe.queue t.rqe.tags t.hlc.outq := by
  unfold step at hstep
  split at hstep
  · cases hstep
    exact hp
  · exact h.exec_keeps hstep hp

end QueueLaw

/-! ## The notices queued (R182) -/

theorem Frame.countDiscard_isMarker (f : Frame) : f.countDiscard.isMarker = f.isMarker := by
  cases f <;> rfl

theorem Frame.countDiscard_isNotice (f : Frame) : f.countDiscard.isNotice = f.isNotice := by
  cases f <;> rfl

theorem Frame.countDiscard_replyTag (f : Frame) : f.countDiscard.replyTag = f.replyTag := by
  cases f <;> rfl

/-- At most 15 notices and one loss marker. -/
def quotaKept (out : List Frame) : Prop :=
  (out.filter Frame.isNotice).length ≤ 15 ∧ (out.filter Frame.isMarker).length ≤ 1

theorem quotaKept_of_sublist {out out' : List Frame} (hsub : out'.Sublist out) (h : quotaKept out) : quotaKept out' :=
  ⟨(hsub.filter _).length_le.trans h.1, (hsub.filter _).length_le.trans h.2⟩

theorem queueLaw_quota : QueueLaw fun _ _ out => quotaKept out where
  notice x hmarker hcount hp := by
    obtain ⟨-, hmarkers⟩ := hp
    rw [quotaKept, List.filter_append, List.filter_append, List.length_append, List.length_append]
    exact ⟨hcount, hmarkers⟩
  marker {q ts out} hmarker hp := by
    have hnone : out.filter Frame.isMarker = [] := by simpa [List.filter_eq_nil_iff] using hmarker
    rw [quotaKept, List.filter_append, List.filter_append, List.length_append, List.length_append, hnone]
    exact ⟨hp.1, Nat.le_refl 1⟩
  counted hp := by
    obtain ⟨hnotices, hmarkers⟩ := hp
    refine ⟨?_, ?_⟩
    · rwa [List.filter_map, List.length_map, show Frame.isNotice ∘ Frame.countDiscard = Frame.isNotice from
        funext Frame.countDiscard_isNotice]
    · rwa [List.filter_map, List.length_map, show Frame.isMarker ∘ Frame.countDiscard = Frame.isMarker from
        funext Frame.countDiscard_isMarker]
  answered st fl d hp := by
    rw [quotaKept, List.filter_append, List.filter_append, List.length_append, List.length_append]
    exact hp
  fixed {q ts f out} hp := by
    cases f <;> exact hp
  replySent hp := quotaKept_of_sublist (List.sublist_cons_self _ _) hp
  frameSent _ hp := quotaKept_of_sublist (List.sublist_cons_self _ _) hp
  markerKept hp := hp
  admitted _ _ _ _ hp := hp
  reset st _ := by simp [quotaKept, Frame.isNotice, Frame.isMarker]
  init := ⟨Nat.zero_le _, Nat.zero_le _⟩

/-- Settles O53: a notice joins below the quota only, and a loss marker where none is queued. -/
theorem noticesStayInQuota : Obligations.NoticesStayInQuota := fun _ _ hp hstep =>
  queueLaw_quota.step_keeps hp hstep

/-! ## The outstanding tags (R161, R162) -/

/-- The tags are those of the requests and replies queued, each once, at most 8, none 0. -/
def tagsKept (q : List Request) (ts : List Byte) (out : List Frame) : Prop :=
  ts.Perm (q.map Request.tag ++ out.filterMap Frame.replyTag) ∧ ts.Nodup ∧ ts.length ≤ 8 ∧ (0 : Byte) ∉ ts

/-- Frames that carry the same tags. -/
theorem tagsKept_congr {q : List Request} {ts : List Byte} {out out' : List Frame}
    (h : out'.filterMap Frame.replyTag = out.filterMap Frame.replyTag) (hp : tagsKept q ts out) : tagsKept q ts out' := by
  rwa [tagsKept, h]

theorem queueLaw_tags : QueueLaw tagsKept where
  notice x _ _ hp := tagsKept_congr (by simp [List.filterMap_append, Frame.replyTag]) hp
  marker _ hp := tagsKept_congr (by simp [List.filterMap_append, Frame.replyTag]) hp
  counted hp := tagsKept_congr (by
    rw [List.filterMap_map]
    exact congrArg (List.filterMap · _) (funext Frame.countDiscard_replyTag)) hp
  answered {r q ts out} st fl d hp := by
    obtain ⟨hperm, hrest⟩ := hp
    refine ⟨hperm.trans ?_, hrest⟩
    have happ : (out ++ [Frame.reply r.tag st fl d]).filterMap Frame.replyTag =
        out.filterMap Frame.replyTag ++ [r.tag] := List.filterMap_append
    rw [happ, ← List.append_assoc, List.map_cons]
    exact (List.perm_append_singleton _ _).symm
  fixed {q ts f out} hp := by
    cases f <;> exact hp
  replySent {q ts tag st fl d out} hp := by
    obtain ⟨hperm, hnodup, hlen, hzero⟩ := hp
    refine ⟨?_, hnodup.erase _, (List.length_erase_le).trans hlen, fun h0 => hzero (List.mem_of_mem_erase h0)⟩
    have hcons : (Frame.reply tag st fl d :: out).filterMap Frame.replyTag = tag :: out.filterMap Frame.replyTag := rfl
    rw [hcons] at hperm
    exact ((hperm.trans List.perm_middle).erase tag).trans (by rw [List.erase_cons_head])
  frameSent hnone hp := tagsKept_congr (by rw [List.filterMap_cons_none hnone]) hp
  markerKept hp := hp
  admitted {q ts out} req hnew hroom htag hp := by
    obtain ⟨hperm, hnodup, -, hzero⟩ := hp
    refine ⟨?_, hnodup.append (List.nodup_singleton _) (by simpa using hnew), by simp; omega, ?_⟩
    · rw [List.map_append, List.append_assoc]
      exact (hperm.append_right _).trans (by
        rw [List.append_assoc]
        exact List.Perm.append_left _ List.perm_append_comm)
    · rw [List.mem_append, List.mem_singleton]
      exact fun h0 => h0.elim hzero fun e => htag e.symm
  reset st htag := ⟨.refl _, by simp, by simp, by simpa using htag.symm⟩
  init := ⟨.refl _, .nil, Nat.zero_le _, by simp⟩

/-- Settles O54: a reply takes the tag of the request it ends, and its removal takes the tag out of the set. -/
theorem tagsStayOutstanding : Obligations.TagsStayOutstanding := fun _ _ hp hstep =>
  queueLaw_tags.step_keeps hp hstep

end Sys2Proof.Machine
end

section
/-! PROOF. The cases of each completion, on the row already completed (State.completed): what is left is the claimant's
part and the arbiter's. -/

namespace Sys2Proof.Machine

@[simp] theorem State.completed_frame (s : State) (op : Operation) :
    (s.completed op).pending = s.pending ∧ (s.completed op).clock = s.clock ∧ (s.completed op).powered = s.powered
      ∧ (s.completed op).hrst = s.hrst ∧ (s.completed op).lrb = s.lrb ∧ (s.completed op).ste = s.ste
      ∧ (s.completed op).sst = s.sst ∧ (s.completed op).rqe = s.rqe ∧ (s.completed op).hlc = s.hlc
      ∧ (s.completed op).ntu = s.ntu ∧ (s.completed op).live = s.live ∧ (∀ r, (s.completed op).lr r = s.lr r)
      ∧ (∀ n, (s.completed op).str n = s.str n) ∧ (∀ k, (s.completed op).slot k = s.slot k) := by
  simp [State.completed, State.lr, State.str, State.slot, State.live]

section

variable {s : State} {op : Operation} (tie : TieOrder) (hc : s.completing = some op)
include hc

section Load

variable {r : LrId} {n : StreamId} (hk : op.claim.kind = .load) (hcl : op.claim.claimant = .register r)
  (hr : streamOf r = some n)
include hk hcl hr

theorem loadCompletion_discarded (hd : (s.lr r).discardPending = some .load) :
    loadCompletion tie s = ((s.completed op).regDiscarded n r).conclude tie := by
  simp only [loadCompletion, hc, hk, hcl, hr, hd, if_true, State.completed, s.written_load hk]

theorem loadCompletion_loaded {g : Segment} (hd : (s.lr r).discardPending ≠ some .load)
    (hg : (s.lr r).segment = some g) :
    loadCompletion tie s = ((((s.completed op).mapLr r fun x =>
      x.loadedWith (s.rowCells op.claim.row) (s.row op.claim.row).lost s.clock).playLoaded n r g
        (s.lr r).reloading).conclude tie) := by
  simp only [loadCompletion, hc, hk, hcl, hr, if_neg hd, hg, State.completed, s.written_load hk]

theorem loadCompletion_unheld (hd : (s.lr r).discardPending ≠ some .load) (hg : (s.lr r).segment = none) :
    loadCompletion tie s = (s.completed op).settle := by
  simp only [loadCompletion, hc, hk, hcl, hr, if_neg hd, hg, State.completed, s.written_load hk]

end Load

section Commit

variable {r : LrId} {n : StreamId} (hk : op.claim.kind = .commit) (hcl : op.claim.claimant = .register r)
  (hr : streamOf r = some n)
include hk hcl hr

theorem commitCompletion_discarded (hd : (s.lr r).discardPending = some .commit) :
    commitCompletion tie s = ((s.completed op).regDiscarded n r).conclude tie := by
  rw [State.completed, s.written_commit hk hcl]
  simp only [commitCompletion, hc, hk, hcl, hr, hd, if_true]
  rfl

theorem commitCompletion_committed {g : Segment} (hd : (s.lr r).discardPending ≠ some .commit)
    (hg : (s.lr r).segment = some g) :
    commitCompletion tie s = ((s.completed op).capCommitted n r (s.lr r) g).conclude tie := by
  rw [State.completed, s.written_commit hk hcl]
  simp only [commitCompletion, hc, hk, hcl, hr, if_neg hd, hg]
  rfl

theorem commitCompletion_unheld (hd : (s.lr r).discardPending ≠ some .commit) (hg : (s.lr r).segment = none) :
    commitCompletion tie s = (s.completed op).settle := by
  rw [State.completed, s.written_commit hk hcl]
  simp only [commitCompletion, hc, hk, hcl, hr, if_neg hd, hg]
  rfl

end Commit

section CopyLoad

variable (hk : op.claim.kind = .copyLoad)
include hk

theorem copyLoadCompletion_discarded (hd : s.lrb.lr4.discardPending = some .copyLoad) :
    copyLoadCompletion s = (s.completed op).lr4Discarded.settle := by
  simp only [copyLoadCompletion, hc, hk, hd, if_true, State.completed, s.written_copyLoad hk]

theorem copyLoadCompletion_loaded {job : CopyJob} (hd : s.lrb.lr4.discardPending ≠ some .copyLoad)
    (hj : s.lrb.lr4.copy = some job) :
    copyLoadCompletion s = (((s.completed op).setLr .lr4
      (s.lrb.lr4.loadedWith (s.rowCells op.claim.row) (s.row op.claim.row).lost s.clock)).raiseClaim
        ⟨.copyCommit (rangeSections job.first job.count), job.dest, .requestEngine, .host⟩).settle := by
  simp only [copyLoadCompletion, hc, hk, if_neg hd, hj, State.completed, s.written_copyLoad hk]

theorem copyLoadCompletion_unheld (hd : s.lrb.lr4.discardPending ≠ some .copyLoad) (hj : s.lrb.lr4.copy = none) :
    copyLoadCompletion s = (s.completed op).settle := by
  simp only [copyLoadCompletion, hc, hk, if_neg hd, hj, State.completed, s.written_copyLoad hk]

end CopyLoad

section CopyCommit

variable {sections : SectionSet} (hk : op.claim.kind = .copyCommit sections)
include hk

theorem copyCommitCompletion_discarded (hd : s.lrb.lr4.discardPending = some .copyCommit) :
    copyCommitCompletion tie s = (s.completed op).lr4Discarded.settle := by
  rw [State.completed, s.written_copyCommit hk]
  simp only [copyCommitCompletion, hc, hk, hd, if_true]
  rfl

theorem copyCommitCompletion_copied (hd : s.lrb.lr4.discardPending ≠ some .copyCommit) :
    copyCommitCompletion tie s = (((s.completed op).setLr .lr4 (s.lrb.lr4.cleared none)).finish .ok
      (replyFlags false op.sourceLost) []).conclude tie := by
  rw [State.completed, s.written_copyCommit hk]
  simp only [copyCommitCompletion, hc, hk, if_neg hd]
  rfl

end CopyCommit

section Fill

variable {value : CellVal} {mask : SectionSet} (hk : op.claim.kind = .fill value mask)
include hk

theorem fillCompletion_discarded (hd : op.discarded = true) : fillCompletion tie s = (s.completed op).settle := by
  rw [State.completed, s.written_fill hk]
  simp only [fillCompletion, hc, hk, hd, if_true]
  rfl

theorem fillCompletion_next {first last current : Nat} {v : CellVal} {m : SectionSet} (hd : op.discarded = false)
    (hp : s.rqe.phase = .filling first last current v m) (hrow : current < last) :
    fillCompletion tie s = (((s.completed op).raiseClaim ⟨.fill v m, current + 1, .requestEngine, .host⟩).setPhase
      (.filling first last (current + 1) v m)).settle := by
  rw [State.completed, s.written_fill hk]
  simp only [fillCompletion, hc, hk, hd, hp, if_pos hrow, Bool.false_eq_true, if_false]
  rfl

theorem fillCompletion_last {first last current : Nat} {v : CellVal} {m : SectionSet} (hd : op.discarded = false)
    (hp : s.rqe.phase = .filling first last current v m) (hrow : ¬ current < last) :
    fillCompletion tie s = ((s.completed op).finish .ok 0 (natBytes2 (last - first + 1))).conclude tie := by
  rw [State.completed, s.written_fill hk]
  simp only [fillCompletion, hc, hk, hd, hp, if_neg hrow, Bool.false_eq_true, if_false]
  rfl

theorem fillCompletion_unasked (hd : op.discarded = false)
    (hp : ∀ first last current v m, s.rqe.phase ≠ .filling first last current v m) :
    fillCompletion tie s = (s.completed op).settle := by
  rw [State.completed, s.written_fill hk]
  simp only [fillCompletion, hc, hk, hd, Bool.false_eq_true, if_false]
  rfl

end Fill

section Refresh

variable (hk : op.claim.kind = .refresh)
include hk

theorem refreshCompletion_next {first last current : Nat} (hh : op.claim.cls = .host) (hd : op.discarded = false)
    (hp : s.rqe.phase = .refreshing first last current) (hrow : current < last) :
    refreshCompletion tie s = (((s.completed op).raiseClaim ⟨.refresh, current + 1, .requestEngine, .host⟩).setPhase
      (.refreshing first last (current + 1))).settle := by
  simp only [refreshCompletion, hc, hk, if_pos (And.intro hh hd), hp, if_pos hrow, State.completed, s.written_refresh hk]

theorem refreshCompletion_last {first last current : Nat} (hh : op.claim.cls = .host) (hd : op.discarded = false)
    (hp : s.rqe.phase = .refreshing first last current) (hrow : ¬ current < last) :
    refreshCompletion tie s = ((s.completed op).finish .ok 0 (natBytes2 (last - first + 1))).conclude tie := by
  simp only [refreshCompletion, hc, hk, if_pos (And.intro hh hd), hp, if_neg hrow, State.completed, s.written_refresh hk]

/-- A refresh that is not the host's, or to be discarded, or of no REFRESH in execution. -/
theorem refreshCompletion_unasked (h : op.claim.cls = .host → op.discarded = false →
      ∀ first last current, s.rqe.phase ≠ .refreshing first last current) :
    refreshCompletion tie s = (s.completed op).settle := by
  rw [State.completed, s.written_refresh hk]
  simp only [refreshCompletion, hc, hk]
  split
  · next hh =>
    split
    · next hphase => exact absurd hphase (h hh.1 hh.2 _ _ _)
    · rfl
  · rfl

end Refresh

theorem scrubCompletion_scrubbed (hk : op.claim.kind = .scrub) :
    scrubCompletion s = ((s.completed op).initDone op.claim.row).settle := by
  rw [State.completed, s.written_scrub hk]
  simp only [scrubCompletion, hc, hk]
  rfl

section Open

variable (hk : op.claim.kind = .openRow)
include hk

theorem openCompletion_discarded (hd : op.discarded = true) : openCompletion tie s = (s.completed op).settle := by
  simp only [openCompletion, hc, hk, hd, if_true, State.completed, s.written_openRow hk]

theorem openCompletion_opened {k : SlotId} (hd : op.discarded = false) (hp : s.rqe.phase = .opening k) :
    openCompletion tie s = ((((((s.completed op).setCircuit (.held k op.claim.row)).openSession k).finish .ok 0
      [slotCode k, (s.slot k).generation]).restartIdle k).conclude tie) := by
  simp only [openCompletion, hc, hk, hd, hp, State.completed, s.written_openRow hk, Bool.false_eq_true, if_false]

theorem openCompletion_reopened {k : SlotId} {job : ColumnJob} (hd : op.discarded = false)
    (hp : s.rqe.phase = .reopening k job) :
    openCompletion tie s = ((s.completed op).openSession k).startBurst k op.claim.row job := by
  simp only [openCompletion, hc, hk, hd, hp, State.completed, s.written_openRow hk, Bool.false_eq_true, if_false]

theorem openCompletion_unasked (hd : op.discarded = false) (ho : ∀ k, s.rqe.phase ≠ .opening k)
    (hr : ∀ k job, s.rqe.phase ≠ .reopening k job) : openCompletion tie s = (s.completed op).settle := by
  simp only [openCompletion, hc, hk, hd, State.completed, s.written_openRow hk, Bool.false_eq_true, if_false]

end Open

end

end Sys2Proof.Machine
end

section
/-! PROOF. Sessions, circuit and request engine stay matched (R38, R72, R128, R132, R139, R161). -/

namespace Sys2Proof.Machine

/-! ## A change of settings leaves the circuit (R22, R27, R28) -/

section Settings

variable (s : State)

theorem State.toAuto_circuit : s.toAuto.arb.circuit = s.arb.circuit := by
  have hraise : ∀ (u : State) (r : Nat), (u.raiseUrgent r).arb.circuit = u.arb.circuit := fun u r => by
    unfold State.raiseUrgent
    split <;> rfl
  have hcheck : ∀ u : State, u.checkRoutine.arb.circuit = u.arb.circuit := fun u => by
    obtain e | ⟨_, _, -, -, -, -, -, -, -, e⟩ := u.checkRoutine_cases <;> simp [e]
  rw [State.toAuto, hcheck]
  exact State.foldl_keeps _ (fun u => u.arb.circuit) hraise _

theorem State.setMode_circuit (m : RefreshMode) : (s.setMode m).arb.circuit = s.arb.circuit := by
  unfold State.setMode
  split
  · rfl
  · cases m
    · exact s.toAuto_circuit
    · simp

theorem State.applySettings_circuit (m : Option RefreshMode) (v k : Option CellVal) :
    (s.applySettings m v k).arb.circuit = s.arb.circuit := by
  unfold State.applySettings
  cases m with
  | none => cases v <;> cases k <;> rfl
  | some m => cases v <;> cases k <;> exact State.setMode_circuit _ m

end Settings

section Matched

variable {s t : State}

/-! ## What the law reads -/

/-- The law reads the circuit, the slots, the request engine and LR4. -/
theorem matched_congr (h : s.sessionsMatchCircuit) (hcirc : t.arb.circuit = s.arb.circuit)
    (hslot : ∀ k, t.slot k = s.slot k) (hphase : t.rqe.phase = s.rqe.phase) (hqueue : t.rqe.queue = s.rqe.queue)
    (hlr4 : t.lrb.lr4 = s.lrb.lr4) : t.sessionsMatchCircuit := by
  obtain ⟨hserve, hopens, hhead, hburst, hcopy⟩ := h
  rw [State.sessionsMatchCircuit, hcirc, hphase, hqueue, hlr4]
  exact ⟨fun k => by rw [hslot]; exact hserve k, fun k hk => by rw [hslot]; exact hopens k hk, hhead, hburst, hcopy⟩

/-- Nothing of LR4 but the row and the copy it waits for matters. -/
theorem matched_setLr {r : LrId} {x : LineReg} (h : s.sessionsMatchCircuit)
    (hlr4 : r = .lr4 → x.copy.isSome = true ∨ x.state = .loaded → s.rqe.phase = .copying) :
    (s.setLr r x).sessionsMatchCircuit := by
  obtain ⟨hserve, hopens, hqueue, hburst, hcopy⟩ := h
  refine ⟨hserve, hopens, hqueue, hburst, fun hx => ?_⟩
  by_cases hr : r = .lr4
  · subst hr
    exact hlr4 rfl hx
  · have hkeep : (s.setLr r x).lrb.lr4 = s.lrb.lr4 := by
      have := s.lr_setLr r .lr4 x
      rw [if_neg (Ne.symm hr)] at this
      exact this
    exact hcopy (hkeep ▸ hx)

/-- A reply ends the request in execution, which has neither a burst nor a copy under way. -/
theorem matched_finish (st : Status) (fl : Byte) (d : List Byte) (h : s.sessionsMatchCircuit)
    (hburst : ∀ k row job start, s.arb.circuit ≠ .bursting (some k) row job start)
    (hcopy : ¬ (s.lrb.lr4.copy.isSome = true ∨ s.lrb.lr4.state = .loaded)) :
    (s.finish st fl d).sessionsMatchCircuit := by
  unfold State.finish
  split
  · exact h
  · obtain ⟨hserve, -⟩ := h
    exact ⟨hserve, fun k hk => (by cases hk), fun hne => absurd rfl hne,
      fun k row job start hc => absurd hc (hburst k row job start), fun hx => absurd hx hcopy⟩

/-- With the request engine in any phase but these two a reply may end the request. -/
theorem matched_finish_of_phase (st : Status) (fl : Byte) (d : List Byte) (h : s.sessionsMatchCircuit)
    (hb : s.rqe.phase ≠ .bursting) (hc : s.rqe.phase ≠ .copying) : (s.finish st fl d).sessionsMatchCircuit := by
  have ⟨_, _, _, hburst, hcopy⟩ := h
  exact matched_finish st fl d h (fun k row job start hcirc => hb (hburst k row job start hcirc)) fun hx => hc (hcopy hx)

/-- The circuit changes, and serves the session it served. -/
theorem matched_setCircuit (c : Circuit) (h : s.sessionsMatchCircuit)
    (hc : ∀ k, c.servesSession k = s.arb.circuit.servesSession k)
    (hb : ∀ k row job start, c = .bursting (some k) row job start → s.rqe.phase = .bursting) :
    (s.setCircuit c).sessionsMatchCircuit := by
  obtain ⟨hserve, hopens, hqueue, -, hcopy⟩ := h
  refine ⟨fun k => ?_, hopens, hqueue, hb, hcopy⟩
  rw [show (s.setCircuit c).arb.circuit.servesSession k = _ from hc k]
  exact hserve k

theorem State.finish_phase (st : Status) (fl : Byte) (d : List Byte) (h : s.rqe.queue ≠ []) :
    (s.finish st fl d).rqe.phase = .free := by
  obtain ⟨r, rest, hq⟩ := List.exists_cons_of_ne_nil h
  simp [State.finish, hq, State.enqueue]

theorem matched_setSlot {k : SlotId} {x : Session} (h : s.sessionsMatchCircuit)
    (hopen : (x.inUse = true ∧ x.state = .opened) ↔ (s.slot k).inUse = true ∧ (s.slot k).state = .opened)
    (hopens : s.rqe.phase.opensFor k = true → x.inUse = true ∧ x.idleTimer = none) :
    (s.setSlot k x).sessionsMatchCircuit := by
  obtain ⟨hserve, hopensFor, hqueue, hburst, hcopy⟩ := h
  refine ⟨fun q => ?_, fun q hq => ?_, hqueue, hburst, hcopy⟩
  · rw [State.slot_setSlot]
    split_ifs with hqk
    · subst hqk
      exact (hserve q).trans hopen.symm
    · exact hserve q
  · rw [State.slot_setSlot]
    split_ifs with hqk
    · subst hqk
      exact hopens hq
    · exact hopensFor q hq

/-- The request engine goes on to a phase that waits for no session and no copy, no burst or copy being under way. -/
theorem matched_setPhase (p : Phase) (h : s.sessionsMatchCircuit) (hqueue : s.rqe.queue ≠ [])
    (hopens : ∀ k, p.opensFor k = true → (s.slot k).inUse = true ∧ (s.slot k).idleTimer = none)
    (hb : s.rqe.phase ≠ .bursting) (hc : s.rqe.phase ≠ .copying) : (s.setPhase p).sessionsMatchCircuit := by
  obtain ⟨hserve, -, -, hburst, hcopy⟩ := h
  exact ⟨hserve, hopens, fun _ => hqueue, fun k row job start e => absurd (hburst k row job start e) hb,
    fun hx => absurd (hcopy hx) hc⟩

/-! ## The arbiter's acts -/

theorem matched_closeHeld (h : s.sessionsMatchCircuit) : s.closeHeld.sessionsMatchCircuit := by
  unfold State.closeHeld
  split
  · next k row hcirc =>
    obtain ⟨hserve, hopens, hqueue, -, hcopy⟩ := h
    have hslot : ∀ q, ((s.park k).setCircuit .free).slot q = if q = k then { s.slot k with state := .parked } else s.slot q :=
      fun q => s.slot_setSlot k q _
    refine ⟨fun q => ?_, fun q hq => ?_, hqueue, fun q row job start e => (by cases e), hcopy⟩
    · rw [hslot]
      split_ifs with hqk
      · exact ⟨fun hf => (by cases hf), fun hx => (by cases hx.2)⟩
      · rw [← hserve q, hcirc]
        exact ⟨fun hf => (by cases hf), fun hx => absurd (beq_iff_eq.1 hx).symm hqk⟩
    · rw [hslot]
      split_ifs with hqk
      · subst hqk
        exact hopens q hq
      · exact hopens q hq
  · exact h

theorem LineReg.granted_copy (x : LineReg) (k : ClaimKind) : (x.granted k).copy = x.copy := by
  rw [x.granted_spec k]

/-- A grant never makes a register LOADED. -/
theorem LineReg.granted_loaded {x : LineReg} {k : ClaimKind} (h : (x.granted k).state = .loaded) : x.state = .loaded := by
  unfold LineReg.granted at h
  split at h
  · cases h
  · cases h
  · cases h
  · exact h

theorem matched_grant {c : Claim} (hf : s.arb.circuit = .free) (h : s.sessionsMatchCircuit) :
    (s.grant c).sessionsMatchCircuit := by
  obtain ⟨hserve, hopens, hqueue, -, hcopy⟩ := h
  obtain ⟨hcirc, -, hlr⟩ := s.grant_spec c
  have hphase : (s.grant c).rqe = s.rqe := by simp
  refine ⟨fun k => ?_, fun k hk => ?_, by simpa using hqueue, fun k row job start e => ?_, fun hx => ?_⟩
  · have := hserve k
    rw [hf] at this
    simpa [hcirc, Circuit.servesSession] using this
  · simpa using hopens k (by simpa using hk)
  · rw [hcirc] at e
    cases e
  · rw [hphase]
    have hlr4 : (s.grant c).lrb.lr4 = if c.register? = some .lr4 then s.lrb.lr4.granted c.kind else s.lrb.lr4 := hlr .lr4
    rw [hlr4] at hx
    split_ifs at hx
    · exact hcopy (hx.imp (by rw [LineReg.granted_copy]; exact id) LineReg.granted_loaded)
    · exact hcopy hx

theorem matched_grantDecision (hf : s.arb.circuit = .free) (h : s.sessionsMatchCircuit) :
    s.grantDecision.sessionsMatchCircuit := by
  unfold State.grantDecision
  split
  · exact matched_grant hf h
  · exact h

theorem matched_settle (h : s.sessionsMatchCircuit) : s.settle.sessionsMatchCircuit := by
  unfold State.settle
  split
  · next hf => exact matched_grantDecision hf h
  · next hc =>
    split
    · exact matched_grantDecision (by rw [State.closeHeld_circuit, hc]) (matched_closeHeld h)
    · exact h
  · exact h

theorem matched_conclude (tie : TieOrder) (h : s.sessionsMatchCircuit) : (s.conclude tie).sessionsMatchCircuit := by
  obtain ⟨e, -⟩ | ⟨e, -⟩ | ⟨e, -⟩ := s.conclude_cases tie
  · exact e.symm ▸ h
  · exact e.symm ▸ matched_settle h
  · exact e.symm ▸ matched_settle (matched_closeHeld h)

theorem matched_begun (tie : TieOrder) (h : s.sessionsMatchCircuit) : (s.begun tie).sessionsMatchCircuit :=
  matched_conclude tie (matched_closeHeld h)

theorem matched_raiseClaim (c : Claim) (h : s.sessionsMatchCircuit) : (s.raiseClaim c).sessionsMatchCircuit :=
  matched_congr h rfl (fun _ => rfl) rfl rfl rfl

theorem matched_withdraw (p : Claim → Bool) (h : s.sessionsMatchCircuit) : (s.withdraw p).sessionsMatchCircuit :=
  matched_congr h rfl (fun _ => rfl) rfl rfl rfl

theorem matched_report (n : Notice) (h : s.sessionsMatchCircuit) : (s.report n).sessionsMatchCircuit :=
  matched_congr h (by simp) (by simp) (by simp) (by simp) (by simp)

theorem matched_completed {op : Operation} (hcirc : s.arb.circuit = .operating op) (h : s.sessionsMatchCircuit) :
    (s.completed op).sessionsMatchCircuit :=
  matched_congr (matched_setCircuit .free h (fun k => by rw [hcirc]; rfl) fun _ _ _ _ e => by cases e) (State.completed_circuit s op)
    (by simp) (by simp) (by simp) (by simp)

/-! ## The stream engines -/

theorem ne_lr4_of_streamOf {r : LrId} {n : StreamId} (h : streamOf r = some n) : r ≠ .lr4 := by
  rintro rfl
  cases h

/-- No act of a stream engine touches a session, LR4 or the circuit; the reply it may give is STREAM_STOP's. -/
theorem streamClosed_matched : StreamClosed State.sessionsMatchCircuit where
  setStr n x hp := matched_congr hp rfl (fun _ => rfl) rfl rfl rfl
  setLr x hr hp := matched_setLr hp fun e => absurd e (by rintro rfl; cases hr)
  report x hp := matched_report x hp
  finish hphase hp := matched_finish_of_phase _ _ _ hp (by rw [hphase]; simp) (by rw [hphase]; simp)
  raise _ _ _ hp := matched_raiseClaim _ hp
  withdraw _ hp := matched_withdraw _ hp

/-! ## Completions -/

theorem matched_startCopy (job : CopyJob) (h : s.sessionsMatchCircuit) (hqueue : s.rqe.queue ≠ [])
    (hb : s.rqe.phase ≠ .bursting) : (s.startCopy job).sessionsMatchCircuit := by
  obtain ⟨hserve, -, -, hburst, -⟩ := h
  exact ⟨hserve, fun k hk => (by cases hk), fun _ => hqueue, fun k row job start e => absurd (hburst k row job start e) hb,
    fun _ => rfl⟩

theorem matched_lr4Discarded (h : s.sessionsMatchCircuit) : s.lr4Discarded.sessionsMatchCircuit := by
  have hcopy := h.2.2.2.2
  have hkept : (s.setLr .lr4 { s.lrb.lr4 with discardPending := none }).sessionsMatchCircuit :=
    matched_setLr h fun _ hx => hcopy hx
  simp only [State.lr4Discarded]
  split
  · next job hphase =>
    have hphase' : s.rqe.phase = .copyWaiting job := by simpa using hphase
    exact matched_startCopy job hkept (by simpa using h.2.2.1 (by rw [hphase']; simp)) (by rw [hphase]; simp)
  · exact hkept

/-- The OPEN of a session in use, which no other is while the circuit serves none, makes it OPEN. -/
theorem matched_openSession {k : SlotId} {c : Circuit} {p : Phase} (h : s.sessionsMatchCircuit)
    (hnone : ∀ q, s.arb.circuit.servesSession q = false) (hopens : s.rqe.phase.opensFor k = true)
    (hserves : ∀ q, c.servesSession q = (k == q)) (hp : ∀ q, p.opensFor q = true → s.rqe.phase.opensFor q = true)
    (hphase : ∀ q row job start, c = .bursting (some q) row job start → p = .bursting) :
    (((s.setCircuit c).openSession k).setPhase p).sessionsMatchCircuit := by
  obtain ⟨hserve, hopensFor, hqueue, -, hcopy⟩ := h
  have hslot : ∀ q, (((s.setCircuit c).openSession k).setPhase p).slot q =
      if q = k then { s.slot k with state := .opened, holdStart := s.clock } else s.slot q := fun q =>
    State.slot_setSlot (s.setCircuit c) k q _
  have hcirc : (((s.setCircuit c).openSession k).setPhase p).arb.circuit = c := rfl
  have hnotFree : s.rqe.phase ≠ .free := fun e => by rw [e] at hopens; cases hopens
  have hnotCopying : s.rqe.phase ≠ .copying := fun e => by rw [e] at hopens; cases hopens
  refine ⟨fun q => ?_, fun q hq => ?_, fun _ => hqueue hnotFree, fun q row job start e => hphase q row job start e,
    fun hx => absurd (hcopy hx) hnotCopying⟩
  · rw [hslot, hcirc, hserves, beq_iff_eq]
    split_ifs with hqk
    · exact ⟨fun _ => ⟨(hopensFor k hopens).1, rfl⟩, fun _ => hqk.symm⟩
    · have hnot := hserve q
      rw [hnone q] at hnot
      rw [← hnot]
      exact ⟨fun e => absurd e.symm hqk, fun e => (by cases e)⟩
  · rw [hslot]
    split_ifs with hqk
    · exact hopensFor k hopens
    · exact hopensFor q (hp q hq)

section Completions

variable {op : Operation} (tie : TieOrder) (hc : s.completing = some op)
include hc

theorem matched_loadCompletion {r : LrId} {n : StreamId} (hk : op.claim.kind = .load)
    (hcl : op.claim.claimant = .register r) (hr : streamOf r = some n) (h : s.sessionsMatchCircuit) :
    (loadCompletion tie s).sessionsMatchCircuit := by
  have hdone := matched_completed (State.completing_spec hc).2.1 h
  by_cases hd : (s.lr r).discardPending = some .load
  · rw [loadCompletion_discarded tie hc hk hcl hr hd]
    exact matched_conclude tie (streamClosed_matched.regDiscarded hr hdone)
  · cases hg : (s.lr r).segment with
    | some g =>
      rw [loadCompletion_loaded tie hc hk hcl hr hd hg]
      exact matched_conclude tie (streamClosed_matched.playLoaded _ _
        (matched_setLr hdone fun e => absurd e (ne_lr4_of_streamOf hr)))
    | none =>
      rw [loadCompletion_unheld tie hc hk hcl hr hd hg]
      exact matched_settle hdone

theorem matched_commitCompletion {r : LrId} {n : StreamId} (hk : op.claim.kind = .commit)
    (hcl : op.claim.claimant = .register r) (hr : streamOf r = some n) (h : s.sessionsMatchCircuit) :
    (commitCompletion tie s).sessionsMatchCircuit := by
  have hdone := matched_completed (State.completing_spec hc).2.1 h
  by_cases hd : (s.lr r).discardPending = some .commit
  · rw [commitCompletion_discarded tie hc hk hcl hr hd]
    exact matched_conclude tie (streamClosed_matched.regDiscarded hr hdone)
  · cases hg : (s.lr r).segment with
    | some g =>
      rw [commitCompletion_committed tie hc hk hcl hr hd hg]
      exact matched_conclude tie (streamClosed_matched.capCommitted _ _ hr hdone)
    | none =>
      rw [commitCompletion_unheld tie hc hk hcl hr hd hg]
      exact matched_settle hdone

/-- LR4 holds a copy, so a COPY_ROW is in execution. -/
theorem matched_copyLoadCompletion (hk : op.claim.kind = .copyLoad) (h : s.sessionsMatchCircuit) :
    (copyLoadCompletion s).sessionsMatchCircuit := by
  have hdone := matched_completed (State.completing_spec hc).2.1 h
  have hcopy := h.2.2.2.2
  by_cases hd : s.lrb.lr4.discardPending = some .copyLoad
  · rw [copyLoadCompletion_discarded hc hk hd]
    exact matched_settle (matched_lr4Discarded hdone)
  · cases hj : s.lrb.lr4.copy with
    | some job =>
      rw [copyLoadCompletion_loaded hc hk hd hj]
      have hphase : s.rqe.phase = .copying := hcopy (.inl (by rw [hj]; rfl))
      exact matched_settle (matched_raiseClaim _ (matched_setLr hdone fun _ _ => by simpa using hphase))
    | none =>
      rw [copyLoadCompletion_unheld hc hk hd hj]
      exact matched_settle hdone

theorem matched_copyCommitCompletion {sections : SectionSet} (hk : op.claim.kind = .copyCommit sections)
    (h : s.sessionsMatchCircuit) : (copyCommitCompletion tie s).sessionsMatchCircuit := by
  have hdone := matched_completed (State.completing_spec hc).2.1 h
  by_cases hd : s.lrb.lr4.discardPending = some .copyCommit
  · rw [copyCommitCompletion_discarded tie hc hk hd]
    exact matched_settle (matched_lr4Discarded hdone)
  · rw [copyCommitCompletion_copied tie hc hk hd]
    have hempty : ((s.completed op).setLr .lr4 (s.lrb.lr4.cleared none)).lrb.lr4 = s.lrb.lr4.cleared none := rfl
    refine matched_conclude tie (matched_finish _ _ _ (matched_setLr hdone fun _ hx => ?_) (fun k row job start e => ?_) ?_)
    · simp [LineReg.cleared, LineReg.atInit] at hx
    · have hfree : ((s.completed op).setLr .lr4 (s.lrb.lr4.cleared none)).arb.circuit = .free :=
        State.completed_circuit s op
      rw [hfree] at e
      cases e
    · rw [hempty]
      simp [LineReg.cleared, LineReg.atInit]

theorem matched_fillCompletion {value : CellVal} {mask : SectionSet} (hk : op.claim.kind = .fill value mask)
    (h : s.sessionsMatchCircuit) : (fillCompletion tie s).sessionsMatchCircuit := by
  have hdone := matched_completed (State.completing_spec hc).2.1 h
  cases hd : op.discarded with
  | true =>
    rw [fillCompletion_discarded tie hc hk hd]
    exact matched_settle hdone
  | false =>
    by_cases hp : ∃ first last current v m, s.rqe.phase = .filling first last current v m
    · obtain ⟨first, last, current, v, m, hp⟩ := hp
      have hphase : (s.completed op).rqe.phase = .filling first last current v m := by simpa using hp
      by_cases hrow : current < last
      · rw [fillCompletion_next tie hc hk hd hp hrow]
        exact matched_settle (matched_setPhase _ (matched_raiseClaim _ hdone)
          (by simpa using h.2.2.1 (by rw [hp]; simp)) (fun k hk => by cases hk) (by simp [hp]) (by simp [hp]))
      · rw [fillCompletion_last tie hc hk hd hp hrow]
        exact matched_conclude tie (matched_finish_of_phase _ _ _ hdone (by simp [hp]) (by simp [hp]))
    · rw [fillCompletion_unasked tie hc hk hd (by simpa using hp)]
      exact matched_settle hdone

theorem matched_refreshCompletion (hk : op.claim.kind = .refresh) (h : s.sessionsMatchCircuit) :
    (refreshCompletion tie s).sessionsMatchCircuit := by
  have hdone := matched_completed (State.completing_spec hc).2.1 h
  by_cases hp : op.claim.cls = .host ∧ op.discarded = false ∧ ∃ first last current, s.rqe.phase = .refreshing first last current
  · obtain ⟨hh, hd, first, last, current, hp⟩ := hp
    by_cases hrow : current < last
    · rw [refreshCompletion_next tie hc hk hh hd hp hrow]
      exact matched_settle (matched_setPhase _ (matched_raiseClaim _ hdone)
        (by simpa using h.2.2.1 (by rw [hp]; simp)) (fun k hk => by cases hk) (by simp [hp]) (by simp [hp]))
    · rw [refreshCompletion_last tie hc hk hh hd hp hrow]
      exact matched_conclude tie (matched_finish_of_phase _ _ _ hdone (by simp [hp]) (by simp [hp]))
  · rw [refreshCompletion_unasked tie hc hk fun hh hd first last current e => hp ⟨hh, hd, first, last, current, e⟩]
    exact matched_settle hdone

theorem matched_scrubCompletion (hk : op.claim.kind = .scrub) (h : s.sessionsMatchCircuit) :
    (scrubCompletion s).sessionsMatchCircuit := by
  rw [scrubCompletion_scrubbed hc hk]
  apply matched_settle
  unfold State.initDone
  have hdone := matched_completed (State.completing_spec hc).2.1 h
  split
  · exact matched_report _ (matched_congr hdone rfl (fun _ => rfl) rfl rfl rfl)
  · exact hdone

theorem matched_openCompletion (hk : op.claim.kind = .openRow) (h : s.sessionsMatchCircuit) :
    (openCompletion tie s).sessionsMatchCircuit := by
  have hcirc := (State.completing_spec hc).2.1
  have hdone := matched_completed hcirc h
  have hnone : ∀ q, (s.completed op).arb.circuit.servesSession q = false := fun q => by
    rw [State.completed_circuit]
    rfl
  cases hd : op.discarded with
  | true =>
    rw [openCompletion_discarded tie hc hk hd]
    exact matched_settle hdone
  | false =>
    by_cases ho : ∃ k, s.rqe.phase = .opening k
    · obtain ⟨k, ho⟩ := ho
      have hphase : (s.completed op).rqe.phase = .opening k := by simpa using ho
      rw [openCompletion_opened tie hc hk hd ho]
      have hopened : (((s.completed op).setCircuit (.held k op.claim.row)).openSession k).sessionsMatchCircuit :=
        matched_openSession (p := (s.completed op).rqe.phase) hdone hnone (by rw [hphase]; exact beq_self_eq_true k)
          (fun _ => rfl) (fun _ => id) (fun q row job start e => by cases e)
      have hfinished := matched_finish_of_phase .ok 0 [slotCode k, (s.slot k).generation] hopened
        (by simp [State.openSession, ho]) (by simp [State.openSession, ho])
      refine matched_conclude tie (matched_setSlot hfinished .rfl fun hopens => ?_)
      have hqueue : (((s.completed op).setCircuit (.held k op.claim.row)).openSession k).rqe.queue ≠ [] :=
        hopened.2.2.1 (by simp [State.openSession, ho])
      rw [State.finish_phase _ _ _ hqueue] at hopens
      cases hopens
    · by_cases hr : ∃ k job, s.rqe.phase = .reopening k job
      · obtain ⟨k, job, hr⟩ := hr
        have hphase : (s.completed op).rqe.phase = .reopening k job := by simpa using hr
        rw [openCompletion_reopened tie hc hk hd hr]
        exact matched_openSession (c := .bursting (some k) op.claim.row job (s.completed op).clock) (p := .bursting) hdone
          hnone (by rw [hphase]; exact beq_self_eq_true k) (fun _ => rfl) (fun q hq => by cases hq) fun _ _ _ _ _ => rfl
      · rw [openCompletion_unasked tie hc hk hd (by simpa using ho) (by simpa using hr)]
        exact matched_settle hdone

end Completions

/-! ## The end of a burst (R48, R135) -/

theorem matched_columnBurstEnd (tie : TieOrder) (h : s.sessionsMatchCircuit) :
    (columnBurstEnd tie s).sessionsMatchCircuit := by
  unfold columnBurstEnd
  split
  · next slot row job start hcirc =>
    have happlied : (s.applyBurst row job).sessionsMatchCircuit :=
      matched_congr h (by simp) (by simp) (by simp) (by simp) (by simp)
    have hbusy : (s.applyBurst row job).arb.circuit = .bursting slot row job start := by simpa using hcirc
    split
    · cases slot with
      | none =>
        exact matched_settle (matched_setCircuit .free happlied (fun k => by rw [hbusy]; rfl) fun _ _ _ _ e => by cases e)
      | some k =>
        have hphase : s.rqe.phase = .bursting := h.2.2.2.1 k row job start hcirc
        have hheld : ((s.applyBurst row job).setCircuit (.held k row)).sessionsMatchCircuit :=
          matched_setCircuit _ happlied (fun q => by rw [hbusy]; rfl) fun _ _ _ _ e => by cases e
        have hqueue : ((s.applyBurst row job).setCircuit (.held k row)).rqe.queue ≠ [] :=
          hheld.2.2.1 (by simp [hphase])
        have hcopy : ¬ (s.lrb.lr4.copy.isSome = true ∨ s.lrb.lr4.state = .loaded) := fun hx => by
          have := h.2.2.2.2 hx
          rw [hphase] at this
          cases this
        refine matched_conclude tie (matched_setSlot (matched_finish _ _ _ hheld (fun _ _ _ _ e => by cases e)
          (by simpa using hcopy)) .rfl fun hopens => ?_)
        rw [State.finish_phase _ _ _ hqueue] at hopens
        cases hopens
    · exact h
  · exact h

/-! ## The beginning of a request -/

theorem State.beginning_spec {k : RequestKind} {payload : List Byte} (h : s.beginning k = some payload) :
    s.live = true ∧ s.rqe.phase = .free ∧ s.rqe.queue ≠ [] := by
  unfold State.beginning at h
  split at h
  · next hc =>
    refine ⟨hc.1, hc.2, fun hq => ?_⟩
    rw [hq] at h
    cases h
  · cases h

theorem matched_finish_free (st : Status) (fl : Byte) (d : List Byte) (h : s.sessionsMatchCircuit)
    (hfree : s.rqe.phase = .free) : (s.finish st fl d).sessionsMatchCircuit :=
  matched_finish_of_phase st fl d h (by rw [hfree]; simp) (by rw [hfree]; simp)

/-- A request refused, or answered at once. -/
theorem matched_answer (tie : TieOrder) (st : Status) (fl : Byte) (d : List Byte) (h : s.sessionsMatchCircuit)
    (hfree : s.rqe.phase = .free) : ((s.finish st fl d).begun tie).sessionsMatchCircuit :=
  matched_begun tie (matched_finish_free st fl d h hfree)

/-- A request that goes on waits for a claim of its own. -/
theorem matched_goesOn (tie : TieOrder) (p : Phase) (h : s.sessionsMatchCircuit) (hfree : s.rqe.phase = .free)
    (hqueue : s.rqe.queue ≠ []) (hp : ∀ k, p.opensFor k = false) : ((s.setPhase p).begun tie).sessionsMatchCircuit :=
  matched_begun tie (matched_setPhase p h hqueue (fun k hk => by rw [hp k] at hk; cases hk) (by rw [hfree]; simp)
    (by rw [hfree]; simp))

section Requests

variable (tie : TieOrder) (h : s.sessionsMatchCircuit)
include h

theorem matched_identify : (identify tie s).sessionsMatchCircuit := by
  unfold identify
  split
  · exact h
  · next hb =>
    obtain ⟨-, hfree, -⟩ := State.beginning_spec hb
    split <;> exact matched_answer tie _ _ _ h hfree

theorem matched_status : (status tie s).sessionsMatchCircuit := by
  unfold status
  split
  · exact h
  · next hb =>
    obtain ⟨-, hfree, -⟩ := State.beginning_spec hb
    split <;> exact matched_answer tie _ _ _ h hfree

theorem matched_rowQuery : (rowQuery tie s).sessionsMatchCircuit := by
  unfold rowQuery
  split
  · exact h
  · next hb =>
    obtain ⟨-, hfree, -⟩ := State.beginning_spec hb
    split
    · exact matched_answer tie _ _ _ h hfree
    · split <;> exact matched_answer tie _ _ _ h hfree

theorem matched_configure : (configure tie s).sessionsMatchCircuit := by
  simp only [configure]
  split
  · exact h
  · next hb =>
    obtain ⟨-, hfree, -⟩ := State.beginning_spec hb
    split
    · exact matched_answer tie _ _ _ h hfree
    · split
      · exact matched_answer tie _ _ _ (matched_congr h (s.applySettings_circuit _ _ _) (by simp [State.slot]) (by simp)
          (by simp) (by simp))
          (by simpa using hfree)
      · exact matched_answer tie _ _ _ h hfree

theorem matched_fillRows : (fillRows tie s).sessionsMatchCircuit := by
  simp only [fillRows]
  split
  · exact h
  · next hb =>
    obtain ⟨-, hfree, hqueue⟩ := State.beginning_spec hb
    split
    · exact matched_answer tie _ _ _ h hfree
    · split_ifs
      · exact matched_answer tie _ _ _ h hfree
      · exact matched_answer tie _ _ _ h hfree
      · exact matched_goesOn tie _ (matched_raiseClaim _ h) hfree hqueue fun _ => rfl

theorem matched_refresh : (refresh tie s).sessionsMatchCircuit := by
  simp only [refresh]
  split
  · exact h
  · next hb =>
    obtain ⟨-, hfree, hqueue⟩ := State.beginning_spec hb
    split
    · exact matched_answer tie _ _ _ h hfree
    · split_ifs
      · exact matched_answer tie _ _ _ h hfree
      · exact matched_answer tie _ _ _ h hfree
      · exact matched_goesOn tie _ (matched_raiseClaim _ h) hfree hqueue fun _ => rfl

theorem matched_copyRow : (copyRow tie s).sessionsMatchCircuit := by
  unfold copyRow
  split
  · exact h
  · next hb =>
    obtain ⟨-, hfree, hqueue⟩ := State.beginning_spec hb
    split
    · exact matched_answer tie _ _ _ h hfree
    · split_ifs
      · exact matched_answer tie _ _ _ h hfree
      · exact matched_answer tie _ _ _ h hfree
      · exact matched_goesOn tie _ h hfree hqueue fun _ => rfl
      · exact matched_begun tie (matched_startCopy _ h hqueue (by rw [hfree]; simp))

/-- The slot taken was free, so the circuit did not serve it. -/
theorem matched_openRow : (openRow tie s).sessionsMatchCircuit := by
  simp only [openRow]
  split
  · exact h
  · next hb =>
    obtain ⟨-, hfree, hqueue⟩ := State.beginning_spec hb
    split
    · exact matched_answer tie _ _ _ h hfree
    · split_ifs
      · exact matched_answer tie _ _ _ h hfree
      · exact matched_answer tie _ _ _ h hfree
      · split
        · exact matched_answer tie _ _ _ h hfree
        · next k hk =>
          have hunused : (s.slot k).inUse = false := by simpa using List.find?_some hk
          refine matched_begun tie (matched_setPhase _ (matched_raiseClaim _ (matched_setSlot h ?_ fun hopens => ?_)) hqueue
            (fun q hq => ?_) (by simp [hfree]) (by simp [hfree]))
          · simp [hunused]
          · rw [hfree] at hopens
            cases hopens
          · obtain rfl : k = q := beq_iff_eq.1 hq
            simp

theorem matched_freeSession {k : SlotId} (hserve : s.arb.circuit.servesSession k = false)
    (hopens : s.rqe.phase.opensFor k = false) : (s.freeSession k).sessionsMatchCircuit := by
  refine matched_setSlot h ?_ fun ho => ?_
  · have hk := h.1 k
    rw [hserve] at hk
    rw [← hk]
    simp
  · rw [hopens] at ho
    cases ho

theorem matched_close : (close tie s).sessionsMatchCircuit := by
  unfold close
  split
  · exact h
  · next hb =>
    obtain ⟨-, hfree, -⟩ := State.beginning_spec hb
    split
    · exact matched_answer tie _ _ _ h hfree
    · split
      · exact matched_answer tie _ _ _ h hfree
      · next k hk =>
        have hclosed := matched_closeHeld h
        have hphase : s.closeHeld.rqe.phase = .free := by simpa using hfree
        refine matched_answer tie _ _ _ (matched_freeSession hclosed ?_ (by rw [hphase]; rfl)) hphase
        have hburst := hclosed.2.2.2.1 k
        rw [State.closeHeld_circuit] at hburst ⊢
        split at hburst
        · rfl
        · next hnot =>
          cases hcirc : s.arb.circuit with
          | held => exact absurd hcirc (hnot _ _)
          | bursting slot row job start =>
            cases slot with
            | none => rfl
            | some q =>
              have := h.2.2.2.1 q row job start hcirc
              rw [hfree] at this
              cases this
          | _ => rfl

theorem matched_raiseReopen {k : SlotId} (job : ColumnJob) (hqueue : s.rqe.queue ≠ [])
    (hslot : (s.slot k).inUse = true ∧ (s.slot k).idleTimer = none) (hb : s.rqe.phase ≠ .bursting)
    (hc : s.rqe.phase ≠ .copying) : (s.raiseReopen k job).sessionsMatchCircuit :=
  matched_setPhase _ (matched_raiseClaim _ h) hqueue (fun q hq => by
    obtain rfl : k = q := beq_iff_eq.1 hq
    exact hslot) hb hc

theorem matched_reopen {k : SlotId} (job : ColumnJob) (hqueue : s.rqe.queue ≠ [])
    (hslot : (s.slot k).inUse = true ∧ (s.slot k).idleTimer = none) (hfree : s.rqe.phase = .free) :
    (s.reopen k job tie).sessionsMatchCircuit := by
  cases tie with
  | raiseFirst =>
    exact matched_settle (matched_closeHeld (matched_raiseReopen h job hqueue hslot (by simp [hfree]) (by simp [hfree])))
  | closeFirst =>
    refine matched_settle (matched_raiseReopen (matched_settle (matched_closeHeld h)) job (by simpa using hqueue) ?_
      (by simp [hfree]) (by simp [hfree]))
    rw [State.settle_slot, State.closeHeld_slot]
    exact hslot

/-- A burst starts on the held row. -/
theorem matched_startBurst {k : SlotId} {row : Nat} (job : ColumnJob) (hqueue : s.rqe.queue ≠ [])
    (hcirc : s.arb.circuit = .held k row) (hc : s.rqe.phase ≠ .copying) :
    (s.startBurst k row job).sessionsMatchCircuit := by
  obtain ⟨hserve, -, -, -, hcopy⟩ := h
  refine ⟨fun q => ?_, fun q hq => (by cases hq), fun _ => hqueue, fun _ _ _ _ _ => rfl, fun hx => absurd (hcopy hx) hc⟩
  have hq := hserve q
  rw [hcirc] at hq
  exact hq

/-- The idle timer of a session no request waits on stops or restarts. -/
theorem matched_setIdle {k : SlotId} (timer : Option Nat) (hfree : s.rqe.phase = .free) :
    (s.setSlot k { s.slot k with idleTimer := timer }).sessionsMatchCircuit :=
  matched_setSlot h .rfl fun ho => by
    rw [hfree] at ho
    cases ho

omit h in
theorem State.inUse_of_findSession {b g : Byte} {k : SlotId} (hk : s.findSession b g = some k) :
    (s.slot k).inUse = true := by
  unfold State.findSession at hk
  split at hk
  · split_ifs at hk with hin
    cases hk
    exact hin.1
  · cases hk

theorem matched_columnRequest (f : ColumnFields) (hfree : s.rqe.phase = .free) (hqueue : s.rqe.queue ≠ []) :
    (s.columnRequest f tie).sessionsMatchCircuit := by
  simp only [State.columnRequest]
  split
  · exact matched_answer tie _ _ _ h hfree
  · next k hk =>
    have hstopped : (s.stopIdle k).sessionsMatchCircuit := matched_setIdle h none hfree
    have hslot : ((s.stopIdle k).slot k).inUse = true ∧ ((s.stopIdle k).slot k).idleTimer = none := by
      simp [State.stopIdle, State.inUse_of_findSession hk]
    split
    · have hanswered : (((s.stopIdle k).refuse .range).restartIdle k).sessionsMatchCircuit :=
        matched_setIdle (matched_finish_free _ _ _ hstopped hfree) _ (State.finish_phase _ _ _ hqueue)
      split
      · split
        · exact matched_conclude tie hanswered
        · exact matched_begun tie hanswered
      · exact matched_begun tie hanswered
    · split
      · next k' row hcirc =>
        split
        · next hkk =>
          subst hkk
          split
          · exact matched_startBurst hstopped f.job hqueue hcirc (by simp [State.stopIdle, hfree])
          · exact matched_reopen tie hstopped f.job hqueue hslot hfree
        · exact matched_reopen .raiseFirst hstopped f.job hqueue hslot hfree
      · exact matched_reopen .raiseFirst hstopped f.job hqueue hslot hfree

theorem matched_read : (read tie s).sessionsMatchCircuit := by
  unfold read
  split
  · exact h
  · next hb =>
    obtain ⟨-, hfree, hqueue⟩ := State.beginning_spec hb
    split
    · exact matched_answer tie _ _ _ h hfree
    · exact matched_columnRequest tie h _ hfree hqueue

theorem matched_write : (write tie s).sessionsMatchCircuit := by
  unfold write
  split
  · exact h
  · next hb =>
    obtain ⟨-, hfree, hqueue⟩ := State.beginning_spec hb
    split
    · exact matched_answer tie _ _ _ h hfree
    · exact matched_columnRequest tie h _ hfree hqueue

theorem matched_exchange : (exchange tie s).sessionsMatchCircuit := by
  unfold exchange
  split
  · exact h
  · next hb =>
    obtain ⟨-, hfree, hqueue⟩ := State.beginning_spec hb
    split
    · exact matched_answer tie _ _ _ h hfree
    · exact matched_columnRequest tie h _ hfree hqueue

theorem matched_mapStr (n : StreamId) (f : StreamRec → StreamRec) : (s.mapStr n f).sessionsMatchCircuit :=
  streamClosed_matched.mapStr f h

theorem matched_streamSetup : (streamSetup tie s).sessionsMatchCircuit := by
  unfold streamSetup
  split
  · exact h
  · next hb =>
    obtain ⟨-, hfree, -⟩ := State.beginning_spec hb
    split
    · exact matched_answer tie _ _ _ h hfree
    · split
      · exact matched_answer tie _ _ _ h hfree
      · split
        · exact matched_answer tie _ _ _ h hfree
        · split
          · exact matched_answer tie _ _ _ h hfree
          · exact matched_answer tie _ _ _ (matched_mapStr h _ _) hfree

theorem matched_streamAppend : (streamAppend tie s).sessionsMatchCircuit := by
  simp only [streamAppend]
  split
  · exact h
  · next hb =>
    obtain ⟨-, hfree, -⟩ := State.beginning_spec hb
    split
    · exact matched_answer tie _ _ _ h hfree
    · split
      · exact matched_answer tie _ _ _ h hfree
      · split_ifs
        · exact matched_answer tie _ _ _ h hfree
        · exact matched_answer tie _ _ _ h hfree
        · exact matched_answer tie _ _ _ h hfree
        · exact matched_answer tie _ _ _ (streamClosed_matched.appendSegments _ h) (by simpa using hfree)

theorem matched_streamStart : (streamStart tie s).sessionsMatchCircuit := by
  unfold streamStart
  split
  · exact h
  · next hb =>
    obtain ⟨-, hfree, -⟩ := State.beginning_spec hb
    split
    · exact matched_answer tie _ _ _ h hfree
    · split
      · exact matched_answer tie _ _ _ h hfree
      · split_ifs
        · exact matched_answer tie _ _ _ h hfree
        · exact matched_answer tie _ _ _ h hfree
        · exact matched_answer tie _ _ _ (streamClosed_matched.startStream h) (by simpa using hfree)

theorem matched_streamStop : (streamStop tie s).sessionsMatchCircuit := by
  unfold streamStop
  split
  · exact h
  · next hb =>
    obtain ⟨-, hfree, hqueue⟩ := State.beginning_spec hb
    split
    · exact matched_answer tie _ _ _ h hfree
    · split
      · exact matched_answer tie _ _ _ h hfree
      · split
        · exact matched_answer tie _ _ _ h hfree
        · split
          · exact matched_answer tie _ _ _ h hfree
          · exact matched_begun tie (streamClosed_matched.stopStream _ (matched_setPhase _ (matched_mapStr h _ _) hqueue
              (fun k hk => by cases hk) (by simp [hfree]) (by simp [hfree])))

theorem matched_streamFlush : (streamFlush tie s).sessionsMatchCircuit := by
  simp only [streamFlush]
  split
  · exact h
  · next hb =>
    obtain ⟨-, hfree, -⟩ := State.beginning_spec hb
    split
    · exact matched_answer tie _ _ _ h hfree
    · split
      · exact matched_answer tie _ _ _ h hfree
      · split
        · exact matched_answer tie _ _ _ h hfree
        · exact matched_answer tie _ _ _ (matched_mapStr h _ _) hfree

theorem matched_streamQuery : (streamQuery tie s).sessionsMatchCircuit := by
  unfold streamQuery
  split
  · exact h
  · next hb =>
    obtain ⟨-, hfree, -⟩ := State.beginning_spec hb
    split
    · exact matched_answer tie _ _ _ h hfree
    · split
      · exact matched_answer tie _ _ _ h hfree
      · exact matched_answer tie _ _ _ h hfree

end Requests

/-! ## Timers, thresholds, the link and the supply -/

theorem matched_lr4HoldExpiry (h : s.sessionsMatchCircuit) : (lr4HoldExpiry s).sessionsMatchCircuit := by
  unfold lr4HoldExpiry
  split
  · next hx =>
    have hcopying : s.rqe.phase = .copying := h.2.2.2.2 (.inr hx.2.2)
    have hempty : (s.emptyReg .lr4).lrb.lr4 = s.lrb.lr4.cleared (s.operationKind .lr4) := rfl
    have hnone : ¬ ((s.emptyReg .lr4).lrb.lr4.copy.isSome = true ∨ (s.emptyReg .lr4).lrb.lr4.state = .loaded) := by
      rw [hempty]
      simp [LineReg.cleared, LineReg.atInit]
    refine matched_settle (matched_finish _ _ _ (matched_setLr (matched_withdraw _ h) fun _ hx => absurd hx hnone)
      (fun k row job start e => ?_) hnone)
    have := h.2.2.2.1 k row job start e
    rw [hcopying] at this
    cases this
  · exact h

/-- A session PARKED with its idle timer running has no OPEN claimed for it. -/
theorem matched_idleExpiry (k : SlotId) (h : s.sessionsMatchCircuit) : (idleExpiry k s).sessionsMatchCircuit := by
  unfold idleExpiry
  split
  · next start htimer =>
    split
    · next hx =>
      refine matched_report _ (matched_freeSession h ?_ (Bool.eq_false_iff.2 fun ho => ?_))
      · refine Bool.eq_false_iff.2 fun hserve => ?_
        have := ((h.1 k).1 hserve).2
        rw [hx.2.2.1] at this
        cases this
      · have := (h.2.1 k ho).2
        rw [htimer] at this
        cases this
    · exact h
  · exact h

/-- With every slot free, nothing served and no copy, the law asks nothing of the request engine but its head. -/
theorem matched_of_quiet (hslot : ∀ k, (s.slot k).inUse = false) (hserve : ∀ k, s.arb.circuit.servesSession k = false)
    (hphase : s.rqe.phase = .free) (hcopy : s.lrb.lr4.copy = none) (hstate : s.lrb.lr4.state = .empty) :
    s.sessionsMatchCircuit := by
  refine ⟨fun k => ?_, fun k hk => ?_, fun hne => absurd hphase hne, fun k row job start e => ?_, fun hx => ?_⟩
  · rw [hserve, hslot]
    simp
  · rw [hphase] at hk
    cases hk
  · have := hserve k
    rw [e] at this
    simp [Circuit.servesSession] at this
  · rw [hcopy, hstate] at hx
    simp at hx

theorem Circuit.abandoned_servesSession (c : Circuit) (k : SlotId) : c.abandoned.servesSession k = false := by
  cases c <;> rfl

theorem matched_resetRequest (s : State) (req : Request) : (s.resetRequest req).sessionsMatchCircuit := by
  refine matched_of_quiet (fun k => ?_) (fun k => ?_) (by simp [State.resetRequest]) (by simp [State.resetRequest]; rfl)
    (by simp [State.resetRequest]; rfl)
  · have hfreed : ∀ u : State,
        (((((u.freeSession .k0).freeSession .k1).freeSession .k2).freeSession .k3).slot k).inUse = false := fun u => by
      cases k <;> rfl
    rw [State.slot, State.resetRequest, (State.setMode_frame _ .auto).2.2.2.2.2.2.2.2.2.2.2.1]
    exact hfreed _
  · rw [State.resetRequest, State.setMode_circuit]
    exact Circuit.abandoned_servesSession _ k

theorem matched_powerOnValues (s : State) (start : Option Nat) : (s.powerOnValues start).sessionsMatchCircuit :=
  matched_of_quiet (fun k => congrArg Session.inUse (Sessions.get_atInit k)) (fun _ => rfl) rfl rfl rfl

theorem matched_removeSent (x : Transaction) (n : Nat) (h : s.sessionsMatchCircuit) :
    (s.removeSent x n).sessionsMatchCircuit := by
  unfold State.removeSent
  split
  · split
    · exact h
    · exact matched_congr h rfl (fun _ => rfl) rfl rfl rfl
    · exact matched_congr h rfl (fun _ => rfl) rfl rfl rfl
    · split
      · exact matched_congr h rfl (fun _ => rfl) rfl rfl rfl
      · exact matched_congr h rfl (fun _ => rfl) rfl rfl rfl
  · exact h

theorem matched_admitFrame (bytes : List Byte) (h : s.sessionsMatchCircuit) :
    (s.admitFrame bytes).sessionsMatchCircuit := by
  unfold State.admitFrame
  split
  · exact h
  · next req _ =>
    split_ifs
    · exact matched_resetRequest s req
    · obtain ⟨hserve, hopens, hqueue, hburst, hcopy⟩ := h
      exact ⟨hserve, hopens, fun _ => by simp, hburst, hcopy⟩
    · exact h

theorem matched_transactionEnd (bits : List Bool) (h : s.sessionsMatchCircuit) :
    (transactionEnd bits s).sessionsMatchCircuit := by
  unfold transactionEnd
  split
  · split
    · exact matched_settle (matched_congr (matched_admitFrame _ (matched_removeSent _ _ h)) rfl (fun _ => rfl) rfl rfl rfl)
    · exact matched_congr h rfl (fun _ => rfl) rfl rfl rfl
  · exact matched_congr h rfl (fun _ => rfl) rfl rfl rfl

theorem matched_hcsFall (h : s.sessionsMatchCircuit) : (hcsFall s).sessionsMatchCircuit := by
  unfold hcsFall
  split <;> exact matched_congr h rfl (fun _ => rfl) rfl rfl rfl

theorem matched_warmupEnd (h : s.sessionsMatchCircuit) : (warmupEnd s).sessionsMatchCircuit := by
  unfold warmupEnd
  split
  · next start hcirc =>
    split
    · exact matched_settle (matched_congr (matched_setCircuit .free h (fun k => by rw [hcirc]; rfl)
        fun _ _ _ _ e => by cases e) rfl (fun _ => rfl) rfl rfl rfl)
    · exact h
  · exact h

theorem matched_raiseUrgent (row : Nat) (h : s.sessionsMatchCircuit) : (s.raiseUrgent row).sessionsMatchCircuit := by
  unfold State.raiseUrgent
  split
  · exact h
  · exact matched_raiseClaim _ h

theorem matched_checkRoutine (h : s.sessionsMatchCircuit) : s.checkRoutine.sessionsMatchCircuit := by
  obtain e | ⟨_, _, -, -, -, -, -, -, -, e⟩ := s.checkRoutine_cases
  · rwa [e]
  · rw [e]
    exact matched_raiseClaim _ h

theorem matched_routineThreshold (h : s.sessionsMatchCircuit) : (routineThreshold s).sessionsMatchCircuit := by
  unfold routineThreshold
  split
  · exact matched_settle (matched_checkRoutine h)
  · exact h

theorem matched_urgentCrossing (row : Nat) (h : s.sessionsMatchCircuit) :
    (urgentCrossing row s).sessionsMatchCircuit := by
  have hcrossed : (s.markCrossed row).sessionsMatchCircuit := matched_congr h rfl (fun _ => rfl) rfl rfl rfl
  simp only [urgentCrossing]
  split
  · split
    · exact matched_settle (matched_raiseUrgent row (matched_withdraw _ hcrossed))
    · exact matched_report _ hcrossed
  · exact h

theorem matched_deadline (row : Nat) (h : s.sessionsMatchCircuit) : (deadline row s).sessionsMatchCircuit := by
  simp only [deadline]
  split
  · exact matched_settle (matched_report _ (matched_congr h rfl (fun _ => rfl) rfl rfl rfl))
  · exact h

theorem matched_playbackEdge (n : StreamId) (h : s.sessionsMatchCircuit) : (playbackEdge n s).sessionsMatchCircuit := by
  unfold playbackEdge
  split
  · exact matched_settle (streamClosed_matched.playEdge h)
  · exact h

theorem matched_captureEdge (n : StreamId) (cell : CellVal) (h : s.sessionsMatchCircuit) :
    (captureEdge n cell s).sessionsMatchCircuit := by
  unfold captureEdge
  split
  · exact matched_settle (streamClosed_matched.capEdge cell h)
  · exact h

theorem matched_playbackHoldExpiry (r : LrId) (h : s.sessionsMatchCircuit) :
    (playbackHoldExpiry r s).sessionsMatchCircuit := by
  unfold playbackHoldExpiry
  split
  · next n g hr _ =>
    split
    · exact matched_settle (streamClosed_matched.playExpiry g hr h)
    · exact h
  · exact h

theorem matched_captureHoldExpiry (r : LrId) (h : s.sessionsMatchCircuit) :
    (captureHoldExpiry r s).sessionsMatchCircuit := by
  unfold captureHoldExpiry
  split
  · next n g hr _ =>
    split
    · exact matched_settle (streamClosed_matched.capExpiry g hr h)
    · exact h
  · exact h

/-- A completion's command does nothing, or is one of the cases. -/
theorem matched_completes {kind : ClaimKind → Prop} (hc : completes s t kind) (h : s.sessionsMatchCircuit)
    (hrun : ∀ op, s.completing = some op → kind op.claim.kind → op.claim.wellPlaced = true → t.sessionsMatchCircuit) :
    t.sessionsMatchCircuit := by
  obtain rfl | ⟨op, hop, hk, hw⟩ := hc
  · exact h
  · exact hrun op hop hk hw

theorem matched_run (i : Instr) (h : s.sessionsMatchCircuit) : (i.run s).sessionsMatchCircuit := by
  cases i <;> simp only [Instr.run]
  case powerOn => exact matched_congr (matched_powerOnValues s _) rfl (fun _ => rfl) rfl rfl rfl
  case powerLoss => exact matched_congr (matched_powerOnValues s _) rfl (fun _ => rfl) rfl rfl rfl
  case hrstAssert =>
    unfold hrstAssert
    split_ifs
    · exact h
    · exact matched_congr (matched_powerOnValues s none) rfl (fun _ => rfl) rfl rfl rfl
    · exact matched_congr h rfl (fun _ => rfl) rfl rfl rfl
  case hrstDeassert =>
    unfold hrstDeassert
    split_ifs
    · exact matched_congr (matched_powerOnValues s _) rfl (fun _ => rfl) rfl rfl rfl
    · exact matched_congr h rfl (fun _ => rfl) rfl rfl rfl
    · exact h
  case warmupEnd => exact matched_warmupEnd h
  case loadCompletion m =>
    refine matched_completes (loadCompletion_completes s m.tie) h fun op hc hk hw => ?_
    obtain ⟨r, n, hcl, hr⟩ := op.claim.register_of_wellPlaced hw (.inl hk)
    exact matched_loadCompletion m.tie hc hk hcl hr h
  case commitCompletion m =>
    refine matched_completes (commitCompletion_completes s m.tie) h fun op hc hk hw => ?_
    obtain ⟨r, n, hcl, hr⟩ := op.claim.register_of_wellPlaced hw (.inr hk)
    exact matched_commitCompletion m.tie hc hk hcl hr h
  case copyLoadCompletion =>
    exact matched_completes (copyLoadCompletion_completes s) h fun op hc hk _ => matched_copyLoadCompletion hc hk h
  case copyCommitCompletion m =>
    exact matched_completes (copyCommitCompletion_completes s m.tie) h fun op hc ⟨_, hk⟩ _ =>
      matched_copyCommitCompletion m.tie hc hk h
  case fillCompletion m =>
    exact matched_completes (fillCompletion_completes s m.tie) h fun op hc ⟨_, _, hk⟩ _ =>
      matched_fillCompletion m.tie hc hk h
  case refreshCompletion m =>
    exact matched_completes (refreshCompletion_completes s m.tie) h fun op hc hk _ =>
      matched_refreshCompletion m.tie hc hk h
  case scrubCompletion =>
    exact matched_completes (scrubCompletion_completes s) h fun op hc hk _ => matched_scrubCompletion hc hk h
  case openCompletion tie =>
    exact matched_completes (openCompletion_completes s tie) h fun op hc hk _ => matched_openCompletion tie hc hk h
  case columnBurstEnd tie => exact matched_columnBurstEnd tie h
  case routineThreshold => exact matched_routineThreshold h
  case urgentCrossing row => exact matched_urgentCrossing row h
  case deadline row => exact matched_deadline row h
  case hcsFall => exact matched_hcsFall h
  case transactionEnd bits => exact matched_transactionEnd bits h
  case identify m => exact matched_identify m.tie h
  case status m => exact matched_status m.tie h
  case configure m => exact matched_configure m.tie h
  case openRow m => exact matched_openRow m.tie h
  case close m => exact matched_close m.tie h
  case read tie => exact matched_read tie h
  case write tie => exact matched_write tie h
  case exchange tie => exact matched_exchange tie h
  case fillRows m => exact matched_fillRows m.tie h
  case copyRow m => exact matched_copyRow m.tie h
  case refresh m => exact matched_refresh m.tie h
  case rowQuery m => exact matched_rowQuery m.tie h
  case streamSetup m => exact matched_streamSetup m.tie h
  case streamAppend m => exact matched_streamAppend m.tie h
  case streamStart m => exact matched_streamStart m.tie h
  case streamStop m => exact matched_streamStop m.tie h
  case streamFlush m => exact matched_streamFlush m.tie h
  case streamQuery m => exact matched_streamQuery m.tie h
  case playbackEdge n => exact matched_playbackEdge n h
  case captureEdge n cell => exact matched_captureEdge n cell h
  case playbackHoldExpiry r => exact matched_playbackHoldExpiry r h
  case captureHoldExpiry r => exact matched_captureHoldExpiry r h
  case lr4HoldExpiry => exact matched_lr4HoldExpiry h
  case idleExpiry k => exact matched_idleExpiry k h

end Matched

/-- Settles O58: a session is opened where the circuit comes to serve it, and parked where its row is closed. -/
theorem sessionsStayMatched : Obligations.SessionsStayMatched := fun s t h hstep =>
  step_keeps (fun _ _ hp => matched_congr hp rfl (fun _ => rfl) rfl rfl rfl)
    (fun _ _ hp => matched_congr hp rfl (fun _ => rfl) rfl rfl rfl) (fun i _ _ hp => matched_run i hp) s t h hstep

end Sys2Proof.Machine
end

section
/-! PROOF. The line registers and their claims (R40, R46, R57, R71, R72, R106, R124): the law register by register, and
what each act on a register, a record or the claims keeps of it. -/

namespace Sys2Proof.Machine

/-! ## The law, register by register -/

/-- No claim of the register is pending, and no operation of it in flight. -/
def State.unclaimed (s : State) (r : LrId) : Prop :=
  (∀ c ∈ s.arb.claims, c.isOf r = false) ∧ ∀ op, s.inFlight = some op → op.claim.isOf r = false

/-- A register has at most one claim or operation, which suits its state; one to discard exactly when it was emptied
with the operation in flight (R46, R57, R71). -/
structure State.regKept (s : State) (r : LrId) : Prop where
  count : (s.arb.claims.filter fun c => c.isOf r).length + (if s.operationKind r = none then 0 else 1) ≤ 1
  pends : ∀ c ∈ s.arb.claims, c.isOf r = true → c.kind.pendsIn (s.lr r).state = true
  runs : ∀ op, s.inFlight = some op → op.claim.isOf r = true →
    (s.lr r).state = .empty ∧ (s.lr r).discardPending = op.claim.kind.discardKind
      ∨ (s.lr r).discardPending = none ∧ op.claim.kind.runsIn (s.lr r).state = true
  discards : (s.lr r).discardPending ≠ none → s.operationKind r ≠ none

/-- The law of the registers in parts with names. -/
structure State.regsKept (s : State) : Prop where
  place : ∀ c, s.holdsClaim (fun d => d == c) = true → c.inPlace = true
  reg : ∀ r, s.regKept r
  commits : ∀ c ∈ s.arb.claims, c.kind = .commit → ∀ r n, c.claimant = .register r → streamOf r = some n →
    (s.str n).direction = .capture
  idle : ∀ n r, (s.str n).state = .disabled ∨ (s.str n).state = .idle → streamOf r = some n → (s.lr r).state = .empty
  lr4 : (s.lr .lr4).state ≠ .empty → s.rqe.phase = .copying

theorem State.registersMatchClaims_iff (s : State) : s.registersMatchClaims ↔ s.regsKept := by
  constructor
  · rintro ⟨hplace, hcount, hpends, hruns, hdiscards, hcommits, hidle, hlr4⟩
    refine ⟨hplace, fun r => ⟨hcount r, hpends r, hruns r, hdiscards r⟩, hcommits, fun n r hn hr => ?_, hlr4⟩
    obtain rfl | rfl := streamOf_eq_some.1 hr
    · exact (hidle n hn).1
    · exact (hidle n hn).2
  · rintro ⟨hplace, hreg, hcommits, hidle, hlr4⟩
    exact ⟨hplace, fun r => (hreg r).count, fun r => (hreg r).pends, fun r => (hreg r).runs, fun r => (hreg r).discards,
      hcommits, fun n hn => ⟨hidle n _ hn (streamOf_evenReg n), hidle n _ hn (streamOf_oddReg n)⟩, hlr4⟩

section

variable {s t : State} {r : LrId} {n : StreamId}

theorem State.place_of_mem (h : s.regsKept) {c : Claim} (hc : c ∈ s.arb.claims) : c.inPlace = true :=
  h.place c ((s.holdsClaim_iff _).2 (.inl ⟨c, hc, beq_self_eq_true c⟩))

theorem State.place_of_inFlight (h : s.regsKept) {op : Operation} (hop : s.inFlight = some op) :
    op.claim.inPlace = true :=
  h.place _ ((s.holdsClaim_iff _).2 (.inr ⟨op, hop, beq_self_eq_true _⟩))

theorem State.place_of_subset (h : ∀ c ∈ t.arb.claims, c.inPlace = true)
    (hop : ∀ op, t.inFlight = some op → op.claim.inPlace = true) :
    ∀ c, t.holdsClaim (fun d => d == c) = true → c.inPlace = true := fun c hc => by
  obtain ⟨d, hd, e⟩ | ⟨op, hd, e⟩ := (t.holdsClaim_iff _).1 hc
  · exact beq_iff_eq.1 e ▸ h d hd
  · exact beq_iff_eq.1 e ▸ hop op hd

/-- A claim of a register in its place: a LOAD or COMMIT by a stream's register, or LR4's for the request engine. -/
theorem Claim.isOf_inPlace {c : Claim} (hp : c.inPlace = true) (hr : c.isOf r = true) :
    ((c.kind = .load ∨ c.kind = .commit) ∧ c.claimant = .register r ∧ (streamOf r).isSome = true ∧ c.cls = .stream)
      ∨ ((c.kind = .copyLoad ∨ ∃ m, c.kind = .copyCommit m) ∧ c.claimant = .requestEngine ∧ r = .lr4 ∧ c.cls = .host) := by
  unfold Claim.isOf Claim.register? at hr
  unfold Claim.inPlace at hp
  cases hcl : c.claimant with
  | register q =>
    rw [hcl] at hr hp
    obtain rfl : q = r := by simpa using hr
    cases hk : c.kind <;> rw [hk] at hp <;> simp_all
  | requestEngine =>
    rw [hcl] at hr hp
    cases hk : c.kind <;> rw [hk] at hr hp <;> simp_all
  | refreshEngine => rw [hcl] at hr; cases hr
  | rowTable => rw [hcl] at hr; cases hr

theorem Claim.discardKind_of_isOf {c : Claim} (hp : c.inPlace = true) (hr : c.isOf r = true) :
    c.kind.discardKind ≠ none := by
  obtain ⟨hk | hk, -⟩ | ⟨hk | ⟨m, hk⟩, -⟩ := Claim.isOf_inPlace hp hr <;> simp [hk, ClaimKind.discardKind]

theorem State.operationKind_congr (h : t.inFlight = s.inFlight) : t.operationKind r = s.operationKind r := by
  rw [State.operationKind, h, State.operationKind]

/-- Claims and operation the same, the register's state and what it is to discard the same. -/
theorem State.regKept.congr (h : s.regKept r)
    (hclaims : (t.arb.claims.filter fun c => c.isOf r) = s.arb.claims.filter fun c => c.isOf r)
    (hflight : t.inFlight = s.inFlight) (hstate : (t.lr r).state = (s.lr r).state)
    (hdiscard : (t.lr r).discardPending = (s.lr r).discardPending) : t.regKept r where
  count := by
    rw [hclaims, State.operationKind_congr hflight]
    exact h.count
  pends c hc hcr := by
    rw [hstate]
    have hmem : c ∈ s.arb.claims.filter fun c => c.isOf r := hclaims ▸ List.mem_filter.2 ⟨hc, hcr⟩
    exact h.pends c (List.mem_of_mem_filter hmem) hcr
  runs op hop hopr := by
    rw [hstate, hdiscard]
    exact h.runs op (hflight ▸ hop) hopr
  discards hd := by
    rw [State.operationKind_congr hflight]
    exact h.discards (hdiscard ▸ hd)

theorem State.unclaimed.operationKind (h : s.unclaimed r) : s.operationKind r = none := by
  unfold State.operationKind
  cases hop : s.inFlight with
  | none => rfl
  | some op => simp [h.2 op hop]

theorem State.unclaimed.filter (h : s.unclaimed r) : (s.arb.claims.filter fun c => c.isOf r) = [] := by
  rw [List.filter_eq_nil_iff]
  exact fun c hc => by simp [h.1 c hc]

/-- Without a claim or operation a register's state is free. -/
theorem State.unclaimed.regKept (h : s.unclaimed r) (hd : (s.lr r).discardPending = none) : s.regKept r where
  count := by rw [h.filter, h.operationKind]; exact Nat.zero_le _
  pends c hc hcr := by rw [h.1 c hc] at hcr; cases hcr
  runs op hop hopr := by rw [h.2 op hop] at hopr; cases hopr
  discards hne := absurd hd hne

/-- A register without a claim and an operation has nothing to discard. -/
theorem State.regsKept.discard_none (h : s.regsKept) (hu : s.unclaimed r) : (s.lr r).discardPending = none := by
  by_contra hd
  exact (h.reg r).discards hd hu.operationKind

/-- A state in which no claim of the register pends, and no operation runs, has none. -/
theorem State.regsKept.unclaimed_of_state (h : s.regsKept)
    (hpends : ∀ c ∈ s.arb.claims, c.isOf r = true → c.kind.pendsIn (s.lr r).state = false)
    (hempty : (s.lr r).state = .empty → (s.lr r).discardPending = none)
    (hruns : ∀ k : ClaimKind, k.runsIn (s.lr r).state = false) : s.unclaimed r := by
  refine ⟨fun c hc => Bool.eq_false_iff.2 fun hcr => ?_, fun op hop => Bool.eq_false_iff.2 fun hopr => ?_⟩
  · have := (h.reg r).pends c hc hcr
    rw [hpends c hc hcr] at this
    cases this
  · obtain ⟨he, hd⟩ | ⟨-, hrun⟩ := (h.reg r).runs op hop hopr
    · rw [hempty he] at hd
      exact Claim.discardKind_of_isOf (State.place_of_inFlight h hop) hopr hd.symm
    · rw [hruns] at hrun
      cases hrun

/-- A register that may take a segment (R58, R65). -/
theorem State.regsKept.unclaimed_of_free (h : s.regsKept) (hf : (s.lr r).isFree = true) : s.unclaimed r := by
  simp only [LineReg.isFree, Bool.and_eq_true, beq_iff_eq] at hf
  obtain ⟨hstate, hdiscard⟩ := hf
  exact h.unclaimed_of_state (fun c _ _ => by rw [hstate]; cases c.kind <;> rfl) (fun _ => hdiscard)
    fun k => by rw [hstate]; cases k <;> rfl

/-- The receiving register of a capture stream (R110). -/
theorem State.regsKept.unclaimed_of_receiving (h : s.regsKept) (hr : s.isReceiving r = true) : s.unclaimed r := by
  simp only [State.isReceiving, Bool.and_eq_true, beq_iff_eq, Bool.not_eq_true'] at hr
  obtain ⟨hstate, hpending⟩ := hr
  refine h.unclaimed_of_state (fun c hc hcr => ?_) (fun he => by rw [hstate] at he; cases he)
    fun k => by rw [hstate]; cases k <;> rfl
  have := List.any_eq_false.1 hpending c hc
  exact absurd hcr this

/-- A playback register that is read (R57). -/
theorem State.regsKept.unclaimed_of_playing (h : s.regsKept) (hr : streamOf r = some n)
    (hdir : (s.str n).direction = .playback) (hstate : (s.lr r).state = .loaded ∨ (s.lr r).state = .active) :
    s.unclaimed r := by
  refine h.unclaimed_of_state (fun c hc hcr => ?_) (fun he => by rw [he] at hstate; simp at hstate)
    fun k => by obtain e | e := hstate <;> rw [e] <;> cases k <;> rfl
  obtain ⟨hk | hk, hcl, -⟩ | ⟨-, -, hlr4, -⟩ := Claim.isOf_inPlace (State.place_of_mem h hc) hcr
  · obtain e | e := hstate <;> rw [e, hk] <;> rfl
  · have := h.commits c hc hk r n hcl hr
    rw [hdir] at this
    cases this
  · exact absurd hlr4 (ne_lr4_of_streamOf hr)

/-! ## What the acts keep -/

/-- Whatever leaves the arbiter, the registers, the streams' directions and states and the request engine's phase. -/
theorem State.regsKept.congr (h : s.regsKept) (harb : t.arb = s.arb)
    (hlr : ∀ r, t.lr r = s.lr r) (hstr : ∀ n, (t.str n).direction = (s.str n).direction ∧ (t.str n).state = (s.str n).state)
    (hphase : t.rqe.phase = s.rqe.phase) : t.regsKept where
  place := by simpa only [State.holdsClaim_congr harb] using h.place
  reg r := (h.reg r).congr (by rw [harb]) (State.inFlight_congr (by rw [harb])) (by rw [hlr]) (by rw [hlr])
  commits := by
    rw [harb]
    exact fun c hc hk r n hcl hr => (hstr n).1.trans (h.commits c hc hk r n hcl hr)
  idle n r hn hr := by
    rw [(hstr n).2] at hn
    rw [hlr]
    exact h.idle n r hn hr
  lr4 := by
    rw [hlr, hphase]
    exact h.lr4

theorem State.regsKept.report (h : s.regsKept) (x : Notice) : (s.report x).regsKept :=
  h.congr (by simp) (by simp) (by simp) (by simp)

/-- A change of a record that keeps its direction, and its state or a started one. -/
theorem State.regsKept.mapStr (h : s.regsKept) (f : StreamRec → StreamRec)
    (hdir : (f (s.str n)).direction = (s.str n).direction)
    (hstate : (f (s.str n)).state = (s.str n).state ∨ ((f (s.str n)).state ≠ .disabled ∧ (f (s.str n)).state ≠ .idle)
      ∨ ∀ r, streamOf r = some n → (s.lr r).state = .empty) : (s.mapStr n f).regsKept where
  place := h.place
  reg r := (h.reg r).congr rfl rfl rfl rfl
  commits c hc hk r m hcl hr := by
    have hold := h.commits c hc hk r m hcl hr
    by_cases hm : m = n
    · subst hm
      simpa [State.mapStr, hdir] using hold
    · simpa [State.mapStr, hm] using hold
  idle m r hm hr := by
    by_cases hmn : m = n
    · subst hmn
      simp only [State.mapStr, State.str_setStr, if_true] at hm
      obtain e | ⟨hd, hi⟩ | hempty := hstate
      · exact h.idle m r (e ▸ hm) hr
      · exact absurd hm (not_or.2 ⟨hd, hi⟩)
      · exact hempty r hr
    · simp only [State.mapStr, State.str_setStr, if_neg hmn] at hm
      exact h.idle m r hm hr
  lr4 := h.lr4

/-- A register without a claim may be written, within what its stream's state and the request engine's phase ask. -/
theorem State.regsKept.setLr (h : s.regsKept) {x : LineReg} (hu : s.unclaimed r) (hd : x.discardPending = none)
    (hidle : ∀ n, streamOf r = some n → (s.str n).state = .disabled ∨ (s.str n).state = .idle → x.state = .empty)
    (hlr4 : r = .lr4 → x.state ≠ .empty → s.rqe.phase = .copying) : (s.setLr r x).regsKept where
  place := h.place
  reg q := by
    by_cases hq : q = r
    · subst hq
      exact State.unclaimed.regKept (s := s.setLr q x) hu (by simpa using hd)
    · exact (h.reg q).congr rfl rfl (by simp [hq]) (by simp [hq])
  commits := h.commits
  idle n q hn hq := by
    rw [State.lr_setLr]
    split_ifs with hqr
    · exact hidle n (hqr ▸ hq) hn
    · exact h.idle n q hn hq
  lr4 hne := by
    rw [State.lr_setLr] at hne
    split_ifs at hne with hr
    · exact hlr4 hr.symm hne
    · exact h.lr4 hne

/-- A write that keeps the register's state and what it is to discard. -/
theorem State.regsKept.setLr_same (h : s.regsKept) {x : LineReg} (hstate : x.state = (s.lr r).state)
    (hd : x.discardPending = (s.lr r).discardPending) : (s.setLr r x).regsKept where
  place := h.place
  reg q := by
    by_cases hq : q = r
    · subst hq
      exact (h.reg q).congr rfl rfl (by simp [hstate]) (by simp [hd])
    · exact (h.reg q).congr rfl rfl (by simp [hq]) (by simp [hq])
  commits := h.commits
  idle n q hn hq := by
    rw [State.lr_setLr]
    split_ifs with hqr
    · rw [hstate]
      exact h.idle n r hn (hqr ▸ hq)
    · exact h.idle n q hn hq
  lr4 hne := by
    rw [State.lr_setLr] at hne
    split_ifs at hne with hr
    · rw [hstate, ← hr] at hne
      exact h.lr4 hne
    · exact h.lr4 hne

/-- Fewer claims pending. -/
theorem State.regsKept.withdraw (h : s.regsKept) (p : Claim → Bool) : (s.withdraw p).regsKept where
  place := State.place_of_subset (fun c hc => State.place_of_mem h (List.mem_of_mem_filter hc))
    fun op hop => State.place_of_inFlight h hop
  reg r := by
    obtain ⟨hcount, hpends, hruns, hdiscards⟩ := h.reg r
    refine ⟨le_trans ?_ hcount, fun c hc => hpends c (List.mem_of_mem_filter hc), hruns, hdiscards⟩
    exact Nat.add_le_add_right (List.filter_sublist.filter _).length_le _
  commits c hc := h.commits c (List.mem_of_mem_filter hc)
  idle := h.idle
  lr4 := h.lr4

/-- Emptying a register withdraws its claim, and leaves its operation to discard (R71). -/
theorem State.regsKept.emptyReg (h : s.regsKept) (r : LrId) : (s.emptyReg r).regsKept := by
  have hw := h.withdraw fun c => c.isOf r
  refine ⟨hw.place, fun q => ?_, hw.commits, fun n q hn hq => ?_, fun hne => ?_⟩
  · by_cases hq : q = r
    · subst hq
      have hnone : ∀ c ∈ (s.emptyReg q).arb.claims, c.isOf q = false := fun c hc => by
        simpa using (List.mem_filter.1 hc).2
      have hreg : (s.emptyReg q).lr q = (s.lr q).cleared (s.operationKind q) := by simp [State.emptyReg_lr]
      refine ⟨?_, fun c hc hcr => (by rw [hnone c hc] at hcr; cases hcr), fun op hop hopr => .inl ?_, fun hd => ?_⟩
      · rw [show ((s.emptyReg q).arb.claims.filter fun c => c.isOf q) = [] from
          List.filter_eq_nil_iff.2 fun c hc => by simp [hnone c hc]]
        split <;> simp
      · have hop' : s.inFlight = some op := hop
        rw [hreg]
        exact ⟨rfl, by simp [LineReg.cleared, State.operationKind, hop', hopr]⟩
      · rw [hreg] at hd
        exact hd
    · exact (hw.reg q).congr rfl rfl (by simp [State.emptyReg_lr, hq]) (by simp [State.emptyReg_lr, hq])
  · rw [State.emptyReg_lr]
    split_ifs
    · rfl
    · exact h.idle n q hn hq
  · rw [State.emptyReg_lr] at hne
    split_ifs at hne
    · exact absurd rfl hne
    · exact h.lr4 hne

/-- A register without a claim raises one that suits its state. -/
theorem State.regsKept.raiseOf (h : s.regsKept) {c : Claim} (hu : s.unclaimed r) (hplace : c.inPlace = true)
    (hr : c.isOf r = true) (hpends : c.kind.pendsIn (s.lr r).state = true)
    (hcommit : c.kind = .commit → ∀ n, streamOf r = some n → (s.str n).direction = .capture) :
    (s.raiseClaim c).regsKept where
  place := State.place_of_subset (fun d hd => by
      obtain hd | hd := List.mem_append.1 hd
      · exact State.place_of_mem h hd
      · exact List.mem_singleton.1 hd ▸ hplace) fun op hop => State.place_of_inFlight h hop
  reg q := by
    have hreg : c.register? = some r := beq_iff_eq.1 hr
    by_cases hq : q = r
    · subst hq
      have hfilter : ((s.raiseClaim c).arb.claims.filter fun c => c.isOf q) = [c] := by
        rw [State.raiseClaim_arb, List.filter_append, hu.filter]
        simp [hr]
      refine ⟨?_, fun d hd hdq => ?_, fun op hop hopq => ?_, fun hd => absurd (h.discard_none hu) hd⟩
      · rw [hfilter, State.operationKind_congr (s := s) (t := s.raiseClaim c) rfl, hu.operationKind]
        exact Nat.le_refl 1
      · obtain hd | hd := List.mem_append.1 hd
        · rw [hu.1 d hd] at hdq
          cases hdq
        · exact List.mem_singleton.1 hd ▸ hpends
      · rw [hu.2 op hop] at hopq
        cases hopq
    · refine (h.reg q).congr ?_ rfl rfl rfl
      have hnot : c.isOf q = false := by simpa [Claim.isOf, hreg] using Ne.symm hq
      rw [State.raiseClaim_arb, List.filter_append]
      simp [hnot]
  commits d hd hk q n hcl hq := by
    obtain hd | hd := List.mem_append.1 hd
    · exact h.commits d hd hk q n hcl hq
    · obtain rfl := List.mem_singleton.1 hd
      have hqr : q = r := by simpa [Claim.isOf, Claim.register?, hcl] using hr
      exact hcommit hk n (hqr ▸ hq)
  idle := h.idle
  lr4 := h.lr4

/-- A claim that is no register's joins. -/
theorem State.regsKept.raiseOther (h : s.regsKept) {c : Claim} (hplace : c.inPlace = true) (hk : c.kind ≠ .commit)
    (hr : c.register? = none) : (s.raiseClaim c).regsKept where
  place := State.place_of_subset (fun d hd => by
      obtain hd | hd := List.mem_append.1 hd
      · exact State.place_of_mem h hd
      · exact List.mem_singleton.1 hd ▸ hplace) fun op hop => State.place_of_inFlight h hop
  reg q := (h.reg q).congr (by
    rw [State.raiseClaim_arb, List.filter_append]
    simp [Claim.isOf, hr]) rfl rfl rfl
  commits d hd hkd := by
    obtain hd | hd := List.mem_append.1 hd
    · exact h.commits d hd hkd
    · exact absurd (List.mem_singleton.1 hd ▸ hkd) hk
  idle := h.idle
  lr4 := h.lr4

/-- A change of the circuit without an operation. -/
theorem State.regsKept.setCircuit (h : s.regsKept) (c : Circuit) (hs : s.arb.circuit.noOperation = true)
    (hc : c.noOperation = true) : (s.setCircuit c).regsKept where
  place d hd := h.place d (by rwa [← State.holdsClaim_setCircuit c hs hc])
  reg r := (h.reg r).congr rfl
    ((State.inFlight_of_noOperation (s := s.setCircuit c) hc).trans (s.inFlight_of_noOperation hs).symm) rfl rfl
  commits := h.commits
  idle := h.idle
  lr4 := h.lr4

theorem State.regsKept.setSlot (h : s.regsKept) (k : SlotId) (x : Session) : (s.setSlot k x).regsKept :=
  h.congr rfl (fun _ => rfl) (fun _ => ⟨rfl, rfl⟩) rfl

/-- The request engine goes on, LR4 being empty. -/
theorem State.regsKept.setPhase (h : s.regsKept) (p : Phase) (hc : s.rqe.phase ≠ .copying) : (s.setPhase p).regsKept where
  place := h.place
  reg r := (h.reg r).congr rfl rfl rfl rfl
  commits := h.commits
  idle := h.idle
  lr4 hne := absurd (h.lr4 hne) hc

/-- A reply ends the request in execution, LR4 being empty. -/
theorem State.regsKept.finish (h : s.regsKept) (st : Status) (fl : Byte) (d : List Byte)
    (hlr4 : (s.lr .lr4).state = .empty) : (s.finish st fl d).regsKept where
  place := by
    have e : (s.finish st fl d).arb = s.arb := by simp
    simpa only [State.holdsClaim_congr e] using h.place
  reg r := (h.reg r).congr (by simp) (State.inFlight_congr (by simp)) (by simp) (by simp)
  commits := by simpa using h.commits
  idle := by simpa using h.idle
  lr4 hne := absurd hlr4 (by simpa using hne)

theorem State.regsKept.finish_of_phase (h : s.regsKept) (st : Status) (fl : Byte) (d : List Byte)
    (hc : s.rqe.phase ≠ .copying) : (s.finish st fl d).regsKept :=
  h.finish st fl d (by_contra fun hne => hc (h.lr4 hne))

/-! ### The arbiter -/

/-- A claim pending puts its register in a state in which its operation runs (R46). -/
theorem LineReg.granted_runs {x : LineReg} {k : ClaimKind} (h : k.pendsIn x.state = true) (hk : k.discardKind ≠ none) :
    k.runsIn (x.granted k).state = true ∧ (x.granted k).discardPending = x.discardPending ∧ x.state ≠ .empty := by
  cases k <;> simp only [ClaimKind.discardKind, ne_eq, not_true_eq_false] at hk <;>
    refine ⟨?_, rfl, fun e => by rw [e] at h; cases h⟩
  case copyLoad => exact h
  all_goals rfl

theorem State.regsKept.grant (h : s.regsKept) {c : Claim} (hf : s.arb.circuit = .free) (hc : c ∈ s.arb.claims) :
    (s.grant c).regsKept := by
  have hnone : s.inFlight = none := s.inFlight_of_noOperation (by rw [hf]; rfl)
  obtain ⟨-, hclaims, hlr⟩ := s.grant_spec c
  have hplace := State.place_of_mem h hc
  have hidleDiscard : ∀ r, (s.lr r).discardPending = none := fun r => by
    by_contra hd
    exact (h.reg r).discards hd (by rw [State.operationKind, hnone])
  have hperm := List.perm_cons_erase hc
  refine ⟨fun d hd => h.place d (by rwa [← State.holdsClaim_grant hf hc]), fun r => ?_, fun d hd => ?_,
    fun n r hn hr => ?_, fun hne => ?_⟩
  · obtain ⟨hcount, hpends, -, -⟩ := h.reg r
    have hkind : (s.grant c).operationKind r = if c.isOf r then c.kind.discardKind else none := by
      rw [State.operationKind, s.grant_inFlight]
      rfl
    by_cases hcr : c.isOf r = true
    · have hdk := Claim.discardKind_of_isOf hplace hcr
      have hone : (s.arb.claims.erase c).filter (fun c => c.isOf r) = [] := by
        have hlen := (hperm.filter fun c => c.isOf r).length_eq
        rw [List.filter_cons, if_pos hcr, List.length_cons] at hlen
        exact List.eq_nil_of_length_eq_zero (by omega)
      have hreg : (s.grant c).lr r = (s.lr r).granted c.kind := by rw [hlr, if_pos (beq_iff_eq.1 hcr)]
      obtain ⟨hrun, hdisc, -⟩ := LineReg.granted_runs (hpends c hc hcr) hdk
      refine ⟨?_, fun d hd hdr => ?_, fun op hop _ => .inr ?_, fun hd => ?_⟩
      · rw [hclaims, hone, hkind, if_pos hcr, if_neg hdk]
        exact Nat.le_refl 1
      · have : d ∈ (s.arb.claims.erase c).filter fun c => c.isOf r := List.mem_filter.2 ⟨hclaims ▸ hd, hdr⟩
        rw [hone] at this
        cases this
      · rw [s.grant_inFlight, Option.some.injEq] at hop
        subst hop
        rw [hreg, hdisc]
        exact ⟨hidleDiscard r, hrun⟩
      · rw [hreg, hdisc] at hd
        exact absurd (hidleDiscard r) hd
    · have hreg : (s.grant c).lr r = s.lr r := by
        rw [hlr, if_neg fun e => hcr (beq_iff_eq.2 e)]
      refine ⟨?_, fun d hd hdr => ?_, fun op hop hopr => ?_, fun hd => ?_⟩
      · rw [hclaims, hkind, if_neg hcr]
        have := (List.erase_sublist.filter (fun c : Claim => c.isOf r) : ((s.arb.claims.erase c).filter _).Sublist _).length_le
        simp only [if_true]
        omega
      · rw [hreg]
        exact hpends d (List.mem_of_mem_erase (hclaims ▸ hd)) hdr
      · rw [s.grant_inFlight, Option.some.injEq] at hop
        subst hop
        exact absurd hopr hcr
      · rw [hreg] at hd
        exact absurd (hidleDiscard r) hd
  · rw [hclaims] at hd
    simpa using h.commits d (List.mem_of_mem_erase hd)
  · have hempty := h.idle n r (by simpa using hn) hr
    rw [hlr]
    split_ifs with hcr
    · have hpend := (h.reg r).pends c hc (beq_iff_eq.2 hcr)
      exact absurd hempty (LineReg.granted_runs hpend (Claim.discardKind_of_isOf hplace (beq_iff_eq.2 hcr))).2.2
    · exact hempty
  · have hphase : (s.grant c).rqe.phase = s.rqe.phase := by simp
    rw [hphase]
    refine h.lr4 fun he => hne ?_
    rw [hlr]
    split_ifs with hcr
    · have hpend := (h.reg .lr4).pends c hc (beq_iff_eq.2 hcr)
      exact absurd he (LineReg.granted_runs hpend (Claim.discardKind_of_isOf hplace (beq_iff_eq.2 hcr))).2.2
    · exact he

theorem State.regsKept.grantDecision (h : s.regsKept) (hf : s.arb.circuit = .free) : s.grantDecision.regsKept := by
  unfold State.grantDecision
  split
  · next c hc => exact h.grant hf (s.chooseGrant_mem hc).1
  · exact h

theorem State.regsKept.closeHeld (h : s.regsKept) : s.closeHeld.regsKept := by
  unfold State.closeHeld
  split
  · next hc => exact (h.setSlot _ _).setCircuit .free (by rw [State.setSlot_arb, hc]; rfl) rfl
  · exact h

theorem State.regsKept.settle (h : s.regsKept) : s.settle.regsKept := by
  unfold State.settle
  split
  · next hf => exact h.grantDecision hf
  · next hc =>
    split
    · exact h.closeHeld.grantDecision (by rw [State.closeHeld_circuit, hc])
    · exact h
  · exact h

theorem State.regsKept.conclude (h : s.regsKept) (tie : TieOrder) : (s.conclude tie).regsKept := by
  obtain ⟨e, -⟩ | ⟨e, -⟩ | ⟨e, -⟩ := s.conclude_cases tie
  · exact e.symm ▸ h
  · exact e.symm ▸ h.settle
  · exact e.symm ▸ h.closeHeld.settle

theorem State.regsKept.begun (h : s.regsKept) (tie : TieOrder) : (s.begun tie).regsKept :=
  h.closeHeld.conclude tie

theorem State.regsKept.checkRoutine (h : s.regsKept) : s.checkRoutine.regsKept := by
  obtain e | ⟨_, _, -, -, -, -, -, -, -, e⟩ := s.checkRoutine_cases
  · rwa [e]
  · rw [e]
    exact h.raiseOther rfl (by simp) rfl

theorem State.regsKept.raiseUrgent (h : s.regsKept) (row : Nat) : (s.raiseUrgent row).regsKept := by
  unfold State.raiseUrgent
  split
  · exact h
  · exact h.raiseOther rfl (by simp) rfl

end

end Sys2Proof.Machine
end

section
/-! PROOF. What the acts of the stream engines keep of the registers' law (R57, R71, R106, R124). -/

namespace Sys2Proof.Machine

section

variable {s : State} {n : StreamId} {r : LrId}

/-! ## What both directions share -/

theorem State.mapStr_str (f : StreamRec → StreamRec) (m : StreamId) :
    (s.mapStr n f).str m = if m = n then f (s.str n) else s.str m := by
  simp [State.mapStr]

theorem State.unclaimed.congr {t : State} (hu : s.unclaimed r) (harb : t.arb = s.arb) : t.unclaimed r := by
  obtain ⟨hpending, hflight⟩ := hu
  refine ⟨fun c hc => hpending c (harb ▸ hc), fun op hop => hflight op ?_⟩
  rwa [State.inFlight_congr (s := s) (by rw [harb])] at hop

namespace State.regsKept

variable (h : s.regsKept)
include h

/-- A change of a record that keeps its direction and its state. -/
theorem mapRec (f : StreamRec → StreamRec) (hf : ∀ x, (f x).direction = x.direction ∧ (f x).state = x.state) :
    (s.mapStr n f).regsKept :=
  h.mapStr f (hf _).1 (.inl (hf _).2)

/-- A change of a record to a started state. -/
theorem mapStarted (f : StreamRec → StreamRec)
    (hf : ∀ x, (f x).direction = x.direction ∧ (f x).state ≠ .disabled ∧ (f x).state ≠ .idle) :
    (s.mapStr n f).regsKept :=
  h.mapStr f (hf _).1 (.inr (.inl (hf _).2))

theorem count (f : Counters → Counters) : (s.count n f).regsKept :=
  h.mapRec _ (fun _ => by exact ⟨rfl, rfl⟩)

theorem reportIf (b : Bool) (x : Notice) : (s.reportIf b x).regsKept := by
  unfold State.reportIf
  split
  · exact h.report x
  · exact h

theorem reportMark (g : Segment) (b : Bool) : (s.reportMark n g b).regsKept := by
  unfold State.reportMark
  split
  · exact h.reportIf b _
  · exact h

omit h in
theorem setLossReported_keeps (x : StreamRec) (q : LrId) (b : Bool) :
    (x.setLossReported q b).direction = x.direction ∧ (x.setLossReported q b).state = x.state := by
  cases q <;> exact ⟨rfl, rfl⟩

/-- A free register of a started stream takes a segment (R58, R65). -/
theorem takeHead (g : Segment) (rest : List Segment) (st : LrState) (hf : (s.lr r).isFree = true)
    (hr : streamOf r = some n) (hn : (s.str n).state ≠ .disabled ∧ (s.str n).state ≠ .idle) :
    (s.takeHead n r g rest st).regsKept := by
  simp only [State.takeHead]
  have hkeep : ∀ x : StreamRec, ({ x.setLossReported r false with queue := rest, taken := (s.str n).taken + 1 }).direction
      = x.direction ∧ ({ x.setLossReported r false with queue := rest, taken := (s.str n).taken + 1 }).state = x.state :=
    fun x => setLossReported_keeps x r false
  refine (h.mapRec _ hkeep).setLr (h.unclaimed_of_free hf) rfl (fun m hm hidle => ?_) fun e => absurd e (ne_lr4_of_streamOf hr)
  rw [hr] at hm
  cases hm
  rw [State.mapStr_str, if_pos rfl, (hkeep _).2] at hidle
  exact absurd hidle (not_or.2 hn)

theorem streamToIdle (hfree : s.regsFree n = true) : (s.streamToIdle n).regsKept := by
  simp only [State.regsFree, Bool.and_eq_true, LineReg.isFree, beq_iff_eq] at hfree
  obtain ⟨⟨heven, -⟩, hodd, -⟩ := hfree
  have hempty : ∀ q, streamOf q = some n → (s.lr q).state = .empty := fun q hq => by
    obtain rfl | rfl := streamOf_eq_some.1 hq
    · exact heven
    · exact hodd
  have hidle := h.mapStr (n := n) (fun x => { x with state := .idle, sd := none, smk := false, stopRequest := none }) rfl
    (.inr (.inr hempty))
  have hreplied : (if (s.mapStr n fun x => { x with state := .idle, sd := none, smk := false, stopRequest := none
      }).rqe.phase = .stopping n then
      (s.mapStr n fun x => { x with state := .idle, sd := none, smk := false, stopRequest := none }).finish .ok 0 []
      else s.mapStr n fun x => { x with state := .idle, sd := none, smk := false, stopRequest := none }).regsKept := by
    split
    · next hphase => exact hidle.finish_of_phase _ _ _ (by rw [hphase]; simp)
    · exact hidle
  simp only [State.streamToIdle]
  split
  · exact hreplied.report _
  · exact hreplied

theorem stopNext : (s.stopNext n).regsKept := by
  unfold State.stopNext
  split
  · next hf => exact h.streamToIdle hf
  · exact h.mapStarted _ (fun _ => by exact ⟨rfl, by simp, by simp⟩)

theorem checkStopped : (s.checkStopped n).regsKept := by
  unfold State.checkStopped
  split
  · next hf => exact h.streamToIdle hf.2
  · exact h

theorem drain : (s.drain n).regsKept :=
  (h.mapStarted _ (fun _ => by exact ⟨rfl, by simp, by simp⟩)).report _

/-! ## Capture -/

theorem capTake : (s.capTake n).regsKept := by
  obtain e | ⟨q, g, rest, htaking, hfind, -, e⟩ := s.capTake_cases n
  · rw [e]; exact h
  · have hstarted : (s.str n).state ≠ .disabled ∧ (s.str n).state ≠ .idle := by
      constructor <;> (intro hst; simp [State.capTaking, hst] at htaking)
    have htaken := h.takeHead g rest .active (List.find?_some (p := fun r => (s.lr r).isFree) hfind) (State.streamOf_find hfind) hstarted
    rw [e]
    split
    · exact htaken.mapStarted _ (fun _ => by exact ⟨rfl, by simp, by simp⟩)
    · exact htaken

theorem releaseCopies : (s.releaseCopies n).regsKept := by
  simp only [State.releaseCopies]
  exact h.mapRec _ (fun _ => by exact ⟨rfl, rfl⟩)

theorem capFinish (t : Taken) : (s.capFinish n t).regsKept := by
  simp only [State.capFinish]
  split
  · generalize hs : State.releaseCopies _ n = s₂
    have hp₂ : s₂.regsKept := hs ▸ (h.mapRec _ fun _ => by split <;> exact ⟨rfl, rfl⟩).releaseCopies
    split
    · exact hp₂.mapStarted _ (fun _ => by exact ⟨rfl, by simp, by simp⟩)
    · exact hp₂
  · exact h

theorem capAbandonCount (given : Nat) : (s.capAbandonCount n given).regsKept :=
  h.count _

theorem capAbandonOverrun (t : Taken) (cells : Nat) : (s.capAbandonOverrun n t cells).regsKept :=
  (((h.report _).capAbandonCount 0).mapRec _ (fun _ => by exact ⟨rfl, rfl⟩)).capFinish t

/-- A capture stream's register without a claim, ACTIVE or FULL, claims its COMMIT (R67). -/
theorem raiseCommit (g : Segment) (hr : streamOf r = some n) (hdir : (s.str n).direction = .capture)
    (hu : s.unclaimed r) (hstate : (s.lr r).state = .active ∨ (s.lr r).state = .full) :
    (s.raiseCommit r g).regsKept :=
  h.raiseOf hu (by simp [Claim.inPlace, hr]) (by simp [Claim.isOf, Claim.register?])
    (by obtain e | e := hstate <;> rw [e] <;> rfl) fun _ m hm => by
      rw [hr] at hm
      cases hm
      exact hdir

omit h in
theorem isReceiving_of_receiving (hq : s.receiving n = some r) : s.isReceiving r = true :=
  List.find?_some hq

omit h in
theorem active_of_isReceiving (hq : s.isReceiving r = true) : (s.lr r).state = .active := by
  simp only [State.isReceiving, Bool.and_eq_true, beq_iff_eq] at hq
  exact hq.1

theorem capStopReceiving (g : Segment) (hq : s.receiving n = some r) (hdir : (s.str n).direction = .capture) :
    (s.capStopReceiving n r g).regsKept := by
  simp only [State.capStopReceiving]
  split
  · exact ((h.emptyReg r).mapRec _ (fun _ => by exact ⟨rfl, rfl⟩)).releaseCopies
  · split
    · exact (((h.report _).capAbandonCount _).emptyReg r).capFinish _
    · have hrec := isReceiving_of_receiving hq
      exact h.raiseCommit g (State.streamOf_receiving hq) hdir (h.unclaimed_of_receiving hrec)
        (.inl (active_of_isReceiving hrec))

theorem abandonOverrun : (s.abandonOverrun n).regsKept := by
  unfold State.abandonOverrun
  split
  · exact h.capAbandonOverrun _ _
  · exact h

theorem stopReceiving (hdir : (s.str n).direction = .capture) : (s.stopReceiving n).regsKept := by
  unfold State.stopReceiving
  split
  · next q hq =>
    split
    · exact h.capStopReceiving _ hq hdir
    · exact h
  · exact h

omit h in
theorem capFinish_direction (t : Taken) : ((s.capFinish n t).str n).direction = (s.str n).direction := by
  simp only [State.capFinish, State.releaseCopies]
  split
  · split <;> split <;> simp [State.mapStr_str]
  · rfl

omit h in
theorem capAbandonOverrun_direction (t : Taken) (cells : Nat) :
    ((s.capAbandonOverrun n t cells).str n).direction = (s.str n).direction := by
  simp only [State.capAbandonOverrun]
  rw [capFinish_direction]
  simp [State.mapStr_str, State.capAbandonCount, State.count]

omit h in
theorem abandonOverrun_direction : ((s.abandonOverrun n).str n).direction = (s.str n).direction := by
  unfold State.abandonOverrun
  split
  · exact capAbandonOverrun_direction _ _
  · rfl

theorem capStopEffect (hdir : (s.str n).direction = .capture) : (s.capStopEffect n).regsKept := by
  rw [State.capStopEffect_eq]
  exact (h.abandonOverrun.stopReceiving (abandonOverrun_direction.trans hdir)).stopNext

theorem capRangeFull (hdir : (s.str n).direction = .capture) : (s.capRangeFull n).regsKept := by
  unfold State.capRangeFull
  split
  · exact h.capStopEffect hdir
  · split
    · exact h.drain
    · exact h.capTake

theorem capReceive (g : Segment) (cell : CellVal) (hq : s.receiving n = some r) (hdir : (s.str n).direction = .capture) :
    (s.capReceive n r g cell).regsKept := by
  have hr := State.streamOf_receiving hq
  have hu : s.unclaimed r := h.unclaimed_of_receiving (isReceiving_of_receiving hq)
  have hrunning := h.mapStarted (n := n) (fun x =>
    { x with state := .running, counters := { x.counters with cellsMoved := satAdd x.counters.cellsMoved 1 } })
    (fun _ => by exact ⟨rfl, by simp, by simp⟩)
  simp only [State.capReceive]
  generalize hs₁ : s.mapStr n _ = s₁ at hrunning ⊢
  have hstr : s₁.str n = { s.str n with
      state := .running, counters := { (s.str n).counters with cellsMoved := satAdd (s.str n).counters.cellsMoved 1 } } := by
    rw [← hs₁, State.mapStr_str, if_pos rfl]
  have hu₁ : s₁.unclaimed r := hs₁ ▸ hu
  have hreceived : (s₁.mapLr r fun x => x.received g cell s.clock).regsKept :=
    hrunning.setLr hu₁ (hrunning.discard_none hu₁) (fun m hm hidle => by
      rw [hr] at hm
      cases hm
      simp [hstr] at hidle) fun e => absurd e (ne_lr4_of_streamOf hr)
  split
  · next hfull =>
    exact (hreceived.raiseCommit g hr (by simpa [State.mapLr, hstr] using hdir) hu₁ (.inr hfull)).capRangeFull
      (by simpa [State.mapLr, hstr, State.raiseCommit] using hdir)
  · exact hreceived

theorem capDiscard : (s.capDiscard n).regsKept :=
  h.count _

theorem capOverrunEnd (t : Taken) : (s.capOverrunEnd n t).regsKept := by
  simp only [State.capOverrunEnd]
  have habandoned := h.capAbandonOverrun (n := n) t t.segment.range
  split
  · exact habandoned.drain
  · exact habandoned.capTake

theorem capOverrunCount (t : Taken) (before : Nat) : (s.capOverrunCount n t before).regsKept := by
  simp only [State.capOverrunCount]
  split
  · exact (h.mapStarted _ (fun _ => by exact ⟨rfl, by simp, by simp⟩)).capOverrunEnd t
  · exact h.mapStarted _ (fun _ => by exact ⟨rfl, by simp, by simp⟩)

theorem capOverrunTake (g : Segment) (rest : List Segment) : (s.capOverrunTake n g rest).regsKept :=
  (h.mapRec _ (fun _ => by exact ⟨rfl, rfl⟩)).capOverrunCount _ 0

theorem capEdge (cell : CellVal) (hdir : (s.str n).direction = .capture) : (s.capEdge n cell).regsKept := by
  have hdrain : ((s.drain n).capDiscard n).regsKept := h.drain.capDiscard
  unfold State.capEdge
  split
  case h_5 | h_6 => exact h.capDiscard
  case h_7 | h_8 =>
    split
    · next q hq =>
      split
      · exact h.capReceive _ _ hq hdir
      · exact h
    · split
      · exact hdrain
      · exact (h.count _).capOverrunTake _ _
  case h_9 =>
    split
    · exact h.capOverrunCount _ _
    · split
      · exact hdrain
      · exact h.capOverrunTake _ _
  all_goals exact h

omit h in
theorem endSegment_arb (x : LineReg) (g : Segment) : (s.endSegment n x g).arb = s.arb := by
  have hmark : (s.reportMark n g true).arb = s.arb := by
    unfold State.reportMark State.reportIf
    split
    · split <;> simp
    · rfl
  unfold State.endSegment
  split
  · exact hmark
  · simpa [State.capAbandonCount, State.count, State.mapStr] using hmark

/-- The COMMIT that ends leaves its register without a claim. -/
theorem capCommitted (x : LineReg) (g : Segment) (hr : streamOf r = some n) (hu : s.unclaimed r) :
    (s.capCommitted n r x g).regsKept := by
  rw [State.capCommitted_eq]
  have hended : (s.endSegment n x g).regsKept := by
    unfold State.endSegment
    split
    · exact (h.reportMark g true).count _
    · exact ((h.reportMark g true).report _).capAbandonCount _
  have hu' : (s.endSegment n x g).unclaimed r := hu.congr (endSegment_arb x g)
  exact ((hended.setLr (x := x.cleared none) hu' rfl (fun _ _ _ => rfl) fun e => absurd e (ne_lr4_of_streamOf hr)).capFinish
    _).capTake.checkStopped

theorem capExpiry (g : Segment) (hdir : (s.str n).direction = .capture) : (s.capExpiry n r g).regsKept := by
  have hended : ((((s.report (.segmentAbandoned n g.row .stale (s.lr r).position)).capAbandonCount n
      (s.lr r).position).emptyReg r).capFinish n ⟨(s.lr r).takeSeq, g⟩).regsKept :=
    (((h.report _).capAbandonCount _).emptyReg r).capFinish _
  simp only [State.capExpiry]
  split
  · split
    · refine hended.capStopEffect ?_
      rw [capFinish_direction]
      simpa [State.capAbandonCount, State.count, State.mapStr_str] using hdir
    · split
      · exact hended.drain
      · exact hended.capTake
  · exact hended.capTake.checkStopped

/-! ## Playback -/

theorem playTakeOne (hr : streamOf r = some n) (hn : (s.str n).state ≠ .disabled ∧ (s.str n).state ≠ .idle) :
    (s.playTakeOne n r).regsKept := by
  obtain ⟨-, e⟩ | ⟨g, rest, hfree, -, e⟩ := s.playTakeOne_cases n r
  · rw [e]; exact h
  · have htaken := h.takeHead g rest .loading hfree hr hn
    have hu : (s.takeHead n r g rest .loading).unclaimed r := (h.unclaimed_of_free hfree).congr (by simp)
    rw [e]
    exact htaken.raiseOf hu (by simp [Claim.inPlace, hr]) (by simp [Claim.isOf, Claim.register?])
      (by rw [State.takeHead_lr, if_pos rfl]; rfl) fun hk => by cases hk

omit h in
theorem playTakeOne_state : ((s.playTakeOne n r).str n).state = (s.str n).state := by
  obtain ⟨-, e⟩ | ⟨g, rest, -, -, e⟩ := s.playTakeOne_cases n r
  · rw [e]
  · rw [e, State.raiseClaim_str, State.takeHead_str, if_pos rfl]
    exact (setLossReported_keeps _ r false).2

theorem playTakes : (s.playTakes n).regsKept := by
  unfold State.playTakes
  split
  · next htaking =>
    have hstarted : (s.str n).state ≠ .disabled ∧ (s.str n).state ≠ .idle := by
      constructor <;> (intro hst; simp [StreamRec.playTaking, hst] at htaking)
    exact (h.playTakeOne (streamOf_evenReg n) hstarted).playTakeOne (streamOf_oddReg n)
      (by rw [playTakeOne_state]; exact hstarted)
  · exact h

theorem playCopy (g : Segment) : (s.playCopy n g).regsKept := by
  unfold State.playCopy
  split
  · exact h.mapRec _ (fun _ => by exact ⟨rfl, rfl⟩)
  · exact h

theorem playStopEffect : (s.playStopEffect n).regsKept :=
  (((h.mapRec _ (fun _ => by exact ⟨rfl, rfl⟩)).emptyReg _).emptyReg _).stopNext

theorem playStopDrop (q : LrId) (g : Segment) : (s.playStopDrop n q g).regsKept := by
  simp only [State.playStopDrop]
  split
  · exact ((((h.report _).count _).emptyReg q).playCopy g).playStopEffect
  · exact ((((h.report _).count _).emptyReg q).playCopy g).playStopEffect

theorem playStopNow : (s.playStopNow n).regsKept := by
  rw [State.playStopNow_eq]
  split
  · exact h.playStopEffect
  · split
    · exact h.playStopDrop _ _
    · exact h.playStopEffect

theorem playRefill : (s.playRefill n).regsKept := by
  simp only [State.playRefill]
  split
  · exact h.playTakes.drain
  · exact h.playTakes

theorem playAfterEnd : (s.playAfterEnd n).regsKept := by
  unfold State.playAfterEnd
  split
  · exact h.playStopEffect
  · exact h.playRefill

theorem playAfterDrop : (s.playAfterDrop n).regsKept := by
  unfold State.playAfterDrop
  split
  · exact h.playStopEffect
  · split
    · split
      · exact (h.mapStarted _ (fun _ => by exact ⟨rfl, by simp, by simp⟩)).playRefill
      · exact h.playRefill
    · exact h.playRefill

omit h in
theorem playOutput_frame (g : Segment) :
    (s.playOutput n r g).arb = s.arb ∧ (∀ q, (s.playOutput n r g).lr q = s.lr q)
      ∧ ((s.playOutput n r g).str n).state = .running := by
  simp only [State.playOutput, State.reportMark, State.reportIf]
  split
  · split <;> simp [State.count, State.mapStr_str]
  · simp [State.count, State.mapStr_str]

theorem playRead (g : Segment) (hr : streamOf r = some n) (hdir : (s.str n).direction = .playback)
    (hstate : (s.lr r).state = .loaded ∨ (s.lr r).state = .active) : (s.playRead n r g).regsKept := by
  rw [State.playRead_eq]
  obtain ⟨harb, hlr, hrunning⟩ := playOutput_frame (s := s) (n := n) (r := r) g
  have hu : (s.playOutput n r g).unclaimed r := (h.unclaimed_of_playing hr hdir hstate).congr harb
  have hread : (s.playOutput n r g).regsKept :=
    ((h.mapStarted _ (fun _ => by exact ⟨rfl, by simp, by simp⟩)).count _).reportMark g _
  split
  · next x' hx =>
    have hdiscard : x'.discardPending = none := by
      have hnone := hread.discard_none hu
      rw [hlr] at hnone
      unfold LineReg.advanced at hx
      split_ifs at hx <;> (cases hx; exact hnone)
    exact hread.setLr hu hdiscard (fun m hm hidle => by
      rw [hr] at hm
      cases hm
      rw [hrunning] at hidle
      simp at hidle) fun e => absurd e (ne_lr4_of_streamOf hr)
  · exact (((hread.emptyReg r).count _).playCopy g).playAfterEnd

theorem playDrop (g : Segment) : (s.playDrop n r g).regsKept :=
  ((((h.emptyReg r).report _).mapRec _ (fun _ => by exact ⟨rfl, rfl⟩)).playCopy g).playAfterDrop

omit h in
theorem advanced_keeps {x x' : LineReg} {g : Segment} (hx : x.advanced g = some x') :
    x'.state = x.state ∧ x'.discardPending = x.discardPending := by
  unfold LineReg.advanced at hx
  split_ifs at hx <;> (cases hx; exact ⟨rfl, rfl⟩)

theorem playStarved (g : Segment) : (s.playStarved n r g).regsKept := by
  have hmapped := h.mapRec (n := n) (fun x =>
    { x.outputFill with
      starvedRun := satAdd x.starvedRun 1
      counters := { x.counters with starvedCells := satAdd x.counters.starvedCells 1 } })
    (fun _ => by exact ⟨rfl, rfl⟩)
  simp only [State.playStarved]
  split
  · exact hmapped.setLr_same rfl rfl
  · split
    · next x' hx =>
      obtain ⟨hstate, hdiscard⟩ := advanced_keeps hx
      exact hmapped.setLr_same hstate hdiscard
    · exact hmapped.playDrop g

theorem playEdge (hdir : (s.str n).direction = .playback) : (s.playEdge n).regsKept := by
  unfold State.playEdge
  split
  case h_4 | h_5 | h_6 => exact (h.mapRec _ (fun _ => by exact ⟨rfl, rfl⟩)).count _
  case h_7 | h_8 =>
    split
    · exact h
    · next q hq =>
      have hr := State.streamOf_playCurrent hq
      split
      case h_1 hstate => exact h.playRead _ hr hdir (.inl hstate)
      case h_2 hstate => exact h.playRead _ hr hdir (.inr hstate)
      case h_3 | h_4 => exact (h.mapStarted _ (fun _ => by exact ⟨rfl, by simp, by simp⟩)).playStarved _
      case h_5 => exact h
  case h_9 =>
    split
    · exact h
    · split
      · exact h.playStarved _
      · exact h
  all_goals exact h

theorem reportLoss (row : Nat) : (s.reportLoss n r row).regsKept := by
  unfold State.reportLoss
  split
  · exact (h.mapRec _ fun x => setLossReported_keeps x r true).report _
  · exact h

theorem playResume (row : Nat) : (s.playResume n row).regsKept :=
  (h.mapStarted _ (fun _ => by exact ⟨rfl, by simp, by simp⟩)).report _

theorem playLoaded (g : Segment) (wasReload : Bool) : (s.playLoaded n r g wasReload).regsKept := by
  simp only [State.playLoaded]
  generalize hs : (if wasReload then s.count n fun c => { c with reloads := satAdd c.reloads 1 } else s) = s₁
  have hp₂ : (s₁.reportLoss n r g.row).regsKept := by
    refine State.regsKept.reportLoss ?_ g.row
    subst hs
    split
    · exact h.count _
    · exact h
  split
  · split
    · exact hp₂.mapStarted _ (fun _ => by exact ⟨rfl, by simp, by simp⟩)
    · split
      · exact hp₂.playResume _
      · split
        · exact hp₂.playResume _
        · exact hp₂
    · exact hp₂
  · exact hp₂

theorem playExpiry (g : Segment) (hr : streamOf r = some n) (hdir : (s.str n).direction = .playback)
    (hstate : (s.lr r).state = .loaded ∨ (s.lr r).state = .active) : (s.playExpiry n r g).regsKept := by
  have hu := h.unclaimed_of_playing hr hdir hstate
  have hstale : (s.mapLr r fun x => { x with state := .stale, holdTimer := none, reloading := true }).regsKept := by
    refine h.setLr hu (h.discard_none hu) (fun m hm hidle => ?_) fun e => absurd e (ne_lr4_of_streamOf hr)
    have hempty := h.idle m r hidle hm
    rw [hempty] at hstate
    simp at hstate
  have hraised := hstale.raiseOf (c := ⟨.load, g.row, .register r, .stream⟩) (r := r) hu (by simp [Claim.inPlace, hr])
    (by simp [Claim.isOf, Claim.register?]) (by simp [State.mapLr, ClaimKind.pendsIn]) fun hk => by cases hk
  simp only [State.playExpiry]
  split
  · exact hraised.mapStarted _ (fun _ => by exact ⟨rfl, by simp, by simp⟩)
  · exact hraised

/-! ## Requests -/

theorem streamTakes : (s.streamTakes n).regsKept := by
  unfold State.streamTakes
  split
  · exact h.playTakes
  · exact h.capTake
  · exact h

theorem appendSegments (gs : List Segment) : (s.appendSegments n gs).regsKept := by
  simp only [State.appendSegments]
  have hqueued := h.mapRec (n := n) (fun x => { x with queue := x.queue ++ gs }) (fun _ => by exact ⟨rfl, rfl⟩)
  split
  · refine State.regsKept.playTakes ?_
    split
    · exact hqueued.mapStarted _ (fun _ => by exact ⟨rfl, by simp, by simp⟩)
    · exact hqueued
  · refine State.regsKept.capTake ?_
    split
    · exact hqueued.mapStarted _ (fun _ => by exact ⟨rfl, by simp, by simp⟩)
    · exact hqueued
  · exact hqueued

theorem startStream : (s.startStream n).regsKept := by
  unfold State.startStream
  split
  · exact (h.mapStarted _ (fun _ => by exact ⟨rfl, by simp, by simp⟩)).playTakes
  · exact (h.mapStarted _ (fun _ => by exact ⟨rfl, by simp, by simp⟩)).capTake
  · exact h

theorem stopStream (k : StopKind) (hc : s.rqe.phase ≠ .copying) : (s.stopStream n k).regsKept := by
  have hasked := (h.mapRec (n := n) (fun x => { x with stopRequest := some k })
    (fun _ => by exact ⟨rfl, rfl⟩)).setPhase
    (.stopping n) (by simpa using hc)
  simp only [State.stopStream]
  split
  · exact hasked.playStopNow
  · split
    · exact hasked
    · exact hasked.playStopEffect
  · next hdir => exact hasked.capStopEffect (by simpa [State.mapStr_str] using hdir)
  · next hdir =>
    split
    · exact hasked
    · exact hasked.capStopEffect (by simpa [State.mapStr_str] using hdir)
  · exact hasked.stopNext

end State.regsKept

end

end Sys2Proof.Machine
end

section
/-! PROOF. Every step keeps the registers' law (R57, R71, R72, R106, R124). -/

namespace Sys2Proof.Machine

section

variable {s t : State} {n : StreamId} {r : LrId}

/-! ## The end of an operation (R47) -/

/-- The claims after a completion: those but the refresh engine's on the row, and perhaps a ROUTINE claim. -/
theorem State.completed_claims_cases (s : State) (op : Operation) :
    (s.completed op).arb.claims = (s.arb.claims.filter fun c => !c.isRefreshOf op.claim.row)
      ∨ ∃ head, (s.completed op).arb.claims =
        (s.arb.claims.filter fun c => !c.isRefreshOf op.claim.row) ++ [⟨.refresh, head, .refreshEngine, .routine⟩] := by
  obtain ⟨u, hclaims, -, -, e⟩ := s.completed_claims op
  obtain e' | ⟨head, _, -, -, -, -, -, -, -, e'⟩ := u.checkRoutine_cases
  · exact .inl (by rw [e, e', hclaims])
  · exact .inr ⟨head, by rw [e, e', State.raiseClaim_arb, hclaims]⟩

theorem State.completed_filter_isOf (s : State) (op : Operation) (r : LrId) :
    ((s.completed op).arb.claims.filter fun c => c.isOf r).Sublist (s.arb.claims.filter fun c => c.isOf r) := by
  have hsub : ((s.arb.claims.filter fun c => !c.isRefreshOf op.claim.row).filter fun c => c.isOf r).Sublist
      (s.arb.claims.filter fun c => c.isOf r) := List.filter_sublist.filter _
  obtain e | ⟨head, e⟩ := s.completed_claims_cases op
  · rwa [e]
  · rw [e, List.filter_append]
    simpa [Claim.isOf, Claim.register?] using hsub

theorem State.completed_inFlight (s : State) (op : Operation) : (s.completed op).inFlight = none :=
  State.inFlight_of_noOperation (by rw [State.completed_circuit]; rfl)

/-- The claims and registers as a RESET leaves them (R52, R75, R173). -/
def State.regsEmptied (s : State) : State :=
  (((((s.withdraw fun c => c.cls == .stream || c.cls == .host).emptyReg .lr0).emptyReg .lr1).emptyReg .lr2).emptyReg
    .lr3).emptyReg .lr4

/-- The slots as a RESET leaves them (R145, R173). -/
def State.slotsFreed (s : State) : State :=
  (((s.freeSession .k0).freeSession .k1).freeSession .k2).freeSession .k3

/-- The other blocks as a RESET leaves them (R173, R174). -/
def State.blocksReset (s : State) (req : Request) : State :=
  { s with
    rat := { s.rat with lossFill := 0 }
    arb := { s.arb with circuit := s.arb.circuit.abandoned, preferred := .s0 }
    ste := .atInit
    rqe := { queue := [], tags := [req.tag], phase := .free }
    hlc := { s.hlc with outq := [.reply req.tag (if req.payload = [] then .ok else .badPayload) 0 []], attn := true }
    ntu := .atInit }

theorem State.resetRequest_eq (s : State) (req : Request) :
    s.resetRequest req = (s.regsEmptied.slotsFreed.blocksReset req).setMode .auto := rfl

theorem State.slotsFreed_frame (s : State) :
    s.slotsFreed.pending = s.pending ∧ s.slotsFreed.clock = s.clock ∧ s.slotsFreed.powered = s.powered
      ∧ s.slotsFreed.hrst = s.hrst ∧ s.slotsFreed.rat = s.rat ∧ s.slotsFreed.rfe = s.rfe ∧ s.slotsFreed.arb = s.arb
      ∧ s.slotsFreed.lrb = s.lrb ∧ s.slotsFreed.ste = s.ste ∧ s.slotsFreed.rqe = s.rqe ∧ s.slotsFreed.hlc = s.hlc
      ∧ s.slotsFreed.ntu = s.ntu := by
  simp [State.slotsFreed]

namespace State.regsKept

section Freed

variable (h : s.regsKept) {op : Operation} (hcirc : s.arb.circuit = .operating op)
include h hcirc

/-- The register of the operation has no other claim (R57). -/
theorem completed_unclaimed (hr : op.claim.isOf r = true) : (s.completed op).unclaimed r := by
  have hop : s.inFlight = some op := (State.inFlight_eq_some _).2 hcirc
  refine ⟨fun c hc => Bool.eq_false_iff.2 fun hcr => ?_, fun op' hop' => ?_⟩
  · have hcount := (h.reg r).count
    have hkind : s.operationKind r ≠ none := by
      rw [State.operationKind, hop]
      simpa [hr] using Claim.discardKind_of_isOf (State.place_of_inFlight h hop) hr
    rw [if_neg hkind] at hcount
    have hmem := (s.completed_filter_isOf op r).subset (List.mem_filter.2 ⟨hc, hcr⟩)
    have := List.length_pos_of_mem hmem
    omega
  · rw [s.completed_inFlight] at hop'
    cases hop'

/-- The operation's register, if it has one, may be written then. -/
theorem freed (hlr : ∀ q, op.claim.isOf q = false → t.lr q = s.lr q)
    (hnew : ∀ q, op.claim.isOf q = true → (t.lr q).discardPending = none
      ∧ (∀ n, streamOf q = some n → (s.str n).state = .disabled ∨ (s.str n).state = .idle → (t.lr q).state = .empty)
      ∧ (q = .lr4 → (t.lr q).state ≠ .empty → s.rqe.phase = .copying))
    (harb : t.arb = (s.completed op).arb) (hstr : ∀ n, t.str n = s.str n) (hphase : t.rqe.phase = s.rqe.phase) :
    t.regsKept := by
  have hop : s.inFlight = some op := (State.inFlight_eq_some _).2 hcirc
  have hnone : t.inFlight = none := (State.inFlight_congr (by rw [harb])).trans (s.completed_inFlight op)
  have hmem : ∀ c ∈ t.arb.claims, c ∈ s.arb.claims ∨ ∃ row, c = ⟨.refresh, row, .refreshEngine, .routine⟩ := fun c hc => by
    rw [harb] at hc
    obtain e | ⟨head, e⟩ := s.completed_claims_cases op
    · exact .inl (List.mem_of_mem_filter (e ▸ hc))
    · obtain hc | hc := List.mem_append.1 (e ▸ hc)
      · exact .inl (List.mem_of_mem_filter hc)
      · exact .inr ⟨head, List.mem_singleton.1 hc⟩
  refine ⟨State.place_of_subset (fun c hc => ?_) fun op' hop' => ?_, fun q => ?_, fun c hc hk r m hcl hr => ?_,
    fun m q hm hq => ?_, fun hne => ?_⟩
  · obtain hc | ⟨row, rfl⟩ := hmem c hc
    · exact State.place_of_mem h hc
    · rfl
  · rw [hnone] at hop'
    cases hop'
  · by_cases hq : op.claim.isOf q = true
    · exact ((h.completed_unclaimed hcirc hq).congr harb).regKept (hnew q hq).1
    · have hq' : op.claim.isOf q = false := Bool.eq_false_iff.2 hq
      have hsub := s.completed_filter_isOf op q
      rw [← harb] at hsub
      obtain ⟨hcount, hpends, -, hdiscards⟩ := h.reg q
      have hkind : s.operationKind q = none := by simp [State.operationKind, hop, hq']
      refine ⟨?_, fun c hc hcq => ?_, fun op' hop' => ?_, fun hd => ?_⟩
      · rw [State.operationKind, hnone]
        rw [hkind] at hcount
        exact (Nat.add_le_add_right hsub.length_le _).trans hcount
      · rw [hlr q hq']
        exact hpends c (List.mem_of_mem_filter (hsub.subset (List.mem_filter.2 ⟨hc, hcq⟩))) hcq
      · rw [hnone] at hop'
        cases hop'
      · rw [hlr q hq'] at hd
        exact absurd hkind (hdiscards hd)
  · obtain hc | ⟨row, rfl⟩ := hmem c hc
    · rw [hstr]
      exact h.commits c hc hk r m hcl hr
    · cases hk
  · rw [hstr] at hm
    by_cases hop' : op.claim.isOf q = true
    · exact (hnew q hop').2.1 m hq hm
    · rw [hlr q (Bool.eq_false_iff.2 hop')]
      exact h.idle m q hm hq
  · rw [hphase]
    by_cases hop' : op.claim.isOf .lr4 = true
    · exact (hnew .lr4 hop').2.2 rfl hne
    · rw [hlr _ (Bool.eq_false_iff.2 hop')] at hne
      exact h.lr4 hne

/-- An operation that is not to be discarded leaves the law. -/
theorem completed (hd : ∀ q, op.claim.isOf q = true → (s.lr q).discardPending = none) : (s.completed op).regsKept :=
  h.freed hcirc (fun q _ => by simp) (fun q hq => ⟨by simpa using hd q hq, fun m hm hidle => by
    simpa using h.idle m q hidle hm, fun e hne => by subst e; exact h.lr4 (by simpa using hne)⟩) rfl (by simp) (by simp)

/-- The operation's register is written at its completion. -/
theorem completed_setLr {x : LineReg} (hr : op.claim.isOf r = true) (hd : x.discardPending = none)
    (hidle : x.state = .empty ∨ (s.lr r).state ≠ .empty) : ((s.completed op).setLr r x).regsKept := by
  have hreg : ∀ q, op.claim.isOf q = true → q = r := fun q hq => by
    have e := (beq_iff_eq.1 hq).symm.trans (beq_iff_eq.1 hr)
    exact Option.some.inj e
  refine h.freed hcirc (fun q hq => ?_) (fun q hq => ?_) rfl (by simp) (by simp)
  · have hne : q ≠ r := fun e => by rw [e, hr] at hq; cases hq
    simp [hne]
  · obtain rfl := hreg q hq
    rw [State.lr_setLr, if_pos rfl]
    refine ⟨hd, fun m hm hst => ?_, fun e hne => ?_⟩
    · exact hidle.resolve_right fun hne => hne (h.idle m q hst hm)
    · subst e
      exact h.lr4 (hidle.resolve_left hne)

end Freed

/-! ## LR4 (R72, R74) -/

theorem setCopying (h : s.regsKept) : (s.setPhase .copying).regsKept where
  place := h.place
  reg q := (h.reg q).congr rfl rfl rfl rfl
  commits := h.commits
  idle := h.idle
  lr4 _ := rfl

theorem startCopy (h : s.regsKept) (job : CopyJob) (hu : s.unclaimed .lr4) : (s.startCopy job).regsKept := by
  have hloading := h.setCopying.setLr (r := .lr4)
    (x := { s.lrb.lr4.cleared none with state := .loading, copy := some job }) hu rfl (fun _ hm => by cases hm)
    fun _ _ => rfl
  exact hloading.raiseOf (c := ⟨.copyLoad, job.source, .requestEngine, .host⟩) (r := .lr4) hu rfl rfl rfl
    fun hk => by cases hk

/-- LR4's discarded operation completes: it is EMPTY and free, and a COPY_ROW that waits begins. -/
theorem lr4Discarded (h : s.regsKept) {op : Operation} (hcirc : s.arb.circuit = .operating op)
    (hr : op.claim.isOf .lr4 = true) (hempty : s.lrb.lr4.state = .empty) : (s.completed op).lr4Discarded.regsKept := by
  have hfreed := h.completed_setLr hcirc (x := { (s.completed op).lrb.lr4 with discardPending := none }) hr rfl
    (.inl (by simpa using hempty))
  simp only [State.lr4Discarded]
  split
  · exact hfreed.startCopy _ (h.completed_unclaimed hcirc hr)
  · exact hfreed

/-! ## Completions -/

section Completions

variable (h : s.regsKept) {op : Operation} (tie : TieOrder) (hc : s.completing = some op)
include h hc

/-- The operation is its register's: what its register is, as the operation is to be discarded or not. -/
theorem completing_reg (hr : op.claim.isOf r = true) :
    ((s.lr r).discardPending = op.claim.kind.discardKind ∧ (s.lr r).state = .empty)
      ∨ ((s.lr r).discardPending = none ∧ (s.lr r).state ≠ .empty) := by
  have hop := (State.inFlight_eq_some _).2 (State.completing_spec hc).2.1
  obtain ⟨hempty, hd⟩ | ⟨hd, hruns⟩ := (h.reg r).runs op hop hr
  · exact .inl ⟨hd, hempty⟩
  · exact .inr ⟨hd, fun e => by rw [e] at hruns; cases hk : op.claim.kind <;> rw [hk] at hruns <;> cases hruns⟩

/-- An operation of no register. -/
theorem completed_other (hk : op.claim.kind.discardKind = none) : (s.completed op).regsKept := by
  have hop := (State.inFlight_eq_some _).2 (State.completing_spec hc).2.1
  exact h.completed (State.completing_spec hc).2.1 fun q hq =>
    absurd hk (Claim.discardKind_of_isOf (State.place_of_inFlight h hop) hq)

theorem loadCompletion (hk : op.claim.kind = .load) (hcl : op.claim.claimant = .register r) (hr : streamOf r = some n) :
    (loadCompletion tie s).regsKept := by
  have hcirc := (State.completing_spec hc).2.1
  have hof : op.claim.isOf r = true := by simp [Claim.isOf, Claim.register?, hcl]
  obtain ⟨hd, hempty⟩ | ⟨hd, hheld⟩ := h.completing_reg hc hof
  · rw [loadCompletion_discarded tie hc hk hcl hr (by rw [hd, hk]; rfl)]
    exact State.regsKept.conclude (((h.completed_setLr hcirc hof rfl (.inl (by simpa using hempty))).streamTakes).checkStopped) tie
  · have hne : (s.lr r).discardPending ≠ some .load := by rw [hd]; simp
    cases hg : (s.lr r).segment with
    | some g =>
      rw [loadCompletion_loaded tie hc hk hcl hr hne hg]
      exact ((h.completed_setLr hcirc hof (by simpa [LineReg.loadedWith] using hd) (.inr hheld)).playLoaded g _).conclude tie
    | none =>
      rw [loadCompletion_unheld tie hc hk hcl hr hne hg]
      exact (h.completed hcirc fun q hq => by
        obtain rfl : q = r := Option.some.inj ((beq_iff_eq.1 hq).symm.trans (beq_iff_eq.1 hof))
        exact hd).settle

theorem commitCompletion (hk : op.claim.kind = .commit) (hcl : op.claim.claimant = .register r)
    (hr : streamOf r = some n) : (commitCompletion tie s).regsKept := by
  have hcirc := (State.completing_spec hc).2.1
  have hof : op.claim.isOf r = true := by simp [Claim.isOf, Claim.register?, hcl]
  obtain ⟨hd, hempty⟩ | ⟨hd, hheld⟩ := h.completing_reg hc hof
  · rw [commitCompletion_discarded tie hc hk hcl hr (by rw [hd, hk]; rfl)]
    exact State.regsKept.conclude (((h.completed_setLr hcirc hof rfl (.inl (by simpa using hempty))).streamTakes).checkStopped) tie
  · have hne : (s.lr r).discardPending ≠ some .commit := by rw [hd]; simp
    have hdone : (s.completed op).regsKept := h.completed hcirc fun q hq => by
      obtain rfl : q = r := Option.some.inj ((beq_iff_eq.1 hq).symm.trans (beq_iff_eq.1 hof))
      exact hd
    cases hg : (s.lr r).segment with
    | some g =>
      rw [commitCompletion_committed tie hc hk hcl hr hne hg]
      exact (hdone.capCommitted _ g hr (h.completed_unclaimed hcirc hof)).conclude tie
    | none =>
      rw [commitCompletion_unheld tie hc hk hcl hr hne hg]
      exact hdone.settle

/-- A COPY_LOAD or COPY_COMMIT is LR4's. -/
theorem isOf_lr4 (hk : op.claim.kind = .copyLoad ∨ ∃ m, op.claim.kind = .copyCommit m) :
    op.claim.isOf .lr4 = true := by
  have hop := (State.inFlight_eq_some _).2 (State.completing_spec hc).2.1
  have hplace := State.place_of_inFlight h hop
  obtain hk | ⟨m, hk⟩ := hk
  all_goals
    simp only [Claim.inPlace, hk, Bool.and_eq_true, beq_iff_eq] at hplace
    simp [Claim.isOf, Claim.register?, hk, hplace.1]

theorem copyLoadCompletion (hk : op.claim.kind = .copyLoad) : (copyLoadCompletion s).regsKept := by
  have hcirc := (State.completing_spec hc).2.1
  have hof := h.isOf_lr4 hc (.inl hk)
  obtain ⟨hd, hempty⟩ | ⟨hd, hheld⟩ := h.completing_reg hc hof
  · rw [copyLoadCompletion_discarded hc hk (by rw [hk] at hd; exact hd)]
    exact (h.lr4Discarded hcirc hof hempty).settle
  · have hne : s.lrb.lr4.discardPending ≠ some .copyLoad := fun e => by
      rw [show s.lrb.lr4.discardPending = none from hd] at e
      cases e
    cases hj : s.lrb.lr4.copy with
    | some job =>
      rw [copyLoadCompletion_loaded hc hk hne hj]
      have hloaded := h.completed_setLr hcirc (r := .lr4)
        (x := s.lrb.lr4.loadedWith (s.rowCells op.claim.row) (s.row op.claim.row).lost s.clock) hof hd (.inr hheld)
      exact (hloaded.raiseOf (r := .lr4) (h.completed_unclaimed hcirc hof) rfl rfl rfl fun hk => by cases hk).settle
    | none =>
      rw [copyLoadCompletion_unheld hc hk hne hj]
      exact (h.completed hcirc fun q hq => by
        obtain rfl : q = .lr4 := Option.some.inj ((beq_iff_eq.1 hq).symm.trans (beq_iff_eq.1 hof))
        exact hd).settle

theorem copyCommitCompletion {sections : SectionSet} (hk : op.claim.kind = .copyCommit sections) :
    (copyCommitCompletion tie s).regsKept := by
  have hcirc := (State.completing_spec hc).2.1
  have hof := h.isOf_lr4 hc (.inr ⟨_, hk⟩)
  obtain ⟨hd, hempty⟩ | ⟨hd, hheld⟩ := h.completing_reg hc hof
  · rw [copyCommitCompletion_discarded tie hc hk (by rw [hk] at hd; exact hd)]
    exact (h.lr4Discarded hcirc hof hempty).settle
  · have hne : s.lrb.lr4.discardPending ≠ some .copyCommit := fun e => by
      rw [show s.lrb.lr4.discardPending = none from hd] at e
      cases e
    rw [copyCommitCompletion_copied tie hc hk hne]
    exact ((h.completed_setLr hcirc (r := .lr4) (x := s.lrb.lr4.cleared none) hof rfl (.inl rfl)).finish _ _ _
      (by simp [LineReg.cleared, LineReg.atInit])).conclude tie

theorem fillCompletion {value : CellVal} {mask : SectionSet} (hk : op.claim.kind = .fill value mask) :
    (fillCompletion tie s).regsKept := by
  have hdone := h.completed_other hc (by rw [hk]; rfl)
  cases hd : op.discarded with
  | true =>
    rw [fillCompletion_discarded tie hc hk hd]
    exact hdone.settle
  | false =>
    by_cases hp : ∃ first last current v m, s.rqe.phase = .filling first last current v m
    · obtain ⟨first, last, current, v, m, hp⟩ := hp
      by_cases hrow : current < last
      · rw [fillCompletion_next tie hc hk hd hp hrow]
        exact ((hdone.raiseOther rfl (by simp) rfl).setPhase _ (by simp [hp])).settle
      · rw [fillCompletion_last tie hc hk hd hp hrow]
        exact (hdone.finish_of_phase _ _ _ (by simp [hp])).conclude tie
    · rw [fillCompletion_unasked tie hc hk hd (by simpa using hp)]
      exact hdone.settle

theorem refreshCompletion (hk : op.claim.kind = .refresh) : (refreshCompletion tie s).regsKept := by
  have hdone := h.completed_other hc (by rw [hk]; rfl)
  by_cases hp : op.claim.cls = .host ∧ op.discarded = false ∧ ∃ first last current, s.rqe.phase = .refreshing first last current
  · obtain ⟨hh, hd, first, last, current, hp⟩ := hp
    by_cases hrow : current < last
    · rw [refreshCompletion_next tie hc hk hh hd hp hrow]
      exact ((hdone.raiseOther rfl (by simp) rfl).setPhase _ (by simp [hp])).settle
    · rw [refreshCompletion_last tie hc hk hh hd hp hrow]
      exact (hdone.finish_of_phase _ _ _ (by simp [hp])).conclude tie
  · rw [refreshCompletion_unasked tie hc hk fun hh hd first last current e => hp ⟨hh, hd, first, last, current, e⟩]
    exact hdone.settle

theorem scrubCompletion (hk : op.claim.kind = .scrub) : (scrubCompletion s).regsKept := by
  rw [scrubCompletion_scrubbed hc hk]
  have hdone := h.completed_other hc (by rw [hk]; rfl)
  apply State.regsKept.settle
  unfold State.initDone
  split
  · refine State.regsKept.report ?_ _
    exact hdone.congr rfl (fun _ => rfl) (fun _ => ⟨rfl, rfl⟩) rfl
  · exact hdone

theorem openCompletion (hk : op.claim.kind = .openRow) : (openCompletion tie s).regsKept := by
  have hdone := h.completed_other hc (by rw [hk]; rfl)
  have hfree : (s.completed op).arb.circuit.noOperation = true := by rw [State.completed_circuit]; rfl
  cases hd : op.discarded with
  | true =>
    rw [openCompletion_discarded tie hc hk hd]
    exact hdone.settle
  | false =>
    by_cases ho : ∃ k, s.rqe.phase = .opening k
    · obtain ⟨k, ho⟩ := ho
      rw [openCompletion_opened tie hc hk hd ho]
      exact ((((hdone.setCircuit (.held k op.claim.row) hfree rfl).setSlot k _).finish_of_phase _ _ _ (by simp [ho])).setSlot
        k _).conclude tie
    · by_cases hr : ∃ k job, s.rqe.phase = .reopening k job
      · obtain ⟨k, job, hr⟩ := hr
        rw [openCompletion_reopened tie hc hk hd hr]
        exact ((hdone.setSlot k _).setCircuit _ hfree rfl).setPhase _ (by simp [hr])
      · rw [openCompletion_unasked tie hc hk hd (by simpa using ho) (by simpa using hr)]
        exact hdone.settle

end Completions

/-! ## The end of a burst -/

theorem columnBurstEnd (h : s.regsKept) (tie : TieOrder) (hm : s.sessionsMatchCircuit) :
    (columnBurstEnd tie s).regsKept := by
  unfold Machine.columnBurstEnd
  split
  · next slot row job start hcirc =>
    have happlied : (s.applyBurst row job).regsKept := h.congr (by simp) (by simp) (by simp) (by simp)
    have hbusy : (s.applyBurst row job).arb.circuit.noOperation = true := by simp [hcirc, Circuit.noOperation]
    split
    · cases slot with
      | none => exact (happlied.setCircuit .free hbusy rfl).settle
      | some k =>
        have hphase : s.rqe.phase = .bursting := hm.2.2.2.1 k row job start hcirc
        exact (((happlied.setCircuit (.held k row) hbusy rfl).finish_of_phase _ _ _ (by simp [hphase])).setSlot k
          _).conclude tie
    · exact h
  · exact h

/-! ## Requests -/

section Requests

variable (h : s.regsKept) (tie : TieOrder)
include h

theorem answer (st : Status) (fl : Byte) (d : List Byte) (hfree : s.rqe.phase = .free) :
    ((s.finish st fl d).begun tie).regsKept :=
  (h.finish_of_phase st fl d (by rw [hfree]; simp)).begun tie

theorem goesOn (p : Phase) (hfree : s.rqe.phase = .free) : ((s.setPhase p).begun tie).regsKept :=
  (h.setPhase p (by rw [hfree]; simp)).begun tie

theorem identify : (identify tie s).regsKept := by
  unfold Machine.identify
  split
  · exact h
  · next hb =>
    obtain ⟨-, hfree, -⟩ := State.beginning_spec hb
    split <;> exact h.answer tie _ _ _ hfree

theorem status : (status tie s).regsKept := by
  unfold Machine.status
  split
  · exact h
  · next hb =>
    obtain ⟨-, hfree, -⟩ := State.beginning_spec hb
    split <;> exact h.answer tie _ _ _ hfree

theorem rowQuery : (rowQuery tie s).regsKept := by
  unfold Machine.rowQuery
  split
  · exact h
  · next hb =>
    obtain ⟨-, hfree, -⟩ := State.beginning_spec hb
    split
    · exact h.answer tie _ _ _ hfree
    · split <;> exact h.answer tie _ _ _ hfree

omit h in
/-- A fold of acts that each keep the law. -/
theorem foldl {α : Type} {f : State → α → State} (hf : ∀ u a, State.regsKept u → (f u a).regsKept) (l : List α) :
    s.regsKept → (l.foldl f s).regsKept := by
  induction l generalizing s with
  | nil => exact id
  | cons a l ih => exact fun hs => ih (hf s a hs)

theorem markCrossed (row : Nat) : (s.markCrossed row).regsKept :=
  h.congr rfl (fun _ => rfl) (fun _ => ⟨rfl, rfl⟩) rfl

theorem setMode (m : RefreshMode) : (s.setMode m).regsKept := by
  unfold State.setMode
  split
  · exact h
  · cases m
    · have hauto : State.regsKept { s with rfe := { s.rfe with mode := .auto } } :=
        h.congr rfl (fun _ => rfl) (fun _ => ⟨rfl, rfl⟩) rfl
      exact (foldl (fun u row hu => hu.raiseUrgent row) _ hauto).checkRoutine
    · have hhosted : State.regsKept { s with rfe := { s.rfe with mode := .hosted } } :=
        h.congr rfl (fun _ => rfl) (fun _ => ⟨rfl, rfl⟩) rfl
      exact foldl (f := fun u row => (u.markCrossed row).report (.rowAging row))
        (fun u row hu => (markCrossed hu row).report _) _ (hhosted.withdraw _)

theorem applySettings (m : Option RefreshMode) (v k : Option CellVal) : (s.applySettings m v k).regsKept := by
  unfold State.applySettings
  cases m with
  | none => cases v <;> cases k <;> exact h.congr rfl (fun _ => rfl) (fun _ => ⟨rfl, rfl⟩) rfl
  | some m =>
    cases v <;> cases k <;> refine State.regsKept.setMode ?_ m <;>
      exact h.congr rfl (fun _ => rfl) (fun _ => ⟨rfl, rfl⟩) rfl

theorem configure : (configure tie s).regsKept := by
  simp only [Machine.configure]
  split
  · exact h
  · next hb =>
    obtain ⟨-, hfree, -⟩ := State.beginning_spec hb
    split
    · exact h.answer tie _ _ _ hfree
    · split
      · exact (h.applySettings _ _ _).answer tie _ _ _ (by simpa using hfree)
      · exact h.answer tie _ _ _ hfree

theorem fillRows : (fillRows tie s).regsKept := by
  simp only [Machine.fillRows]
  split
  · exact h
  · next hb =>
    obtain ⟨-, hfree, -⟩ := State.beginning_spec hb
    split
    · exact h.answer tie _ _ _ hfree
    · split_ifs
      · exact h.answer tie _ _ _ hfree
      · exact h.answer tie _ _ _ hfree
      · exact State.regsKept.goesOn (h.raiseOther rfl (by simp) rfl) tie _ hfree

theorem refresh : (refresh tie s).regsKept := by
  simp only [Machine.refresh]
  split
  · exact h
  · next hb =>
    obtain ⟨-, hfree, -⟩ := State.beginning_spec hb
    split
    · exact h.answer tie _ _ _ hfree
    · split_ifs
      · exact h.answer tie _ _ _ hfree
      · exact h.answer tie _ _ _ hfree
      · exact State.regsKept.goesOn (h.raiseOther rfl (by simp) rfl) tie _ hfree

/-- LR4 is EMPTY while no request is in execution, and COPY_ROW waits for what it has to discard. -/
theorem copyRow : (copyRow tie s).regsKept := by
  unfold Machine.copyRow
  split
  · exact h
  · next hb =>
    obtain ⟨-, hfree, -⟩ := State.beginning_spec hb
    split
    · exact h.answer tie _ _ _ hfree
    · split_ifs with _ _ hdiscard
      · exact h.answer tie _ _ _ hfree
      · exact h.answer tie _ _ _ hfree
      · exact h.goesOn tie _ hfree
      · refine (h.startCopy _ (h.unclaimed_of_free ?_)).begun tie
        have hempty : (s.lr .lr4).state = .empty := by_contra fun hne => by
          have := h.lr4 hne
          rw [hfree] at this
          cases this
        have hd : (s.lr .lr4).discardPending = none := Option.not_isSome_iff_eq_none.1 hdiscard
        simp [LineReg.isFree, hempty, hd]

theorem openRow : (openRow tie s).regsKept := by
  simp only [Machine.openRow]
  split
  · exact h
  · next hb =>
    obtain ⟨-, hfree, -⟩ := State.beginning_spec hb
    split
    · exact h.answer tie _ _ _ hfree
    · split_ifs
      · exact h.answer tie _ _ _ hfree
      · exact h.answer tie _ _ _ hfree
      · split
        · exact h.answer tie _ _ _ hfree
        · exact State.regsKept.goesOn ((h.setSlot _ _).raiseOther rfl (by simp) rfl) tie _ hfree

theorem close : (close tie s).regsKept := by
  unfold Machine.close
  split
  · exact h
  · next hb =>
    obtain ⟨-, hfree, -⟩ := State.beginning_spec hb
    split
    · exact h.answer tie _ _ _ hfree
    · split
      · exact h.answer tie _ _ _ hfree
      · exact (h.closeHeld.setSlot _ _).answer tie _ _ _ (by simpa using hfree)

theorem raiseReopen (k : SlotId) (job : ColumnJob) (hc : s.rqe.phase ≠ .copying) : (s.raiseReopen k job).regsKept :=
  (h.raiseOther rfl (by simp) rfl).setPhase _ hc

theorem reopen (k : SlotId) (job : ColumnJob) (hc : s.rqe.phase ≠ .copying) : (s.reopen k job tie).regsKept := by
  cases tie
  · exact (h.closeHeld.settle.raiseReopen k job (by simpa using hc)).settle
  · exact (h.raiseReopen k job hc).closeHeld.settle

theorem columnRequest (f : ColumnFields) (hfree : s.rqe.phase = .free) : (s.columnRequest f tie).regsKept := by
  simp only [State.columnRequest]
  split
  · exact h.answer tie _ _ _ hfree
  · next k _ =>
    have hstopped : (s.stopIdle k).regsKept := h.setSlot k _
    have hc : (s.stopIdle k).rqe.phase ≠ .copying := by simp [hfree]
    split
    · have hanswered : (((s.stopIdle k).refuse .range).restartIdle k).regsKept :=
        (hstopped.finish_of_phase _ _ _ hc).setSlot k _
      split
      · split
        · exact hanswered.conclude tie
        · exact hanswered.begun tie
      · exact hanswered.begun tie
    · split
      · next hcirc =>
        split
        · split
          · exact (hstopped.setCircuit _ (by simp [hcirc, Circuit.noOperation]) rfl).setPhase _ hc
          · exact hstopped.reopen tie _ _ hc
        · exact hstopped.reopen .raiseFirst _ _ hc
      · exact hstopped.reopen .raiseFirst _ _ hc

theorem read : (read tie s).regsKept := by
  unfold Machine.read
  split
  · exact h
  · next hb =>
    obtain ⟨-, hfree, -⟩ := State.beginning_spec hb
    split
    · exact h.answer tie _ _ _ hfree
    · exact h.columnRequest tie _ hfree

theorem write : (write tie s).regsKept := by
  unfold Machine.write
  split
  · exact h
  · next hb =>
    obtain ⟨-, hfree, -⟩ := State.beginning_spec hb
    split
    · exact h.answer tie _ _ _ hfree
    · exact h.columnRequest tie _ hfree

theorem exchange : (exchange tie s).regsKept := by
  unfold Machine.exchange
  split
  · exact h
  · next hb =>
    obtain ⟨-, hfree, -⟩ := State.beginning_spec hb
    split
    · exact h.answer tie _ _ _ hfree
    · exact h.columnRequest tie _ hfree

/-- An unstarted stream's registers are EMPTY, so it has no COMMIT pending and may change its direction. -/
theorem setUp (d : Direction) (p : Policy) (fill : CellVal) (cyclic : Bool) (hn : (s.str n).unstarted = true) :
    (s.mapStr n fun x => x.setUp d p fill cyclic).regsKept := by
  simp only [StreamRec.unstarted, Bool.or_eq_true, beq_iff_eq] at hn
  have hempty : ∀ q, streamOf q = some n → (s.lr q).state = .empty := fun q hq => h.idle n q hn hq
  refine ⟨h.place, fun q => (h.reg q).congr rfl rfl rfl rfl, fun c hc hk q m hcl hq => ?_, fun m q hm hq => ?_, h.lr4⟩
  · rw [State.mapStr_str]
    split_ifs with hmn
    · subst hmn
      have hpend := (h.reg q).pends c hc (by simp [Claim.isOf, Claim.register?, hcl])
      rw [hempty q hq, hk] at hpend
      cases hpend
    · exact h.commits c hc hk q m hcl hq
  · rw [State.mapStr_str] at hm
    split_ifs at hm with hmn
    · exact hempty q (hmn ▸ hq)
    · exact h.idle m q hm hq

theorem streamSetup : (streamSetup tie s).regsKept := by
  unfold Machine.streamSetup
  split
  · exact h
  · next hb =>
    obtain ⟨-, hfree, -⟩ := State.beginning_spec hb
    split
    · exact h.answer tie _ _ _ hfree
    · split
      · exact h.answer tie _ _ _ hfree
      · split
        · exact h.answer tie _ _ _ hfree
        · next hn =>
          split
          · exact h.answer tie _ _ _ hfree
          · exact (h.setUp _ _ _ _ (by simpa using hn)).answer tie _ _ _ hfree

theorem streamAppend : (streamAppend tie s).regsKept := by
  simp only [Machine.streamAppend]
  split
  · exact h
  · next hb =>
    obtain ⟨-, hfree, -⟩ := State.beginning_spec hb
    split
    · exact h.answer tie _ _ _ hfree
    · split
      · exact h.answer tie _ _ _ hfree
      · split_ifs
        · exact h.answer tie _ _ _ hfree
        · exact h.answer tie _ _ _ hfree
        · exact h.answer tie _ _ _ hfree
        · exact (h.appendSegments _).answer tie _ _ _ (by simpa using hfree)

theorem streamStart : (streamStart tie s).regsKept := by
  unfold Machine.streamStart
  split
  · exact h
  · next hb =>
    obtain ⟨-, hfree, -⟩ := State.beginning_spec hb
    split
    · exact h.answer tie _ _ _ hfree
    · split
      · exact h.answer tie _ _ _ hfree
      · split_ifs
        · exact h.answer tie _ _ _ hfree
        · exact h.answer tie _ _ _ hfree
        · exact h.startStream.answer tie _ _ _ (by simpa using hfree)

theorem streamStop : (streamStop tie s).regsKept := by
  unfold Machine.streamStop
  split
  · exact h
  · next hb =>
    obtain ⟨-, hfree, -⟩ := State.beginning_spec hb
    split
    · exact h.answer tie _ _ _ hfree
    · split
      · exact h.answer tie _ _ _ hfree
      · split
        · exact h.answer tie _ _ _ hfree
        · split
          · exact h.answer tie _ _ _ hfree
          · exact (h.stopStream _ (by rw [hfree]; simp)).begun tie

theorem streamFlush : (streamFlush tie s).regsKept := by
  simp only [Machine.streamFlush]
  split
  · exact h
  · next hb =>
    obtain ⟨-, hfree, -⟩ := State.beginning_spec hb
    split
    · exact h.answer tie _ _ _ hfree
    · split
      · exact h.answer tie _ _ _ hfree
      · split
        · exact h.answer tie _ _ _ hfree
        · exact (h.mapRec _ fun _ => by exact ⟨rfl, rfl⟩).answer tie _ _ _ hfree

theorem streamQuery : (streamQuery tie s).regsKept := by
  unfold Machine.streamQuery
  split
  · exact h
  · next hb =>
    obtain ⟨-, hfree, -⟩ := State.beginning_spec hb
    split
    · exact h.answer tie _ _ _ hfree
    · split
      · exact h.answer tie _ _ _ hfree
      · exact h.answer tie _ _ _ hfree

end Requests

/-! ## Edges, timers and thresholds -/

section Events

variable (h : s.regsKept)
include h

theorem playbackEdge (n : StreamId) : (playbackEdge n s).regsKept := by
  unfold Machine.playbackEdge
  split
  · next hx => exact (h.playEdge hx.2).settle
  · exact h

theorem captureEdge (n : StreamId) (cell : CellVal) : (captureEdge n cell s).regsKept := by
  unfold Machine.captureEdge
  split
  · next hx => exact (h.capEdge cell hx.2).settle
  · exact h

theorem playbackHoldExpiry (r : LrId) : (playbackHoldExpiry r s).regsKept := by
  unfold Machine.playbackHoldExpiry
  split
  · next n g hr _ =>
    split
    · next hx => exact (h.playExpiry g hr hx.2.1 hx.2.2.2).settle
    · exact h
  · exact h

theorem captureHoldExpiry (r : LrId) : (captureHoldExpiry r s).regsKept := by
  unfold Machine.captureHoldExpiry
  split
  · next n g hr _ =>
    split
    · next hx => exact (h.capExpiry g hx.2.1).settle
    · exact h
  · exact h

theorem lr4HoldExpiry : (lr4HoldExpiry s).regsKept := by
  unfold Machine.lr4HoldExpiry
  split
  · exact ((h.emptyReg .lr4).finish _ _ _ (by rw [State.emptyReg_lr, if_pos rfl]; rfl)).settle
  · exact h

theorem idleExpiry (k : SlotId) : (idleExpiry k s).regsKept := by
  unfold Machine.idleExpiry
  split
  · split
    · exact (h.setSlot k _).report _
    · exact h
  · exact h

theorem routineThreshold : (routineThreshold s).regsKept := by
  unfold Machine.routineThreshold
  split
  · exact h.checkRoutine.settle
  · exact h

theorem urgentCrossing (row : Nat) : (urgentCrossing row s).regsKept := by
  have hcrossed := h.markCrossed row
  simp only [Machine.urgentCrossing]
  split
  · split
    · exact ((hcrossed.withdraw _).raiseUrgent row).settle
    · exact hcrossed.report _
  · exact h

theorem loseRow (row : Nat) : (s.loseRow row).regsKept := by
  refine State.regsKept.raiseOther ?_ rfl (by simp) rfl
  exact h.congr rfl (fun _ => rfl) (fun _ => ⟨rfl, rfl⟩) rfl

theorem deadline (row : Nat) : (deadline row s).regsKept := by
  simp only [Machine.deadline]
  split
  · exact ((h.loseRow row).report _).settle
  · exact h

/-- The SCRUBs of the scrub list are no register's. -/
theorem warmupEnd : (warmupEnd s).regsKept := by
  unfold Machine.warmupEnd
  split
  · next start hcirc =>
    split
    · apply State.regsKept.settle
      have hscrub : ∀ c ∈ s.rfe.scrubList.map fun row => (⟨.scrub, row, .rowTable, .scrub⟩ : Claim),
          c.inPlace = true ∧ c.kind ≠ .commit ∧ ∀ q, c.isOf q = false := fun c hc => by
        obtain ⟨row, -, rfl⟩ := List.mem_map.1 hc
        exact ⟨rfl, by simp, fun _ => rfl⟩
      have hnone : s.inFlight = none := by rw [State.inFlight, hcirc]
      have hfreed : ∀ t : State, t.arb.circuit = .free → t.inFlight = s.inFlight := fun t ht => by
        rw [hnone, State.inFlight, ht]
      refine ⟨State.place_of_subset (fun c hc => ?_) fun op hop => (by cases hop),
        fun q => (h.reg q).congr ?_ (hfreed _ rfl) rfl rfl, fun c hc hk => ?_, h.idle, h.lr4⟩
      · obtain hc | hc := List.mem_append.1 hc
        · exact State.place_of_mem h hc
        · exact (hscrub c hc).1
      · have hnil := List.filter_eq_nil_iff.2 fun c hc => Bool.eq_false_iff.1 ((hscrub c hc).2.2 q)
        refine (List.filter_append _ _).trans ?_
        rw [hnil, List.append_nil]
      · obtain hc | hc := List.mem_append.1 hc
        · exact h.commits c hc hk
        · exact absurd hk (hscrub c hc).2.1
    · exact h
  · exact h

end Events

/-! ## The link and the supply -/

/-- With every register EMPTY and none claimed, no register is to be written. -/
theorem of_empty (hplace : ∀ c, s.holdsClaim (fun d => d == c) = true → c.inPlace = true)
    (hreg : ∀ q, s.regKept q) (hempty : ∀ q, (s.lr q).state = .empty) : s.regsKept where
  place := hplace
  reg := hreg
  commits c hc hk r _ hcl _ := by
    have hpend := (hreg r).pends c hc (by simp [Claim.isOf, Claim.register?, hcl])
    rw [hempty, hk] at hpend
    cases hpend
  idle _ q _ _ := hempty q
  lr4 hne := absurd (hempty _) hne

/-- A RESET keeps the operation in flight, to be discarded if it is the host's. -/
theorem inFlight_of_abandoned (hcirc : t.arb.circuit = s.arb.circuit.abandoned) :
    t.inFlight = s.inFlight.map fun op => { op with discarded := op.discarded || op.claim.cls == .host } := by
  unfold State.inFlight
  rw [hcirc]
  cases s.arb.circuit <;> rfl

theorem regKept_abandoned {q : LrId} (h : s.regKept q) (hcirc : t.arb.circuit = s.arb.circuit.abandoned)
    (hclaims : t.arb.claims = s.arb.claims) (hlrb : t.lrb = s.lrb) : t.regKept q := by
  have hlr : t.lr q = s.lr q := by rw [State.lr, hlrb, State.lr]
  have hflight := inFlight_of_abandoned hcirc
  have hkind : t.operationKind q = s.operationKind q := by
    rw [State.operationKind, hflight, State.operationKind]
    cases s.inFlight <;> rfl
  obtain ⟨hcount, hpends, hruns, hdiscards⟩ := h
  refine ⟨by rwa [hclaims, hkind], by rwa [hclaims, hlr], fun op hop hopq => ?_, by rwa [hlr, hkind]⟩
  rw [hflight, Option.map_eq_some_iff] at hop
  obtain ⟨op', hop', rfl⟩ := hop
  rw [hlr]
  exact hruns op' hop' hopq

theorem resetRequest (h : s.regsKept) (req : Request) : (s.resetRequest req).regsKept := by
  have hemptied : s.regsEmptied.regsKept :=
    ((((((h.withdraw _).emptyReg .lr0).emptyReg .lr1).emptyReg .lr2).emptyReg .lr3).emptyReg .lr4)
  have hstate : ∀ q, (s.regsEmptied.lr q).state = .empty := fun q => by
    simp only [State.regsEmptied, State.emptyReg_lr]
    cases q <;> rfl
  obtain ⟨-, -, -, -, -, -, harb, hlrb, -⟩ := s.regsEmptied.slotsFreed_frame
  rw [State.resetRequest_eq]
  generalize s.regsEmptied.slotsFreed = u at harb hlrb
  have hcirc : (u.blocksReset req).arb.circuit = s.regsEmptied.arb.circuit.abandoned := by rw [← harb]; rfl
  have hclaims : (u.blocksReset req).arb.claims = s.regsEmptied.arb.claims := by rw [← harb]; rfl
  have hlrb : (u.blocksReset req).lrb = s.regsEmptied.lrb := hlrb
  refine State.regsKept.setMode ?_ .auto
  refine of_empty (State.place_of_subset (fun c hc => State.place_of_mem hemptied (hclaims ▸ hc)) fun op hop => ?_)
    (fun q => regKept_abandoned (hemptied.reg q) hcirc hclaims hlrb) fun q => by rw [State.lr, hlrb]; exact hstate q
  rw [inFlight_of_abandoned hcirc, Option.map_eq_some_iff] at hop
  obtain ⟨op', hop', rfl⟩ := hop
  exact State.place_of_inFlight (op := op') hemptied hop'

theorem powerOnValues (s : State) (start : Option Nat) : (s.powerOnValues start).regsKept := by
  have hreg : ∀ q, (s.powerOnValues start).lr q = .atInit := LineRegs.get_atInit
  have hu : ∀ q, (s.powerOnValues start).unclaimed q := fun q => ⟨fun c hc => (by cases hc), fun op hop => (by cases hop)⟩
  exact of_empty (fun c hc => by cases hc) (fun q => (hu q).regKept (by rw [hreg]; rfl)) fun q => by rw [hreg]; rfl

section Link

variable (h : s.regsKept)
include h

theorem removeSent (x : Transaction) (n : Nat) : (s.removeSent x n).regsKept := by
  unfold State.removeSent
  split
  · split
    · exact h
    · exact h.congr rfl (fun _ => rfl) (fun _ => ⟨rfl, rfl⟩) rfl
    · exact h.congr rfl (fun _ => rfl) (fun _ => ⟨rfl, rfl⟩) rfl
    · split <;> exact h.congr rfl (fun _ => rfl) (fun _ => ⟨rfl, rfl⟩) rfl
  · exact h

theorem admitFrame (bytes : List Byte) : (s.admitFrame bytes).regsKept := by
  unfold State.admitFrame
  split
  · exact h
  · split_ifs
    · exact h.resetRequest _
    · exact h.congr rfl (fun _ => rfl) (fun _ => ⟨rfl, rfl⟩) rfl
    · exact h

theorem transactionEnd (bits : List Bool) : (transactionEnd bits s).regsKept := by
  unfold Machine.transactionEnd
  split
  · split
    · apply State.regsKept.settle
      exact ((h.removeSent _ _).admitFrame _).congr rfl (fun _ => rfl) (fun _ => ⟨rfl, rfl⟩) rfl
    · exact h.congr rfl (fun _ => rfl) (fun _ => ⟨rfl, rfl⟩) rfl
  · exact h.congr rfl (fun _ => rfl) (fun _ => ⟨rfl, rfl⟩) rfl

theorem hcsFall : (hcsFall s).regsKept := by
  unfold Machine.hcsFall
  split <;> exact h.congr rfl (fun _ => rfl) (fun _ => ⟨rfl, rfl⟩) rfl

end Link

/-! ## Every step -/

theorem run (h : s.regsKept) (i : Instr) (hm : s.sessionsMatchCircuit) : (i.run s).regsKept := by
  have hpower : ∀ start, (s.powerOnValues start).regsKept := powerOnValues s
  have hdone : ∀ {kind : ClaimKind → Prop} {t : State}, completes s t kind → (∀ op, s.completing = some op →
      kind op.claim.kind → op.claim.wellPlaced = true → t.regsKept) → t.regsKept := fun hc hrun => by
    obtain rfl | ⟨op, hop, hk, hw⟩ := hc
    · exact h
    · exact hrun op hop hk hw
  cases i <;> simp only [Instr.run]
  case powerOn => exact (hpower _).congr rfl (fun _ => rfl) (fun _ => ⟨rfl, rfl⟩) rfl
  case powerLoss => exact (hpower _).congr rfl (fun _ => rfl) (fun _ => ⟨rfl, rfl⟩) rfl
  case hrstAssert =>
    unfold Machine.hrstAssert
    split_ifs
    · exact h
    · exact (hpower none).congr rfl (fun _ => rfl) (fun _ => ⟨rfl, rfl⟩) rfl
    · exact h.congr rfl (fun _ => rfl) (fun _ => ⟨rfl, rfl⟩) rfl
  case hrstDeassert =>
    unfold Machine.hrstDeassert
    split_ifs
    · exact (hpower _).congr rfl (fun _ => rfl) (fun _ => ⟨rfl, rfl⟩) rfl
    · exact h.congr rfl (fun _ => rfl) (fun _ => ⟨rfl, rfl⟩) rfl
    · exact h
  case warmupEnd => exact h.warmupEnd
  case loadCompletion m =>
    refine hdone (loadCompletion_completes s m.tie) fun op hc hk hw => ?_
    obtain ⟨r, n, hcl, hr⟩ := op.claim.register_of_wellPlaced hw (.inl hk)
    exact h.loadCompletion m.tie hc hk hcl hr
  case commitCompletion m =>
    refine hdone (commitCompletion_completes s m.tie) fun op hc hk hw => ?_
    obtain ⟨r, n, hcl, hr⟩ := op.claim.register_of_wellPlaced hw (.inr hk)
    exact h.commitCompletion m.tie hc hk hcl hr
  case copyLoadCompletion => exact hdone (copyLoadCompletion_completes s) fun op hc hk _ => h.copyLoadCompletion hc hk
  case copyCommitCompletion m =>
    exact hdone (copyCommitCompletion_completes s m.tie) fun op hc ⟨_, hk⟩ _ => h.copyCommitCompletion m.tie hc hk
  case fillCompletion m =>
    exact hdone (fillCompletion_completes s m.tie) fun op hc ⟨_, _, hk⟩ _ => h.fillCompletion m.tie hc hk
  case refreshCompletion m =>
    exact hdone (refreshCompletion_completes s m.tie) fun op hc hk _ => h.refreshCompletion m.tie hc hk
  case scrubCompletion => exact hdone (scrubCompletion_completes s) fun op hc hk _ => h.scrubCompletion hc hk
  case openCompletion tie => exact hdone (openCompletion_completes s tie) fun op hc hk _ => h.openCompletion tie hc hk
  case columnBurstEnd tie => exact h.columnBurstEnd tie hm
  case routineThreshold => exact h.routineThreshold
  case urgentCrossing row => exact h.urgentCrossing row
  case deadline row => exact h.deadline row
  case hcsFall => exact h.hcsFall
  case transactionEnd bits => exact h.transactionEnd bits
  case identify m => exact h.identify m.tie
  case status m => exact h.status m.tie
  case configure m => exact h.configure m.tie
  case openRow m => exact h.openRow m.tie
  case close m => exact h.close m.tie
  case read tie => exact h.read tie
  case write tie => exact h.write tie
  case exchange tie => exact h.exchange tie
  case fillRows m => exact h.fillRows m.tie
  case copyRow m => exact h.copyRow m.tie
  case refresh m => exact h.refresh m.tie
  case rowQuery m => exact h.rowQuery m.tie
  case streamSetup m => exact h.streamSetup m.tie
  case streamAppend m => exact h.streamAppend m.tie
  case streamStart m => exact h.streamStart m.tie
  case streamStop m => exact h.streamStop m.tie
  case streamFlush m => exact h.streamFlush m.tie
  case streamQuery m => exact h.streamQuery m.tie
  case playbackEdge n => exact h.playbackEdge n
  case captureEdge n cell => exact h.captureEdge n cell
  case playbackHoldExpiry r => exact h.playbackHoldExpiry r
  case captureHoldExpiry r => exact h.captureHoldExpiry r
  case lr4HoldExpiry => exact h.lr4HoldExpiry
  case idleExpiry k => exact h.idleExpiry k

end State.regsKept

/-- The registers' law holds after every step from a state whose sessions match its circuit. -/
theorem stepsKeepRegisters {s t : State} (hm : s.sessionsMatchCircuit) (h : s.registersMatchClaims)
    (hstep : step s = .next t) : t.registersMatchClaims := by
  rw [State.registersMatchClaims_iff] at h ⊢
  have hboth : t.sessionsMatchCircuit ∧ t.regsKept :=
    step_keeps (P := fun u => u.sessionsMatchCircuit ∧ u.regsKept)
      (fun _ _ hp => ⟨matched_congr hp.1 rfl (fun _ => rfl) rfl rfl rfl, hp.2.congr rfl (fun _ => rfl) (fun _ => ⟨rfl, rfl⟩) rfl⟩)
      (fun _ _ hp => ⟨matched_congr hp.1 rfl (fun _ => rfl) rfl rfl rfl, hp.2.congr rfl (fun _ => rfl) (fun _ => ⟨rfl, rfl⟩) rfl⟩)
      (fun i _ _ hp => ⟨matched_run i hp.1, hp.2.run i hp.1⟩) s t ⟨hm, h⟩ hstep
  exact hboth.2

end

end Sys2Proof.Machine
end

section
/-! PROOF. A stream's segments, queued, held, overrun and waiting, never exceed 32 (R80, R110). -/

namespace Sys2Proof.Machine

/-- The segments a record lists: those queued, the overrun one, and the copies that wait. -/
def StreamRec.listed (x : StreamRec) : Nat :=
  x.queue.length + (if x.overrunSegment.isSome then 1 else 0) + x.waiting.length

/-- A register counts when it holds a segment. -/
def LineReg.held (x : LineReg) : Nat :=
  if x.segment.isSome then 1 else 0

/-- One segment of stream `n`, as stream `m` counts it. -/
def oneOf (n m : StreamId) : Nat :=
  if m = n then 1 else 0

section

variable {s t : State} {n m : StreamId} {r : LrId}

theorem State.heldRegs_length (s : State) (m : StreamId) :
    (s.heldRegs m).length = (s.lr (evenReg m)).held + (s.lr (oddReg m)).held := by
  simp only [State.heldRegs, LineReg.held]
  split
  · split <;> simp [*]
  all_goals simp [*]

theorem State.segmentTotal_eq (s : State) (m : StreamId) :
    s.segmentTotal m = (s.str m).listed + (s.lr (evenReg m)).held + (s.lr (oddReg m)).held := by
  simp only [State.segmentTotal, s.heldRegs_length, StreamRec.listed]
  omega

theorem LineReg.held_some {x : LineReg} {g : Segment} (h : x.segment = some g) : x.held = 1 := by
  simp [LineReg.held, h]

/-! ## What counts the same -/

theorem State.segmentTotal_congr (hstr : t.str m = s.str m)
    (hlr : ∀ q, streamOf q = some m → (t.lr q).segment = (s.lr q).segment) : t.segmentTotal m = s.segmentTotal m := by
  simp only [State.segmentTotal_eq, hstr, LineReg.held, hlr _ (streamOf_evenReg m), hlr _ (streamOf_oddReg m)]

section Frames

variable (s m)

@[simp] theorem State.report_segmentTotal (x : Notice) : (s.report x).segmentTotal m = s.segmentTotal m :=
  State.segmentTotal_congr (by simp) (by simp)

@[simp] theorem State.finish_segmentTotal (st : Status) (fl : Byte) (d : List Byte) :
    (s.finish st fl d).segmentTotal m = s.segmentTotal m :=
  State.segmentTotal_congr (by simp) (by simp)

@[simp] theorem State.refuse_segmentTotal (st : Status) : (s.refuse st).segmentTotal m = s.segmentTotal m :=
  s.finish_segmentTotal m st 0 []

@[simp] theorem State.setPhase_segmentTotal (p : Phase) : (s.setPhase p).segmentTotal m = s.segmentTotal m := rfl

@[simp] theorem State.setSlot_segmentTotal (k : SlotId) (x : Session) : (s.setSlot k x).segmentTotal m = s.segmentTotal m :=
  rfl

@[simp] theorem State.setCircuit_segmentTotal (c : Circuit) : (s.setCircuit c).segmentTotal m = s.segmentTotal m := rfl

@[simp] theorem State.raiseClaim_segmentTotal (c : Claim) : (s.raiseClaim c).segmentTotal m = s.segmentTotal m := rfl

@[simp] theorem State.withdraw_segmentTotal (p : Claim → Bool) : (s.withdraw p).segmentTotal m = s.segmentTotal m := rfl

@[simp] theorem State.closeHeld_segmentTotal : s.closeHeld.segmentTotal m = s.segmentTotal m :=
  State.segmentTotal_congr (by simp) (by simp)

@[simp] theorem State.settle_segmentTotal : s.settle.segmentTotal m = s.segmentTotal m :=
  State.segmentTotal_congr (by simp) fun q _ => by rw [State.settle_lr]

@[simp] theorem State.conclude_segmentTotal (tie : TieOrder) : (s.conclude tie).segmentTotal m = s.segmentTotal m :=
  State.segmentTotal_congr (by simp) fun q _ => by rw [State.conclude_lr]

@[simp] theorem State.begun_segmentTotal (tie : TieOrder) : (s.begun tie).segmentTotal m = s.segmentTotal m :=
  State.segmentTotal_congr (by simp) fun q _ => by rw [State.begun_lr]

@[simp] theorem State.completed_segmentTotal (op : Operation) : (s.completed op).segmentTotal m = s.segmentTotal m :=
  State.segmentTotal_congr (by simp) (by simp)

@[simp] theorem State.setLr4_segmentTotal (x : LineReg) : (s.setLr .lr4 x).segmentTotal m = s.segmentTotal m :=
  State.segmentTotal_congr (by simp) fun q hq => by simp [ne_lr4_of_streamOf hq]

@[simp] theorem State.startCopy_segmentTotal (j : CopyJob) : (s.startCopy j).segmentTotal m = s.segmentTotal m := by
  simp [State.startCopy]

@[simp] theorem State.lr4Discarded_segmentTotal : s.lr4Discarded.segmentTotal m = s.segmentTotal m := by
  simp only [State.lr4Discarded]
  split <;> simp

@[simp] theorem State.raiseReopen_segmentTotal (k : SlotId) (j : ColumnJob) :
    (s.raiseReopen k j).segmentTotal m = s.segmentTotal m := by
  simp [State.raiseReopen]

@[simp] theorem State.reopen_segmentTotal (k : SlotId) (j : ColumnJob) (tie : TieOrder) :
    (s.reopen k j tie).segmentTotal m = s.segmentTotal m := by
  cases tie <;> simp [State.reopen]

@[simp] theorem State.startBurst_segmentTotal (k : SlotId) (row : Nat) (j : ColumnJob) :
    (s.startBurst k row j).segmentTotal m = s.segmentTotal m := by
  simp [State.startBurst]

@[simp] theorem State.applySettings_segmentTotal (mode : Option RefreshMode) (v k : Option CellVal) :
    (s.applySettings mode v k).segmentTotal m = s.segmentTotal m :=
  State.segmentTotal_congr (by simp [State.str]) fun q _ => by simp [State.lr]

end Frames

/-! ## Records and registers -/

/-- A record is written: `a` segments fewer or `b` more. -/
theorem State.mapStr_segmentTotal {f : StreamRec → StreamRec} {a b : Nat}
    (hf : (f (s.str n)).listed + a ≤ (s.str n).listed + b) :
    (s.mapStr n f).segmentTotal m + a * oneOf n m ≤ s.segmentTotal m + b * oneOf n m := by
  have hlr : ∀ q, (s.mapStr n f).lr q = s.lr q := fun q => by simp
  simp only [State.segmentTotal_eq, State.mapStr_str, hlr, oneOf]
  split
  · next e => subst e; omega
  · omega

theorem State.mapStr_segmentTotal_le {f : StreamRec → StreamRec} (hf : (f (s.str n)).listed ≤ (s.str n).listed) :
    (s.mapStr n f).segmentTotal m ≤ s.segmentTotal m := by
  simpa using State.mapStr_segmentTotal (m := m) (a := 0) (b := 0) hf

/-- A stream's register is written: its segment less, or one more. -/
theorem State.setLr_segmentTotal {x : LineReg} (hr : streamOf r = some n) :
    (s.setLr r x).segmentTotal m + (s.lr r).held * oneOf n m = s.segmentTotal m + x.held * oneOf n m := by
  simp only [State.segmentTotal_eq, State.setLr_str, State.lr_setLr, oneOf]
  obtain rfl | rfl := streamOf_eq_some.1 hr <;> cases m <;> cases n <;> simp [evenReg, oddReg] <;> omega

theorem State.setLr_segmentTotal_le {x : LineReg} (hr : streamOf r = some n) (hx : x.held ≤ (s.lr r).held) :
    (s.setLr r x).segmentTotal m ≤ s.segmentTotal m := by
  have := State.setLr_segmentTotal (s := s) (x := x) (m := m) hr
  have := Nat.mul_le_mul_right (oneOf n m) hx
  omega

theorem State.emptyReg_segmentTotal (hr : streamOf r = some n) :
    (s.emptyReg r).segmentTotal m + (s.lr r).held * oneOf n m = s.segmentTotal m := by
  have hwritten : (s.emptyReg r).segmentTotal m + (s.lr r).held * oneOf n m
      = s.segmentTotal m + ((s.lr r).cleared (s.operationKind r)).held * oneOf n m := State.setLr_segmentTotal hr
  have hempty : ((s.lr r).cleared (s.operationKind r)).held = 0 := rfl
  simpa [hempty] using hwritten

theorem State.count_segmentTotal (f : Counters → Counters) : (s.count n f).segmentTotal m ≤ s.segmentTotal m :=
  State.mapStr_segmentTotal_le (by simp [StreamRec.listed])

theorem State.setLossReported_listed (x : StreamRec) (q : LrId) (b : Bool) :
    (x.setLossReported q b).listed = x.listed := by
  cases q <;> rfl

/-- A register takes the head of the queue. -/
theorem State.takeHead_segmentTotal {g : Segment} {rest : List Segment} (st : LrState) (hr : streamOf r = some n)
    (hq : (s.str n).queue = g :: rest) : (s.takeHead n r g rest st).segmentTotal m ≤ s.segmentTotal m := by
  simp only [State.takeHead, State.mapLr]
  generalize hu : s.mapStr n _ = u
  have htaken : u.segmentTotal m + 1 * oneOf n m ≤ s.segmentTotal m + 0 * oneOf n m := by
    rw [← hu]
    refine State.mapStr_segmentTotal ?_
    have hsame := State.setLossReported_listed (s.str n) r false
    have hqueue : ((s.str n).setLossReported r false).queue = g :: rest := by cases r <;> exact hq
    simp only [StreamRec.listed, hqueue, List.length_cons] at hsame ⊢
    omega
  have hheld : ∀ y : LineReg, y.segment = some g → (u.setLr r y).segmentTotal m ≤ u.segmentTotal m + oneOf n m :=
    fun y hy => by
      have := State.setLr_segmentTotal (s := u) (x := y) (m := m) hr
      rw [LineReg.held_some hy] at this
      omega
  exact (hheld _ rfl).trans (by omega)

theorem State.reportIf_segmentTotal (b : Bool) (x : Notice) : (s.reportIf b x).segmentTotal m = s.segmentTotal m := by
  unfold State.reportIf
  split <;> simp

theorem State.reportMark_segmentTotal (g : Segment) (b : Bool) : (s.reportMark n g b).segmentTotal m = s.segmentTotal m := by
  unfold State.reportMark
  split
  · exact State.reportIf_segmentTotal b _
  · rfl

/-! ## What both directions share -/

theorem State.streamToIdle_segmentTotal : (s.streamToIdle n).segmentTotal m ≤ s.segmentTotal m := by
  have hidle : (s.mapStr n fun x => { x with state := .idle, sd := none, smk := false, stopRequest := none }).segmentTotal m
      ≤ s.segmentTotal m := State.mapStr_segmentTotal_le (by simp [StreamRec.listed])
  simp only [State.streamToIdle]
  split <;> split <;> simpa using hidle

theorem State.stopNext_segmentTotal : (s.stopNext n).segmentTotal m ≤ s.segmentTotal m := by
  unfold State.stopNext
  split
  · exact State.streamToIdle_segmentTotal
  · exact State.mapStr_segmentTotal_le (by simp [StreamRec.listed])

theorem State.checkStopped_segmentTotal : (s.checkStopped n).segmentTotal m ≤ s.segmentTotal m := by
  unfold State.checkStopped
  split
  · exact State.streamToIdle_segmentTotal
  · exact le_rfl

theorem State.drain_segmentTotal : (s.drain n).segmentTotal m ≤ s.segmentTotal m := by
  simpa [State.drain] using State.mapStr_segmentTotal_le (s := s) (n := n) (m := m)
    (f := fun x => { x with state := .drained }) (by simp [StreamRec.listed])

/-! ## Capture -/

theorem State.capTake_segmentTotal : (s.capTake n).segmentTotal m ≤ s.segmentTotal m := by
  obtain e | ⟨q, g, rest, -, hfind, hq, e⟩ := s.capTake_cases n
  · rw [e]
  · have htaken := State.takeHead_segmentTotal (m := m) .active (State.streamOf_find hfind) hq
    rw [e]
    split
    · exact (State.mapStr_segmentTotal_le (by simp [StreamRec.listed])).trans htaken
    · exact htaken

/-- The copies that no longer wait are queued. -/
theorem State.releaseCopies_segmentTotal : (s.releaseCopies n).segmentTotal m ≤ s.segmentTotal m := by
  simp only [State.releaseCopies]
  refine State.mapStr_segmentTotal_le ?_
  have hsplit := List.length_eq_length_filter_add (l := (s.str n).waiting)
    fun x => (s.heldSeqs n).all fun q => decide (x.seq < q)
  simp only [StreamRec.listed, List.length_append, List.length_map]
  omega

theorem insertTaken_length (x : Taken) (l : List Taken) : (insertTaken x l).length = l.length + 1 := by
  induction l with
  | nil => rfl
  | cons y l ih =>
    unfold insertTaken
    split
    · rfl
    · simp [ih]

/-- A finished segment counts again in a ring. -/
theorem State.capFinish_segmentTotal (x : Taken) : (s.capFinish n x).segmentTotal m ≤ s.segmentTotal m + oneOf n m := by
  simp only [State.capFinish]
  split
  · generalize hu : State.releaseCopies _ n = u
    have hjoined : u.segmentTotal m ≤ s.segmentTotal m + oneOf n m := by
      rw [← hu]
      refine State.releaseCopies_segmentTotal.trans ?_
      have := State.mapStr_segmentTotal (s := s) (n := n) (m := m) (a := 0) (b := 1)
        (f := fun y => if ((s.heldSeqs n).all fun q => decide (x.seq < q)) = true then
          { y with queue := y.queue ++ [x.segment] } else { y with waiting := insertTaken x y.waiting }) (by
          split <;> simp only [StreamRec.listed, List.length_append, insertTaken_length, List.length_singleton] <;> omega)
      simpa using this
    split
    · exact (State.mapStr_segmentTotal_le (by simp [StreamRec.listed])).trans hjoined
    · exact hjoined
  · omega

theorem State.capAbandonCount_segmentTotal (given : Nat) :
    (s.capAbandonCount n given).segmentTotal m ≤ s.segmentTotal m :=
  State.count_segmentTotal _

theorem State.capAbandonOverrun_segmentTotal {x : Taken} (cells : Nat) (hx : (s.str n).overrunSegment = some x) :
    (s.capAbandonOverrun n x cells).segmentTotal m ≤ s.segmentTotal m := by
  simp only [State.capAbandonOverrun]
  generalize hu : (s.report (.segmentAbandoned n x.segment.row .overrun cells)).capAbandonCount n 0 = u
  have hstr : (u.str n).overrunSegment = some x := by
    rw [← hu]
    simpa [State.capAbandonCount, State.count, State.mapStr_str] using hx
  have hcounted : u.segmentTotal m ≤ s.segmentTotal m := by
    rw [← hu]
    exact (State.capAbandonCount_segmentTotal 0).trans (by simp)
  have hless := State.mapStr_segmentTotal (s := u) (n := n) (m := m) (a := 1) (b := 0)
    (f := fun y => { y with overrunSegment := none, overrunCount := 0 }) (by simp [StreamRec.listed, hstr])
  have hdone := State.capFinish_segmentTotal (n := n) (m := m) (s := u.mapStr n fun y =>
    { y with overrunSegment := none, overrunCount := 0 }) x
  omega

theorem State.raiseCommit_segmentTotal (g : Segment) : (s.raiseCommit r g).segmentTotal m = s.segmentTotal m := rfl

/-- A register gives its segment up, and what follows may count it again. -/
theorem State.emptyReg_gives {f : State → State} {g : Segment} (hr : streamOf r = some n) (hg : (s.lr r).segment = some g)
    (hf : ∀ u : State, (f u).segmentTotal m ≤ u.segmentTotal m + oneOf n m) :
    (f (s.emptyReg r)).segmentTotal m ≤ s.segmentTotal m := by
  have hempty := State.emptyReg_segmentTotal (s := s) (m := m) hr
  rw [LineReg.held_some hg] at hempty
  have := hf (s.emptyReg r)
  omega

theorem State.capStopReceiving_segmentTotal {g : Segment} (hr : streamOf r = some n) (hg : (s.lr r).segment = some g) :
    (s.capStopReceiving n r g).segmentTotal m ≤ s.segmentTotal m := by
  simp only [State.capStopReceiving]
  split
  · refine State.emptyReg_gives (f := fun u => (u.mapStr n fun y => { y with queue := g :: y.queue }).releaseCopies n)
      hr hg fun u => State.releaseCopies_segmentTotal.trans ?_
    simpa using State.mapStr_segmentTotal (s := u) (n := n) (m := m) (a := 0) (b := 1)
      (f := fun y => { y with queue := g :: y.queue }) (by simp only [StreamRec.listed, List.length_cons]; omega)
  · split
    · refine (State.emptyReg_gives (f := fun u => u.capFinish n _) hr (by simpa using hg) fun u =>
        State.capFinish_segmentTotal _).trans ((State.capAbandonCount_segmentTotal _).trans (by simp))
    · rw [State.raiseCommit_segmentTotal]

theorem State.abandonOverrun_segmentTotal : (s.abandonOverrun n).segmentTotal m ≤ s.segmentTotal m := by
  unfold State.abandonOverrun
  split
  · next x hx => exact State.capAbandonOverrun_segmentTotal _ hx
  · exact le_rfl

theorem State.stopReceiving_segmentTotal : (s.stopReceiving n).segmentTotal m ≤ s.segmentTotal m := by
  unfold State.stopReceiving
  split
  · next q hq =>
    split
    · next g hg => exact State.capStopReceiving_segmentTotal (State.streamOf_receiving hq) hg
    · exact le_rfl
  · exact le_rfl

theorem State.capStopEffect_segmentTotal : (s.capStopEffect n).segmentTotal m ≤ s.segmentTotal m := by
  rw [State.capStopEffect_eq]
  exact State.stopNext_segmentTotal.trans (State.stopReceiving_segmentTotal.trans State.abandonOverrun_segmentTotal)

theorem State.capRangeFull_segmentTotal : (s.capRangeFull n).segmentTotal m ≤ s.segmentTotal m := by
  unfold State.capRangeFull
  split_ifs
  · exact State.capStopEffect_segmentTotal
  · exact State.drain_segmentTotal
  · exact State.capTake_segmentTotal

theorem State.capReceive_segmentTotal (g : Segment) (cell : CellVal) (hr : streamOf r = some n) :
    (s.capReceive n r g cell).segmentTotal m ≤ s.segmentTotal m := by
  simp only [State.capReceive]
  generalize hu : s.mapStr n _ = u
  have hcounted : u.segmentTotal m ≤ s.segmentTotal m := by
    rw [← hu]
    exact State.mapStr_segmentTotal_le (by simp [StreamRec.listed])
  have hreceived : (u.mapLr r fun x => x.received g cell s.clock).segmentTotal m ≤ u.segmentTotal m :=
    State.setLr_segmentTotal_le hr le_rfl
  split
  · exact State.capRangeFull_segmentTotal.trans (hreceived.trans hcounted)
  · exact hreceived.trans hcounted

theorem State.capDiscard_segmentTotal : (s.capDiscard n).segmentTotal m ≤ s.segmentTotal m :=
  State.count_segmentTotal _

theorem State.capOverrunEnd_segmentTotal {x : Taken} (hx : (s.str n).overrunSegment = some x) :
    (s.capOverrunEnd n x).segmentTotal m ≤ s.segmentTotal m := by
  have habandoned := State.capAbandonOverrun_segmentTotal (m := m) x.segment.range hx
  simp only [State.capOverrunEnd]
  split
  · exact State.drain_segmentTotal.trans habandoned
  · exact State.capTake_segmentTotal.trans habandoned

/-- The overrun segment is counted from its first cell on. -/
theorem State.capOverrunCount_segmentTotal (x : Taken) (before k : Nat)
    (hx : (s.str n).overrunSegment.isSome = true ∨ k = 1) :
    (s.capOverrunCount n x before).segmentTotal m ≤ s.segmentTotal m + k * oneOf n m := by
  simp only [State.capOverrunCount]
  generalize hu : s.mapStr n _ = u
  have hcounted : u.segmentTotal m ≤ s.segmentTotal m + k * oneOf n m := by
    rw [← hu]
    have := State.mapStr_segmentTotal (s := s) (n := n) (m := m) (a := 0) (b := k) (f := fun y =>
      { y with
        state := .overrun
        overrunSegment := some x
        overrunCount := before + 1
        counters := { y.counters with
          starvedCells := satAdd y.counters.starvedCells 1
          discarded := satAdd y.counters.discarded 1 } }) (by
      simp only [StreamRec.listed, Option.isSome_some, if_true]
      obtain hx | rfl := hx
      · rw [if_pos hx]; omega
      · split <;> omega)
    simpa using this
  split
  · refine (State.capOverrunEnd_segmentTotal ?_).trans hcounted
    rw [← hu, State.mapStr_str, if_pos rfl]
  · exact hcounted

theorem State.capOverrunTake_segmentTotal {g : Segment} {rest : List Segment} (hq : (s.str n).queue = g :: rest) :
    (s.capOverrunTake n g rest).segmentTotal m ≤ s.segmentTotal m := by
  simp only [State.capOverrunTake]
  have htaken := State.mapStr_segmentTotal (s := s) (n := n) (m := m) (a := 1) (b := 0)
    (f := fun x => { x with queue := rest, taken := (s.str n).taken + 1 }) (by
      simp only [StreamRec.listed, hq, List.length_cons]; omega)
  have hcounted := State.capOverrunCount_segmentTotal (m := m) (n := n)
    (s := s.mapStr n fun x => { x with queue := rest, taken := (s.str n).taken + 1 }) ⟨(s.str n).taken, g⟩ 0 1 (.inr rfl)
  omega

theorem State.capEdge_segmentTotal (cell : CellVal) : (s.capEdge n cell).segmentTotal m ≤ s.segmentTotal m := by
  have hdrain : ((s.drain n).capDiscard n).segmentTotal m ≤ s.segmentTotal m :=
    State.capDiscard_segmentTotal.trans State.drain_segmentTotal
  unfold State.capEdge
  split
  case h_5 | h_6 => exact State.capDiscard_segmentTotal
  case h_7 | h_8 =>
    split
    · next q hq =>
      split
      · exact State.capReceive_segmentTotal _ _ (State.streamOf_receiving hq)
      · exact le_rfl
    · split
      · exact hdrain
      · next g rest hq =>
        exact (State.capOverrunTake_segmentTotal (by simpa [State.count, State.mapStr_str] using hq)).trans
          (State.count_segmentTotal _)
  case h_9 =>
    split
    · next x hx => simpa using State.capOverrunCount_segmentTotal (m := m) x _ 0 (.inl (by rw [hx]; rfl))
    · split
      · exact hdrain
      · next g rest hq => exact State.capOverrunTake_segmentTotal hq
  all_goals exact le_rfl

theorem State.endSegment_segmentTotal (x : LineReg) (g : Segment) :
    (s.endSegment n x g).segmentTotal m ≤ s.segmentTotal m := by
  unfold State.endSegment
  split
  · exact (State.count_segmentTotal _).trans (by rw [State.reportMark_segmentTotal])
  · exact (State.capAbandonCount_segmentTotal _).trans (by rw [State.report_segmentTotal, State.reportMark_segmentTotal])

theorem State.endSegment_lr (x : LineReg) (g : Segment) (q : LrId) : (s.endSegment n x g).lr q = s.lr q := by
  have hmark : (s.reportMark n g true).lr q = s.lr q := by
    unfold State.reportMark State.reportIf
    split
    · split <;> simp
    · rfl
  unfold State.endSegment
  split
  · simpa [State.count] using hmark
  · simpa [State.capAbandonCount, State.count] using hmark

theorem State.capCommitted_segmentTotal {x : LineReg} {g : Segment} (hr : streamOf r = some n)
    (hg : (s.lr r).segment = some g) : (s.capCommitted n r x g).segmentTotal m ≤ s.segmentTotal m := by
  rw [State.capCommitted_eq]
  refine State.checkStopped_segmentTotal.trans (State.capTake_segmentTotal.trans ?_)
  have hended := State.endSegment_segmentTotal (s := s) (n := n) (m := m) x g
  have hfreed := State.setLr_segmentTotal (s := s.endSegment n x g) (x := x.cleared none) (m := m) hr
  rw [State.endSegment_lr, LineReg.held_some hg] at hfreed
  have hempty : (x.cleared none).held = 0 := rfl
  have hdone := State.capFinish_segmentTotal (n := n) (m := m) (s := (s.endSegment n x g).setLr r (x.cleared none))
    ⟨x.takeSeq, g⟩
  rw [hempty] at hfreed
  omega

theorem State.capExpiry_segmentTotal {g : Segment} (hr : streamOf r = some n) (hg : (s.lr r).segment = some g) :
    (s.capExpiry n r g).segmentTotal m ≤ s.segmentTotal m := by
  have hended : ((((s.report (.segmentAbandoned n g.row .stale (s.lr r).position)).capAbandonCount n
      (s.lr r).position).emptyReg r).capFinish n ⟨(s.lr r).takeSeq, g⟩).segmentTotal m ≤ s.segmentTotal m :=
    (State.emptyReg_gives (f := fun u => u.capFinish n _) hr (by simpa using hg) fun u =>
      State.capFinish_segmentTotal _).trans ((State.capAbandonCount_segmentTotal _).trans (by simp))
  simp only [State.capExpiry]
  split_ifs
  · exact State.capStopEffect_segmentTotal.trans hended
  · exact State.drain_segmentTotal.trans hended
  · exact State.capTake_segmentTotal.trans hended
  · exact State.checkStopped_segmentTotal.trans (State.capTake_segmentTotal.trans hended)

/-! ## Playback -/

theorem State.playTakeOne_segmentTotal (hr : streamOf r = some n) : (s.playTakeOne n r).segmentTotal m ≤ s.segmentTotal m := by
  obtain ⟨-, e⟩ | ⟨g, rest, -, hq, e⟩ := s.playTakeOne_cases n r
  · rw [e]
  · rw [e, State.raiseClaim_segmentTotal]
    exact State.takeHead_segmentTotal .loading hr hq

theorem State.playTakes_segmentTotal : (s.playTakes n).segmentTotal m ≤ s.segmentTotal m := by
  unfold State.playTakes
  split
  · exact (State.playTakeOne_segmentTotal (streamOf_oddReg n)).trans (State.playTakeOne_segmentTotal (streamOf_evenReg n))
  · exact le_rfl

/-- A finished segment counts again in cyclic mode. -/
theorem State.playCopy_segmentTotal (g : Segment) : (s.playCopy n g).segmentTotal m ≤ s.segmentTotal m + oneOf n m := by
  unfold State.playCopy
  split
  · simpa using State.mapStr_segmentTotal (s := s) (n := n) (m := m) (a := 0) (b := 1)
      (f := fun x => { x with queue := x.queue ++ [g] })
      (by simp only [StreamRec.listed, List.length_append, List.length_singleton]; omega)
  · omega

/-- The segments that return to the queue are those the registers give up. -/
theorem State.playStopEffect_segmentTotal : (s.playStopEffect n).segmentTotal m ≤ s.segmentTotal m := by
  simp only [State.playStopEffect]
  refine State.stopNext_segmentTotal.trans ?_
  generalize hback : (s.heldRegs n).filterMap (fun r => (s.lr r).segment) = back
  have hlength : back.length ≤ (s.lr (evenReg n)).held + (s.lr (oddReg n)).held := by
    rw [← s.heldRegs_length n, ← hback]
    exact List.length_filterMap_le _ _
  have hqueued := State.mapStr_segmentTotal (s := s) (n := n) (m := m) (a := 0) (b := back.length)
    (f := fun x => { x with queue := back ++ x.queue, starvedRun := 0 })
    (by simp only [StreamRec.listed, List.length_append]; omega)
  generalize hu : s.mapStr n _ = u at hqueued ⊢
  have hlr : ∀ q, u.lr q = s.lr q := fun q => by rw [← hu]; simp
  have heven := State.emptyReg_segmentTotal (s := u) (m := m) (streamOf_evenReg n)
  have hodd := State.emptyReg_segmentTotal (s := u.emptyReg (evenReg n)) (m := m) (streamOf_oddReg n)
  have hne : oddReg n ≠ evenReg n := by cases n <;> decide
  rw [State.emptyReg_lr, if_neg hne] at hodd
  rw [hlr] at heven hodd
  have hreturned := Nat.mul_le_mul_right (oneOf n m) hlength
  rw [Nat.add_mul] at hreturned
  omega

theorem State.playStopDrop_segmentTotal {g : Segment} (hr : streamOf r = some n) (hg : (s.lr r).segment = some g) :
    (s.playStopDrop n r g).segmentTotal m ≤ s.segmentTotal m := by
  simp only [State.playStopDrop]
  generalize hu : (ite ((s.str n).state = .starved) _ _ : State) = u
  have hreported : u.segmentTotal m = s.segmentTotal m ∧ (u.lr r).segment = some g := by
    rw [← hu]
    split <;> simpa using hg
  obtain ⟨htotal, hheld⟩ := hreported
  have hcounted : (u.count n fun c => { c with dropped := satAdd c.dropped 1 }).segmentTotal m ≤ s.segmentTotal m :=
    htotal ▸ State.count_segmentTotal _
  refine (State.emptyReg_gives (f := fun v => (v.playCopy n g).playStopEffect n) hr (by simpa [State.count] using hheld)
    fun v => State.playStopEffect_segmentTotal.trans (State.playCopy_segmentTotal g)).trans hcounted

theorem State.playStopNow_segmentTotal : (s.playStopNow n).segmentTotal m ≤ s.segmentTotal m := by
  rw [State.playStopNow_eq]
  split
  · exact State.playStopEffect_segmentTotal
  · next q hq =>
    split
    · next g hg _ => exact State.playStopDrop_segmentTotal (State.streamOf_playCurrent hq) hg
    · exact State.playStopEffect_segmentTotal

theorem State.playRefill_segmentTotal : (s.playRefill n).segmentTotal m ≤ s.segmentTotal m := by
  simp only [State.playRefill]
  split
  · exact State.drain_segmentTotal.trans State.playTakes_segmentTotal
  · exact State.playTakes_segmentTotal

theorem State.playAfterEnd_segmentTotal : (s.playAfterEnd n).segmentTotal m ≤ s.segmentTotal m := by
  unfold State.playAfterEnd
  split
  · exact State.playStopEffect_segmentTotal
  · exact State.playRefill_segmentTotal

theorem State.playAfterDrop_segmentTotal : (s.playAfterDrop n).segmentTotal m ≤ s.segmentTotal m := by
  unfold State.playAfterDrop
  split
  · exact State.playStopEffect_segmentTotal
  · split
    · split
      · exact State.playRefill_segmentTotal.trans (State.mapStr_segmentTotal_le (by simp [StreamRec.listed]))
      · exact State.playRefill_segmentTotal
    · exact State.playRefill_segmentTotal

theorem LineReg.advanced_segment {x x' : LineReg} {g : Segment} (hx : x.advanced g = some x') : x'.segment = x.segment := by
  unfold LineReg.advanced at hx
  split_ifs at hx <;> (cases hx; rfl)

theorem State.playOutput_segmentTotal (g : Segment) : (s.playOutput n r g).segmentTotal m ≤ s.segmentTotal m := by
  simp only [State.playOutput, State.reportMark_segmentTotal]
  exact (State.count_segmentTotal _).trans (State.mapStr_segmentTotal_le (by simp [StreamRec.listed]))

theorem State.playRead_segmentTotal {g : Segment} (hr : streamOf r = some n) (hg : (s.lr r).segment = some g) :
    (s.playRead n r g).segmentTotal m ≤ s.segmentTotal m := by
  rw [State.playRead_eq]
  have houtput : (s.playOutput n r g).segmentTotal m ≤ s.segmentTotal m := State.playOutput_segmentTotal g
  have hlr := (State.regsKept.playOutput_frame (s := s) (n := n) (r := r) g).2.1 r
  split
  · next x' hx =>
    refine (State.setLr_segmentTotal_le hr ?_).trans houtput
    simp [LineReg.held, hlr, LineReg.advanced_segment hx]
  · refine (State.playAfterEnd_segmentTotal.trans ?_).trans houtput
    exact State.emptyReg_gives (f := fun u => (u.count n fun c => { c with completed := satAdd c.completed 1 }).playCopy n g)
      hr (hlr ▸ hg) fun u => (State.playCopy_segmentTotal g).trans
        (Nat.add_le_add_right (State.count_segmentTotal _) _)

theorem State.playDrop_segmentTotal {g : Segment} (hr : streamOf r = some n) (hg : (s.lr r).segment = some g) :
    (s.playDrop n r g).segmentTotal m ≤ s.segmentTotal m := by
  simp only [State.playDrop]
  refine State.playAfterDrop_segmentTotal.trans ?_
  exact State.emptyReg_gives (f := fun u => ((u.report _).mapStr n fun x =>
      { x with starvedRun := 0, counters := { x.counters with dropped := satAdd x.counters.dropped 1 } }).playCopy n g)
    hr hg fun u => (State.playCopy_segmentTotal g).trans (Nat.add_le_add_right
      ((State.mapStr_segmentTotal_le (by simp [StreamRec.listed])).trans (by simp)) _)

theorem State.playStarved_segmentTotal {g : Segment} (hr : streamOf r = some n) (hg : (s.lr r).segment = some g) :
    (s.playStarved n r g).segmentTotal m ≤ s.segmentTotal m := by
  simp only [State.playStarved]
  generalize hu : s.mapStr n _ = u
  have hstarved : u.segmentTotal m ≤ s.segmentTotal m := by
    rw [← hu]
    exact State.mapStr_segmentTotal_le le_rfl
  have hlr : u.lr r = s.lr r := by rw [← hu]; simp
  split
  · exact (State.setLr_segmentTotal_le (x := { u.lr r with begun := true }) hr le_rfl).trans hstarved
  · split
    · next x' hx =>
      refine (State.setLr_segmentTotal_le hr ?_).trans hstarved
      simp [LineReg.held, hlr, LineReg.advanced_segment hx]
    · exact (State.playDrop_segmentTotal hr (hlr ▸ hg)).trans hstarved

theorem State.playEdge_segmentTotal : (s.playEdge n).segmentTotal m ≤ s.segmentTotal m := by
  unfold State.playEdge
  split
  case h_4 | h_5 | h_6 =>
    exact (State.count_segmentTotal _).trans (State.mapStr_segmentTotal_le le_rfl)
  case h_7 | h_8 =>
    split
    · exact le_rfl
    · next q hq =>
      have hr := State.streamOf_playCurrent hq
      split
      case h_1 hg _ | h_2 hg _ => exact State.playRead_segmentTotal hr hg
      case h_3 hg _ | h_4 hg _ =>
        exact (State.playStarved_segmentTotal hr (by simpa using hg)).trans
          (State.mapStr_segmentTotal_le (by simp [StreamRec.listed]))
      case h_5 => exact le_rfl
  case h_9 =>
    split
    · exact le_rfl
    · next q hq =>
      split
      · next hg => exact State.playStarved_segmentTotal (State.streamOf_playCurrent hq) hg
      · exact le_rfl
  all_goals exact le_rfl

theorem State.reportLoss_segmentTotal (row : Nat) : (s.reportLoss n r row).segmentTotal m ≤ s.segmentTotal m := by
  unfold State.reportLoss
  split
  · rw [State.report_segmentTotal]
    exact State.mapStr_segmentTotal_le (by rw [State.setLossReported_listed])
  · exact le_rfl

theorem State.playResume_segmentTotal (row : Nat) : (s.playResume n row).segmentTotal m ≤ s.segmentTotal m := by
  simp only [State.playResume, State.report_segmentTotal]
  exact State.mapStr_segmentTotal_le (by simp [StreamRec.listed])

theorem State.playLoaded_segmentTotal (g : Segment) (wasReload : Bool) :
    (s.playLoaded n r g wasReload).segmentTotal m ≤ s.segmentTotal m := by
  simp only [State.playLoaded]
  generalize hu : State.reportLoss _ n r g.row = u
  have htold : u.segmentTotal m ≤ s.segmentTotal m := by
    rw [← hu]
    refine (State.reportLoss_segmentTotal _).trans ?_
    split
    · exact State.count_segmentTotal _
    · exact le_rfl
  refine le_trans ?_ htold
  split
  · split
    · exact State.mapStr_segmentTotal_le (by simp [StreamRec.listed])
    · split
      · exact State.playResume_segmentTotal _
      · split
        · exact State.playResume_segmentTotal _
        · exact le_rfl
    · exact le_rfl
  · exact le_rfl

theorem State.playExpiry_segmentTotal (g : Segment) (hr : streamOf r = some n) :
    (s.playExpiry n r g).segmentTotal m ≤ s.segmentTotal m := by
  have hstale : ((s.mapLr r fun x => { x with state := .stale, holdTimer := none, reloading := true }).raiseClaim
      ⟨.load, g.row, .register r, .stream⟩).segmentTotal m ≤ s.segmentTotal m := by
    rw [State.raiseClaim_segmentTotal]
    exact State.setLr_segmentTotal_le (x := { s.lr r with state := .stale, holdTimer := none, reloading := true }) hr le_rfl
  simp only [State.playExpiry]
  split
  · exact (State.mapStr_segmentTotal_le (by simp [StreamRec.listed])).trans hstale
  · exact hstale

/-! ## What requests do to a stream -/

theorem State.streamTakes_segmentTotal : (s.streamTakes n).segmentTotal m ≤ s.segmentTotal m := by
  unfold State.streamTakes
  split
  · exact State.playTakes_segmentTotal
  · exact State.capTake_segmentTotal
  · exact le_rfl

theorem State.regDiscarded_segmentTotal (hr : streamOf r = some n) :
    (s.regDiscarded n r).segmentTotal m ≤ s.segmentTotal m :=
  State.checkStopped_segmentTotal.trans (State.streamTakes_segmentTotal.trans (State.setLr_segmentTotal_le hr le_rfl))

/-- The segments appended count. -/
theorem State.appendSegments_segmentTotal (gs : List Segment) :
    (s.appendSegments n gs).segmentTotal m ≤ s.segmentTotal m + gs.length * oneOf n m := by
  simp only [State.appendSegments]
  generalize hu : s.mapStr n _ = u
  have hqueued : u.segmentTotal m ≤ s.segmentTotal m + gs.length * oneOf n m := by
    rw [← hu]
    simpa using State.mapStr_segmentTotal (s := s) (n := n) (m := m) (a := 0) (b := gs.length)
      (f := fun x => { x with queue := x.queue ++ gs }) (by simp only [StreamRec.listed, List.length_append]; omega)
  refine le_trans ?_ hqueued
  split
  · refine State.playTakes_segmentTotal.trans ?_
    split
    · exact State.mapStr_segmentTotal_le (by simp [StreamRec.listed])
    · exact le_rfl
  · refine State.capTake_segmentTotal.trans ?_
    split
    · exact State.mapStr_segmentTotal_le (by simp [StreamRec.listed])
    · exact le_rfl
  · exact le_rfl

theorem State.startStream_segmentTotal : (s.startStream n).segmentTotal m ≤ s.segmentTotal m := by
  unfold State.startStream
  split
  · exact State.playTakes_segmentTotal.trans (State.mapStr_segmentTotal_le (by simp [StreamRec.listed]))
  · exact State.capTake_segmentTotal.trans (State.mapStr_segmentTotal_le (by simp [StreamRec.listed]))
  · exact le_rfl

theorem State.stopStream_segmentTotal (k : StopKind) : (s.stopStream n k).segmentTotal m ≤ s.segmentTotal m := by
  simp only [State.stopStream]
  have hasked : ((s.mapStr n fun x => { x with stopRequest := some k }).setPhase (.stopping n)).segmentTotal m
      ≤ s.segmentTotal m := by
    rw [State.setPhase_segmentTotal]
    exact State.mapStr_segmentTotal_le (by simp [StreamRec.listed])
  refine le_trans ?_ hasked
  split
  · exact State.playStopNow_segmentTotal
  · split
    · exact le_rfl
    · exact State.playStopEffect_segmentTotal
  · exact State.capStopEffect_segmentTotal
  · split
    · exact le_rfl
    · exact State.capStopEffect_segmentTotal
  · exact State.stopNext_segmentTotal

end

end Sys2Proof.Machine
end

section
/-! PROOF. Every step keeps a stream's segments at 32 or fewer (R80, R83, R110), and so the laws of streams and registers. -/

namespace Sys2Proof.Machine

section

variable {s : State} {n m : StreamId} {r : LrId} {op : Operation}

/-! ## Completions -/

theorem loadCompletion_segmentTotal (tie : TieOrder) (hc : s.completing = some op) (hk : op.claim.kind = .load)
    (hcl : op.claim.claimant = .register r) (hr : streamOf r = some n) :
    (loadCompletion tie s).segmentTotal m ≤ s.segmentTotal m := by
  by_cases hd : (s.lr r).discardPending = some .load
  · rw [loadCompletion_discarded tie hc hk hcl hr hd]
    simpa using State.regDiscarded_segmentTotal (s := s.completed op) (m := m) hr
  · cases hg : (s.lr r).segment with
    | some g =>
      rw [loadCompletion_loaded tie hc hk hcl hr hd hg, State.conclude_segmentTotal]
      refine (State.playLoaded_segmentTotal g _).trans ?_
      rw [← s.completed_segmentTotal m op]
      exact State.setLr_segmentTotal_le hr (by simp [LineReg.held, LineReg.loadedWith])
    | none => simp [loadCompletion_unheld tie hc hk hcl hr hd hg]

theorem commitCompletion_segmentTotal (tie : TieOrder) (hc : s.completing = some op) (hk : op.claim.kind = .commit)
    (hcl : op.claim.claimant = .register r) (hr : streamOf r = some n) :
    (commitCompletion tie s).segmentTotal m ≤ s.segmentTotal m := by
  by_cases hd : (s.lr r).discardPending = some .commit
  · rw [commitCompletion_discarded tie hc hk hcl hr hd]
    simpa using State.regDiscarded_segmentTotal (s := s.completed op) (m := m) hr
  · cases hg : (s.lr r).segment with
    | some g =>
      rw [commitCompletion_committed tie hc hk hcl hr hd hg, State.conclude_segmentTotal, ← s.completed_segmentTotal m op]
      exact State.capCommitted_segmentTotal hr (by simpa using hg)
    | none => simp [commitCompletion_unheld tie hc hk hcl hr hd hg]

theorem copyLoadCompletion_segmentTotal (hc : s.completing = some op) (hk : op.claim.kind = .copyLoad) :
    (copyLoadCompletion s).segmentTotal m = s.segmentTotal m := by
  by_cases hd : s.lrb.lr4.discardPending = some .copyLoad
  · simp [copyLoadCompletion_discarded hc hk hd]
  · cases hj : s.lrb.lr4.copy with
    | some job => simp [copyLoadCompletion_loaded hc hk hd hj]
    | none => simp [copyLoadCompletion_unheld hc hk hd hj]

theorem copyCommitCompletion_segmentTotal (tie : TieOrder) {sections : SectionSet} (hc : s.completing = some op)
    (hk : op.claim.kind = .copyCommit sections) : (copyCommitCompletion tie s).segmentTotal m = s.segmentTotal m := by
  by_cases hd : s.lrb.lr4.discardPending = some .copyCommit
  · simp [copyCommitCompletion_discarded tie hc hk hd]
  · simp [copyCommitCompletion_copied tie hc hk hd]

theorem fillCompletion_segmentTotal (tie : TieOrder) {value : CellVal} {mask : SectionSet} (hc : s.completing = some op)
    (hk : op.claim.kind = .fill value mask) : (fillCompletion tie s).segmentTotal m = s.segmentTotal m := by
  cases hd : op.discarded with
  | true => simp [fillCompletion_discarded tie hc hk hd]
  | false =>
    by_cases hp : ∃ first last current v k, s.rqe.phase = .filling first last current v k
    · obtain ⟨first, last, current, v, k, hp⟩ := hp
      by_cases hrow : current < last
      · simp [fillCompletion_next tie hc hk hd hp hrow]
      · simp [fillCompletion_last tie hc hk hd hp hrow]
    · rw [fillCompletion_unasked tie hc hk hd (by simpa using hp)]
      simp

theorem refreshCompletion_segmentTotal (tie : TieOrder) (hc : s.completing = some op) (hk : op.claim.kind = .refresh) :
    (refreshCompletion tie s).segmentTotal m = s.segmentTotal m := by
  by_cases hp : op.claim.cls = .host ∧ op.discarded = false ∧ ∃ first last current, s.rqe.phase = .refreshing first last current
  · obtain ⟨hh, hd, first, last, current, hp⟩ := hp
    by_cases hrow : current < last
    · simp [refreshCompletion_next tie hc hk hh hd hp hrow]
    · simp [refreshCompletion_last tie hc hk hh hd hp hrow]
  · rw [refreshCompletion_unasked tie hc hk fun hh hd first last current e => hp ⟨hh, hd, first, last, current, e⟩]
    simp

theorem scrubCompletion_segmentTotal (hc : s.completing = some op) (hk : op.claim.kind = .scrub) :
    (scrubCompletion s).segmentTotal m = s.segmentTotal m := by
  have hdone : ((s.completed op).initDone op.claim.row).segmentTotal m = (s.completed op).segmentTotal m := by
    unfold State.initDone
    split
    · rw [State.report_segmentTotal]
      rfl
    · rfl
  rw [scrubCompletion_scrubbed hc hk, State.settle_segmentTotal, hdone, State.completed_segmentTotal]

theorem openCompletion_segmentTotal (tie : TieOrder) (hc : s.completing = some op) (hk : op.claim.kind = .openRow) :
    (openCompletion tie s).segmentTotal m = s.segmentTotal m := by
  cases hd : op.discarded with
  | true => simp [openCompletion_discarded tie hc hk hd]
  | false =>
    by_cases ho : ∃ k, s.rqe.phase = .opening k
    · obtain ⟨k, ho⟩ := ho
      simp [openCompletion_opened tie hc hk hd ho, State.restartIdle, State.openSession]
    · by_cases hr : ∃ k job, s.rqe.phase = .reopening k job
      · obtain ⟨k, job, hr⟩ := hr
        simp [openCompletion_reopened tie hc hk hd hr, State.openSession]
      · rw [openCompletion_unasked tie hc hk hd (by simpa using ho) (by simpa using hr)]
        simp

theorem columnBurstEnd_segmentTotal (tie : TieOrder) : (columnBurstEnd tie s).segmentTotal m = s.segmentTotal m := by
  have happlied : ∀ row job, (s.applyBurst row job).segmentTotal m = s.segmentTotal m := fun row job =>
    State.segmentTotal_congr (by simp) (by simp)
  unfold Machine.columnBurstEnd
  split
  · next slot row job start _ =>
    split
    · cases slot with
      | none => simp [happlied]
      | some k => simp [happlied, State.restartIdle]
    · rfl
  · rfl

/-! ## Requests of the other chapters -/

section Requests

variable (s m) (tie : TieOrder)

theorem identify_segmentTotal : (identify tie s).segmentTotal m = s.segmentTotal m := by
  unfold Machine.identify
  split
  · rfl
  · split <;> simp

theorem status_segmentTotal : (status tie s).segmentTotal m = s.segmentTotal m := by
  unfold Machine.status
  split
  · rfl
  · split <;> simp

theorem configure_segmentTotal : (configure tie s).segmentTotal m = s.segmentTotal m := by
  simp only [Machine.configure]
  split
  · rfl
  · split
    · simp
    · split <;> simp

theorem rowQuery_segmentTotal : (rowQuery tie s).segmentTotal m = s.segmentTotal m := by
  unfold Machine.rowQuery
  split
  · rfl
  · split
    · simp
    · split <;> simp

theorem fillRows_segmentTotal : (fillRows tie s).segmentTotal m = s.segmentTotal m := by
  simp only [Machine.fillRows]
  split
  · rfl
  · split
    · simp
    · split_ifs <;> simp

theorem refresh_segmentTotal : (refresh tie s).segmentTotal m = s.segmentTotal m := by
  simp only [Machine.refresh]
  split
  · rfl
  · split
    · simp
    · split_ifs <;> simp

theorem copyRow_segmentTotal : (copyRow tie s).segmentTotal m = s.segmentTotal m := by
  unfold Machine.copyRow
  split
  · rfl
  · split
    · simp
    · split_ifs <;> simp

theorem openRow_segmentTotal : (openRow tie s).segmentTotal m = s.segmentTotal m := by
  simp only [Machine.openRow]
  split
  · rfl
  · split
    · simp
    · split_ifs
      · simp
      · simp
      · split <;> simp

theorem close_segmentTotal : (close tie s).segmentTotal m = s.segmentTotal m := by
  unfold Machine.close
  split
  · rfl
  · split
    · simp
    · split <;> simp [State.freeSession]

theorem columnRequest_segmentTotal (f : ColumnFields) : (s.columnRequest f tie).segmentTotal m = s.segmentTotal m := by
  simp only [State.columnRequest]
  split
  · simp
  · split
    · split
      · split <;> simp [State.restartIdle, State.stopIdle]
      · simp [State.restartIdle, State.stopIdle]
    · split
      · split_ifs <;> simp [State.stopIdle]
      · simp [State.stopIdle]

theorem read_segmentTotal : (read tie s).segmentTotal m = s.segmentTotal m := by
  unfold Machine.read
  split
  · rfl
  · split
    · simp
    · exact columnRequest_segmentTotal s m tie _

theorem write_segmentTotal : (write tie s).segmentTotal m = s.segmentTotal m := by
  unfold Machine.write
  split
  · rfl
  · split
    · simp
    · exact columnRequest_segmentTotal s m tie _

theorem exchange_segmentTotal : (exchange tie s).segmentTotal m = s.segmentTotal m := by
  unfold Machine.exchange
  split
  · rfl
  · split
    · simp
    · exact columnRequest_segmentTotal s m tie _

/-! ## Stream requests -/

theorem streamSetup_segmentTotal : (streamSetup tie s).segmentTotal m ≤ s.segmentTotal m := by
  unfold Machine.streamSetup
  split
  · exact le_rfl
  · split
    · simp
    · split
      · simp
      · split
        · simp
        · split
          · simp
          · rw [State.begun_segmentTotal, State.finish_segmentTotal]
            exact State.mapStr_segmentTotal_le (by simp [StreamRec.listed, StreamRec.setUp])

/-- The segments an append adds fit: it is refused where they would not (R83). -/
theorem streamAppend_segmentTotal (hm : s.segmentTotal m ≤ 32) : (streamAppend tie s).segmentTotal m ≤ 32 := by
  simp only [Machine.streamAppend]
  split
  · exact hm
  · split
    · simpa using hm
    · next b gs _ =>
      split
      · simpa using hm
      · next n _ =>
        split_ifs with _ _ hfull
        · simpa using hm
        · simpa using hm
        · simpa using hm
        · rw [State.begun_segmentTotal, State.finish_segmentTotal]
          have happended := State.appendSegments_segmentTotal (s := s) (n := n) (m := m) gs
          simp only [Config.maxSegments, not_lt] at hfull
          unfold oneOf at happended
          split_ifs at happended with e
          · subst e; omega
          · omega

theorem streamStart_segmentTotal : (streamStart tie s).segmentTotal m ≤ s.segmentTotal m := by
  unfold Machine.streamStart
  split
  · exact le_rfl
  · split
    · simp
    · split
      · simp
      · split_ifs
        · simp
        · simp
        · simpa using State.startStream_segmentTotal

theorem streamStop_segmentTotal : (streamStop tie s).segmentTotal m ≤ s.segmentTotal m := by
  unfold Machine.streamStop
  split
  · exact le_rfl
  · split
    · simp
    · split
      · simp
      · split
        · simp
        · split
          · simp
          · simpa using State.stopStream_segmentTotal _

theorem streamFlush_segmentTotal : (streamFlush tie s).segmentTotal m ≤ s.segmentTotal m := by
  simp only [Machine.streamFlush]
  split
  · exact le_rfl
  · split
    · simp
    · split
      · simp
      · split
        · simp
        · rw [State.begun_segmentTotal, State.finish_segmentTotal]
          exact State.mapStr_segmentTotal_le (by simp [StreamRec.listed])

theorem streamQuery_segmentTotal : (streamQuery tie s).segmentTotal m = s.segmentTotal m := by
  unfold Machine.streamQuery
  split
  · rfl
  · split
    · simp
    · split <;> simp

end Requests

/-! ## Edges, timers and thresholds -/

section Events

variable (s m)

theorem playbackEdge_segmentTotal (n : StreamId) : (playbackEdge n s).segmentTotal m ≤ s.segmentTotal m := by
  unfold Machine.playbackEdge
  split
  · rw [State.settle_segmentTotal]
    exact State.playEdge_segmentTotal
  · exact le_rfl

theorem captureEdge_segmentTotal (n : StreamId) (cell : CellVal) : (captureEdge n cell s).segmentTotal m ≤ s.segmentTotal m := by
  unfold Machine.captureEdge
  split
  · rw [State.settle_segmentTotal]
    exact State.capEdge_segmentTotal cell
  · exact le_rfl

theorem playbackHoldExpiry_segmentTotal (r : LrId) : (playbackHoldExpiry r s).segmentTotal m ≤ s.segmentTotal m := by
  unfold Machine.playbackHoldExpiry
  split
  · next n g hr _ =>
    split
    · rw [State.settle_segmentTotal]
      exact State.playExpiry_segmentTotal g hr
    · exact le_rfl
  · exact le_rfl

theorem captureHoldExpiry_segmentTotal (r : LrId) : (captureHoldExpiry r s).segmentTotal m ≤ s.segmentTotal m := by
  unfold Machine.captureHoldExpiry
  split
  · next n g hr hg =>
    split
    · rw [State.settle_segmentTotal]
      exact State.capExpiry_segmentTotal hr hg
    · exact le_rfl
  · exact le_rfl

theorem lr4HoldExpiry_segmentTotal : (lr4HoldExpiry s).segmentTotal m = s.segmentTotal m := by
  unfold Machine.lr4HoldExpiry
  split
  · simp [State.emptyReg]
  · rfl

theorem idleExpiry_segmentTotal (k : SlotId) : (idleExpiry k s).segmentTotal m = s.segmentTotal m := by
  unfold Machine.idleExpiry
  split
  · split
    · simp [State.freeSession]
    · rfl
  · rfl

theorem checkRoutine_segmentTotal : s.checkRoutine.segmentTotal m = s.segmentTotal m :=
  State.segmentTotal_congr (by simp) (by simp)

theorem routineThreshold_segmentTotal : (routineThreshold s).segmentTotal m = s.segmentTotal m := by
  unfold Machine.routineThreshold
  split
  · simp [checkRoutine_segmentTotal]
  · rfl

theorem urgentCrossing_segmentTotal (row : Nat) : (urgentCrossing row s).segmentTotal m = s.segmentTotal m := by
  have hurgent : ∀ u : State, (u.raiseUrgent row).segmentTotal m = u.segmentTotal m := fun u =>
    State.segmentTotal_congr (by simp) (by simp)
  have hcrossed : (s.markCrossed row).segmentTotal m = s.segmentTotal m := State.segmentTotal_congr (by simp) (by simp)
  simp only [Machine.urgentCrossing]
  split
  · split <;> simp [hurgent, hcrossed]
  · rfl

theorem deadline_segmentTotal (row : Nat) : (deadline row s).segmentTotal m = s.segmentTotal m := by
  have hlost : (s.loseRow row).segmentTotal m = s.segmentTotal m := rfl
  simp only [Machine.deadline]
  split
  · rw [State.settle_segmentTotal, State.report_segmentTotal]
    exact hlost
  · rfl

theorem warmupEnd_segmentTotal : (warmupEnd s).segmentTotal m = s.segmentTotal m := by
  unfold Machine.warmupEnd
  split
  · split
    · rw [State.settle_segmentTotal]
      rfl
    · rfl
  · rfl

/-! ## The link and the supply -/

theorem powerOnValues_segmentTotal (start : Option Nat) : (s.powerOnValues start).segmentTotal m = 0 := by
  cases m <;> rfl

theorem resetRequest_segmentTotal (req : Request) : (s.resetRequest req).segmentTotal m = 0 := by
  have hempty : ∀ q, (s.regsEmptied.lr q).segment = none := fun q => by
    simp only [State.regsEmptied, State.emptyReg_lr]
    cases q <;> rfl
  obtain ⟨-, -, -, -, -, -, -, hlrb, -⟩ := s.regsEmptied.slotsFreed_frame
  have hlr : ∀ q, (s.resetRequest req).lr q = s.regsEmptied.lr q := fun q => by
    rw [State.resetRequest_eq]
    simp [State.lr, State.blocksReset, hlrb]
  have hstr : (s.resetRequest req).str m = StreamRec.atInit := by
    rw [State.resetRequest_eq]
    cases m <;> simp [State.str, State.blocksReset, Streams.get, Streams.atInit]
  rw [State.segmentTotal_eq, hstr, LineReg.held, LineReg.held, hlr, hlr, hempty, hempty]
  rfl

theorem transactionEnd_segmentTotal (bits : List Bool) : (transactionEnd bits s).segmentTotal m ≤ s.segmentTotal m := by
  have hsent : ∀ x k, (s.removeSent x k).segmentTotal m = s.segmentTotal m := fun x k => by
    unfold State.removeSent
    split
    · split
      · rfl
      · rfl
      · rfl
      · split <;> rfl
    · rfl
  have hadmitted : ∀ (u : State) bytes, (u.admitFrame bytes).segmentTotal m ≤ u.segmentTotal m := fun u bytes => by
    unfold State.admitFrame
    split
    · exact le_rfl
    · split_ifs
      · rw [resetRequest_segmentTotal]
        exact Nat.zero_le _
      · exact le_rfl
      · exact le_rfl
  unfold Machine.transactionEnd
  split
  · split
    · rw [State.endTransaction, State.settle_segmentTotal]
      exact (hadmitted _ _).trans (hsent _ _).le
    · exact le_rfl
  · exact le_rfl

theorem hcsFall_segmentTotal : (hcsFall s).segmentTotal m = s.segmentTotal m := by
  unfold Machine.hcsFall
  split <;> rfl

end Events

/-! ## Every step -/

theorem run_segmentTotal (i : Instr) (hm : s.segmentTotal m ≤ 32) : (i.run s).segmentTotal m ≤ 32 := by
  have hpower : ∀ {t : State} start, t.segmentTotal m = (s.powerOnValues start).segmentTotal m → t.segmentTotal m ≤ 32 :=
    fun start ht => by rw [ht, powerOnValues_segmentTotal]; exact Nat.zero_le _
  have hdone : ∀ {kind : ClaimKind → Prop} {t : State}, completes s t kind → (∀ op, s.completing = some op →
      kind op.claim.kind → op.claim.wellPlaced = true → t.segmentTotal m ≤ s.segmentTotal m) → t.segmentTotal m ≤ 32 :=
    fun hc hrun => by
      obtain rfl | ⟨op, hop, hk, hw⟩ := hc
      · exact hm
      · exact (hrun op hop hk hw).trans hm
  cases i <;> simp only [Instr.run]
  case powerOn => exact hpower (if s.hrst then none else some s.clock) rfl
  case powerLoss => exact hpower none rfl
  case hrstAssert =>
    unfold Machine.hrstAssert
    split_ifs
    · exact hm
    · exact hpower none rfl
    · exact hm
  case hrstDeassert =>
    unfold Machine.hrstDeassert
    split_ifs
    · exact hpower (some s.clock) rfl
    · exact hm
    · exact hm
  case warmupEnd => exact (warmupEnd_segmentTotal s m).le.trans hm
  case loadCompletion k =>
    refine hdone (loadCompletion_completes s k.tie) fun op hc hk hw => ?_
    obtain ⟨r, n, hcl, hr⟩ := op.claim.register_of_wellPlaced hw (.inl hk)
    exact loadCompletion_segmentTotal k.tie hc hk hcl hr
  case commitCompletion k =>
    refine hdone (commitCompletion_completes s k.tie) fun op hc hk hw => ?_
    obtain ⟨r, n, hcl, hr⟩ := op.claim.register_of_wellPlaced hw (.inr hk)
    exact commitCompletion_segmentTotal k.tie hc hk hcl hr
  case copyLoadCompletion =>
    exact hdone (copyLoadCompletion_completes s) fun op hc hk _ => (copyLoadCompletion_segmentTotal hc hk).le
  case copyCommitCompletion k =>
    exact hdone (copyCommitCompletion_completes s k.tie) fun op hc ⟨_, hk⟩ _ =>
      (copyCommitCompletion_segmentTotal k.tie hc hk).le
  case fillCompletion k =>
    exact hdone (fillCompletion_completes s k.tie) fun op hc ⟨_, _, hk⟩ _ => (fillCompletion_segmentTotal k.tie hc hk).le
  case refreshCompletion k =>
    exact hdone (refreshCompletion_completes s k.tie) fun op hc hk _ => (refreshCompletion_segmentTotal k.tie hc hk).le
  case scrubCompletion =>
    exact hdone (scrubCompletion_completes s) fun op hc hk _ => (scrubCompletion_segmentTotal hc hk).le
  case openCompletion tie =>
    exact hdone (openCompletion_completes s tie) fun op hc hk _ => (openCompletion_segmentTotal tie hc hk).le
  case columnBurstEnd tie => exact (columnBurstEnd_segmentTotal tie).le.trans hm
  case routineThreshold => exact (routineThreshold_segmentTotal s m).le.trans hm
  case urgentCrossing row => exact (urgentCrossing_segmentTotal s m row).le.trans hm
  case deadline row => exact (deadline_segmentTotal s m row).le.trans hm
  case hcsFall => exact (hcsFall_segmentTotal s m).le.trans hm
  case transactionEnd bits => exact (transactionEnd_segmentTotal s m bits).trans hm
  case identify k => exact (identify_segmentTotal s m k.tie).le.trans hm
  case status k => exact (status_segmentTotal s m k.tie).le.trans hm
  case configure k => exact (configure_segmentTotal s m k.tie).le.trans hm
  case openRow k => exact (openRow_segmentTotal s m k.tie).le.trans hm
  case close k => exact (close_segmentTotal s m k.tie).le.trans hm
  case read tie => exact (read_segmentTotal s m tie).le.trans hm
  case write tie => exact (write_segmentTotal s m tie).le.trans hm
  case exchange tie => exact (exchange_segmentTotal s m tie).le.trans hm
  case fillRows k => exact (fillRows_segmentTotal s m k.tie).le.trans hm
  case copyRow k => exact (copyRow_segmentTotal s m k.tie).le.trans hm
  case refresh k => exact (refresh_segmentTotal s m k.tie).le.trans hm
  case rowQuery k => exact (rowQuery_segmentTotal s m k.tie).le.trans hm
  case streamSetup k => exact (streamSetup_segmentTotal s m k.tie).trans hm
  case streamAppend k => exact streamAppend_segmentTotal s m k.tie hm
  case streamStart k => exact (streamStart_segmentTotal s m k.tie).trans hm
  case streamStop k => exact (streamStop_segmentTotal s m k.tie).trans hm
  case streamFlush k => exact (streamFlush_segmentTotal s m k.tie).trans hm
  case streamQuery k => exact (streamQuery_segmentTotal s m k.tie).le.trans hm
  case playbackEdge n => exact (playbackEdge_segmentTotal s m n).trans hm
  case captureEdge n cell => exact (captureEdge_segmentTotal s m n cell).trans hm
  case playbackHoldExpiry r => exact (playbackHoldExpiry_segmentTotal s m r).trans hm
  case captureHoldExpiry r => exact (captureHoldExpiry_segmentTotal s m r).trans hm
  case lr4HoldExpiry => exact (lr4HoldExpiry_segmentTotal s m).le.trans hm
  case idleExpiry k => exact (idleExpiry_segmentTotal s m k).le.trans hm

end

/-- Settles O59: the registers' law by `stepsKeepRegisters`, the 32 segments by what each command adds and gives up. -/
theorem streamsAndRegistersKeepTheirLaws : Obligations.StreamsAndRegistersKeepTheirLaws := by
  refine ⟨fun s t hm h hstep => stepsKeepRegisters hm h hstep, fun s t m hm hstep => ?_⟩
  exact step_keeps (P := fun u => u.segmentTotal m ≤ 32) (fun _ _ h => h) (fun _ _ h => h)
    (fun i _ _ h => run_segmentTotal i h) s t hm hstep

end Sys2Proof.Machine
end

section
/-! PROOF. A report's way through the mask and the quota (R180 to R183), and the frame that the fall of HCS fixes (R148,
R154). -/

namespace Sys2Proof.Machine

/-- A report's cases, by the mask's bit of its kind (R181, R182). -/
theorem State.report_spec (s : State) (n : Notice) {bit : Nat} (hbit : n.code.toNat - 1 = bit) :
    (s.ntu.mask.getLsbD bit = false → s.report n = s)
      ∧ (s.ntu.mask.getLsbD bit = true →
        (s.hlc.outq.any Frame.isMarker = true →
          s.report n = { s with
            hlc := { s.hlc with outq := s.hlc.outq.map Frame.countDiscard }
            ntu := { s.ntu with lostTotal := satAdd s.ntu.lostTotal 1 } })
        ∧ (s.hlc.outq.any Frame.isMarker = false → s.noticeCount < 15 →
          s.report n = { s with hlc := { s.hlc with outq := s.hlc.outq ++ [.notice n], attn := true } })
        ∧ (s.hlc.outq.any Frame.isMarker = false → 15 ≤ s.noticeCount →
          s.report n = { s with
            hlc := { s.hlc with outq := s.hlc.outq ++ [.lossMarker 1 1], attn := true }
            ntu := { s.ntu with lostTotal := satAdd s.ntu.lostTotal 1 } })) := by
  have henabled : n.enabled s.ntu.mask = s.ntu.mask.getLsbD bit := by rw [Notice.enabled, hbit]
  refine ⟨fun hmasked => by simp [State.report, henabled, hmasked],
    fun hsent => ⟨fun hmarker => ?_, fun hmarker hroom => ?_, fun hmarker hfull => ?_⟩⟩
  · simp [State.report, henabled, hsent, hmarker]
  · simp [State.report, henabled, hsent, hmarker, Config.maxNotices, hroom, State.enqueue]
  · simp [State.report, henabled, hsent, hmarker, Config.maxNotices, Nat.not_lt.2 hfull, State.enqueue]

/-- Settles O24: bit `k − 1` of the mask is that of the kind with code `k`; the rest is `State.report_spec`. -/
theorem reportPassesMaskAndQuota : Obligations.ReportPassesMaskAndQuota :=
  fun s n => s.report_spec n (by cases n <;> rfl)

/-- The head of the queue with its bytes fixed (R148, R183). -/
def fixHead : List Frame → List Frame
  | [] => []
  | f :: rest => f.fixed :: rest

theorem hcsFall_of_high {s : State} (hlive : s.live = true) (hhigh : s.hlc.hcsHigh = true) :
    hcsFall s = { s with hlc := { s.hlc with
      hcsHigh := false, txn := some s.selectFrame, outq := fixHead s.hlc.outq } } := by
  unfold hcsFall
  rw [if_pos (by rw [hlive, hhigh]; rfl)]
  cases hq : s.hlc.outq <;> rfl

/-- Settles O25: the frame selected, by the kind of the head of the outbound queue. -/
theorem hcsFallFixesFrame : Obligations.HcsFallFixesFrame := by
  intro s dt hlive hhigh
  refine completes_of_run s (i := .hcsFall dt) rfl ?_
  simp only [Instr.run, Instr.elapsed]
  rw [hcsFall_of_high (s := s.advance dt) hlive hhigh]
  refine ⟨fun k => rfl, ?_⟩
  have hselect : (s.advance dt).selectFrame = s.selectFrame := rfl
  rw [hselect, State.selectFrame]
  cases hq : s.hlc.outq with
  | nil => simp only [State.advance, hq] <;> rfl
  | cons f rest => cases f <;> simp only [State.advance, hq] <;> rfl

end Sys2Proof.Machine
end

section
/-! PROOF. The state after reset: the power-on values, whose laws are those of `powerOnValues` (R15, R53). -/

namespace Sys2Proof.Machine

/-- The power-on values that the state after reset has in all but the undefined cells. -/
def State.poweredOn : State :=
  State.reset.powerOnValues (some 0)

/-- Settles O50: the laws of the power-on values, which no law of the cells but the canonical form tells apart. -/
theorem resetStateKeepsTheLaws : Obligations.ResetStateKeepsTheLaws := by
  have hordered : State.poweredOn.orderedByAge := orderedByAge_powerOnValues _ _
  have hscrubs : State.poweredOn.scrubsKept := scrubsKept_powerOnValues _ _
  have hmatched : State.poweredOn.sessionsMatchCircuit := matched_powerOnValues _ _
  have hregs : State.poweredOn.regsKept := State.regsKept.powerOnValues _ _
  refine ⟨reset_memory_wf, State.attnFollowsQueue_of_atInit _ rfl, ⟨Nat.zero_le _, Nat.zero_le _⟩, ?_, hordered,
    hscrubs.1, hscrubs.2, routineHeld_of_noClaims rfl rfl, hmatched,
    (State.registersMatchClaims_iff _).2 (hregs.congr rfl (fun _ => rfl) (fun _ => ⟨rfl, rfl⟩) rfl), fun n => ?_⟩
  · exact ⟨List.Perm.refl [], List.nodup_nil, Nat.zero_le _, List.not_mem_nil⟩
  · have hnone : State.poweredOn.segmentTotal n = 0 := powerOnValues_segmentTotal _ n _
    exact hnone.le.trans (Nat.zero_le _)

end Sys2Proof.Machine
end

section
/-! PROOF. The end of the warm-up (R17, R53): the SCRUBs of the scrub list, and the grant of the first. -/

namespace Sys2Proof.Machine

/-- The SCRUB that the row table claims for a row (R17, R40). -/
def scrubOf (row : Nat) : Claim :=
  ⟨.scrub, row, .rowTable, .scrub⟩

variable {s : State} {rows : List Nat}

theorem State.grantableOf_scrubs (h : s.arb.claims = rows.map scrubOf) (k : ClaimClass) :
    s.grantableOf k = if k = .scrub then rows.map scrubOf else [] := by
  unfold State.grantableOf
  rw [h]
  split
  · next hk =>
    refine List.filter_eq_self.2 fun c hc => ?_
    obtain ⟨row, -, rfl⟩ := List.mem_map.1 hc
    simp [hk, scrubOf, State.grantable]
  · next hk =>
    refine List.filter_eq_nil_iff.2 fun c hc => ?_
    obtain ⟨row, -, rfl⟩ := List.mem_map.1 hc
    simp [scrubOf, Ne.symm hk]

theorem oldestClaim_nil (rows : List Nat) : oldestClaim rows [] = none := by
  induction rows with
  | nil => rfl
  | cons row rows ih => simpa [oldestClaim] using ih

/-- With SCRUBs alone pending, the front of the scrub list is scrubbed first (R43, R44). -/
theorem State.chooseGrant_scrubs {first : Nat} {rest : List Nat} (h : s.arb.claims = (first :: rest).map scrubOf)
    (hlist : s.rfe.scrubList = first :: rest) : s.chooseGrant = some (scrubOf first) := by
  simp [State.chooseGrant, State.grantableOf_scrubs h, oldestClaim_nil, State.chooseStream, State.earliestTaken, hlist,
    oldestClaim, scrubOf]

/-- The claims of the scrub list join, and the circuit is FREE (R17, R53). -/
def State.warmedUp (s : State) : State :=
  { s with arb := { s.arb with circuit := .free, claims := s.arb.claims ++ s.rfe.scrubList.map scrubOf } }

theorem warmupEnd_of_elapsed {start : Nat} (hlive : s.live = true) (hcirc : s.arb.circuit = .warmup (some start))
    (htime : start + 2000 ≤ s.clock) : warmupEnd s = s.warmedUp.settle := by
  simp only [warmupEnd, hcirc, hlive, State.elapsed, Config.warmup, htime, decide_true, Bool.and_self, if_true]
  rfl

/-- Settles O6: the claims raised are the scrub list's, of which the grant takes the first. -/
theorem warmupEndStartsInitialScrub : Obligations.WarmupEndStartsInitialScrub := by
  intro s dt start first rest hlive hcirc htime hclaims hlist hinit
  refine completes_of_run s (i := .warmupEnd dt) rfl ?_
  simp only [Instr.run, Instr.elapsed]
  rw [warmupEnd_of_elapsed (s := s.advance dt) hlive hcirc htime]
  generalize hu : (s.advance dt).warmedUp = u
  have hraised : u.arb.claims = (first :: rest).map scrubOf := by
    simp [← hu, State.warmedUp, State.advance, hclaims, hlist]
  have hchosen : u.settle = u.grant (scrubOf first) := by
    rw [State.settle_of_free u (by rw [← hu]; rfl), State.grantDecision,
      State.chooseGrant_scrubs hraised (by rw [← hu]; exact hlist)]
  obtain ⟨hop, hleft, -⟩ := u.grant_spec (scrubOf first)
  have hvalue : (u.operationOf (scrubOf first)).value = 0 := by
    simp [State.operationOf, scrubOf, ← hu, State.warmedUp, State.advance, hinit]
  refine ⟨⟨u.operationOf (scrubOf first), hchosen ▸ hop, rfl, ?_, hvalue, rfl⟩, ?_, ?_, ?_, ?_⟩
  · rw [u.settle_frame.2.1]; rfl
  · rw [hchosen, hleft, hraised]
    simp [scrubOf]
  · have hblocks : s.blocksKept u.settle := by
      simp [← hu, State.warmedUp, State.blocksKept, State.cellsKept, State.advance]
    refine ⟨hblocks, fun r => ?_, fun k => ?_⟩
    · have hlr : u.lr r = s.lr r := by rw [← hu]; rfl
      rw [← hlr]
      exact u.settle_lr r
    · have hslot : u.slot k = s.slot k := by rw [← hu]; rfl
      rw [← hslot]
      exact u.settle_slot k
  · simp [← hu, State.warmedUp, State.advance]
  · simp [← hu, State.warmedUp, State.advance]

end Sys2Proof.Machine
end

section
/-! PROOF. A LOAD's completion: what its register takes (R4, R59) and what its stream makes of it (R88, R92, R95, R96). -/

namespace Sys2Proof.Machine

/-- The outbound queue and the notice unit are the same: the same has been told. -/
def State.toldAs (s t : State) : Prop :=
  t.hlc = s.hlc ∧ t.ntu = s.ntu

namespace State.toldAs

variable {s t u : State}

theorem refl (s : State) : s.toldAs s := ⟨rfl, rfl⟩

theorem mapStr (s : State) (n : StreamId) (f : StreamRec → StreamRec) : s.toldAs (s.mapStr n f) := ⟨rfl, rfl⟩

theorem symm (h : s.toldAs t) : t.toldAs s := ⟨h.1.symm, h.2.symm⟩

theorem trans (h : s.toldAs t) (h' : t.toldAs u) : s.toldAs u := ⟨h'.1.trans h.1, h'.2.trans h.2⟩

/-- A report reads and changes nothing else. -/
theorem report (h : s.toldAs t) (x : Notice) : (s.report x).toldAs (t.report x) :=
  State.report_congr h.1 h.2 x

theorem reportIf (h : s.toldAs t) (b : Bool) (x : Notice) : (s.reportIf b x).toldAs (t.reportIf b x) := by
  cases b
  · exact h
  · exact h.report x

end State.toldAs

section

variable {s t : State} {n m : StreamId} {r : LrId} {op : Operation}

/-! ## The registers' holdings -/

/-- The registers of a stream hold the same segments, taken in the same order. -/
theorem State.heldRegs_congr (h : ∀ q, streamOf q = some n → (t.lr q).segment = (s.lr q).segment
    ∧ (t.lr q).takeSeq = (s.lr q).takeSeq) : t.heldRegs n = s.heldRegs n := by
  obtain ⟨he, he'⟩ := h _ (streamOf_evenReg n)
  obtain ⟨ho, ho'⟩ := h _ (streamOf_oddReg n)
  simp only [State.heldRegs, he, he', ho, ho']

theorem State.playCurrent_congr (h : ∀ q, streamOf q = some n → (t.lr q).segment = (s.lr q).segment
    ∧ (t.lr q).takeSeq = (s.lr q).takeSeq) : t.playCurrent n = s.playCurrent n := by
  rw [State.playCurrent, State.heldRegs_congr h, State.playCurrent]

/-- A completion leaves no claim of a register that had none pending. -/
theorem State.completed_claimPending (h : s.claimPending r = false) : (s.completed op).claimPending r = false := by
  have hsub := s.completed_filter_isOf op r
  have hnil : (s.arb.claims.filter fun c => c.isOf r) = [] :=
    List.filter_eq_nil_iff.2 fun c hc hcr => by
      have := List.any_eq_false.1 h c hc
      exact this hcr
  rw [hnil, List.sublist_nil] at hsub
  exact List.any_eq_false.2 fun c hc => List.filter_eq_nil_iff.1 hsub c hc

theorem State.claimPending_congr (harb : t.arb = s.arb) : t.claimPending r = s.claimPending r := by
  rw [State.claimPending, harb, State.claimPending]

theorem State.completed_memory (s : State) (op : Operation) :
    (s.completed op).rat.memory = (s.written op).rat.memory :=
  State.rowCompleted_memory _ _

/-! ## What the stream makes of it -/

/-- SEGMENT_LOST, once for the segment held (R92). -/
theorem State.reportLoss_spec (s : State) (n : StreamId) (r : LrId) (row : Nat) :
    let lossTold := (s.lr r).sourceLost && !(s.str n).lossReported r
    (s.reportLoss n r row).str n = (if lossTold then (s.str n).setLossReported r true else s.str n)
      ∧ (m ≠ n → (s.reportLoss n r row).str m = s.str m)
      ∧ (s.reportIf lossTold (.segmentLost n row)).toldAs (s.reportLoss n r row) := by
  intro lossTold
  unfold State.reportLoss
  split
  · next h =>
    have hlost : lossTold = true := h
    rw [hlost]
    exact ⟨by simp [State.mapStr_str], fun hm => by simp [State.mapStr_str, hm], (State.toldAs.mapStr s n _).report _⟩
  · next h =>
    have hkept : lossTold = false := Bool.eq_false_iff.2 h
    rw [hkept]
    exact ⟨rfl, fun _ => rfl, State.toldAs.refl s⟩

/-- Output resumes (R95, R96). -/
theorem State.playResume_spec (s : State) (n : StreamId) (row : Nat) :
    (s.playResume n row).str n = { s.str n with state := .running, starvedRun := 0 }
      ∧ (m ≠ n → (s.playResume n row).str m = s.str m)
      ∧ (s.report (.streamUnderrun n row (s.str n).starvedRun .resumed)).toldAs (s.playResume n row) := by
  exact ⟨by simp [State.playResume, State.mapStr_str], fun hm => by simp [State.playResume, State.mapStr_str, hm],
    (State.toldAs.mapStr s n _).report _⟩

/-- The load ends an underrun: of the current register, in STARVED, under ALIGN with two cells or more left (R95, R96). -/
def State.loadResumes (s : State) (n : StreamId) (r : LrId) (g : Segment) : Bool :=
  s.playCurrent n == some r && (s.str n).state == .starved
    && ((s.str n).policy == .hold || decide (2 ≤ (s.lr r).remaining g))

/-- The second half of a load's completion: the current register's load ends PRIMING or an underrun (R88, R95, R96). -/
def State.playServed (s : State) (n : StreamId) (r : LrId) (g : Segment) : State :=
  if s.playCurrent n = some r then
    match (s.str n).state with
    | .priming => s.mapStr n fun x => { x with state := .ready }
    | .starved =>
      match (s.str n).policy with
      | .hold => s.playResume n g.row
      | .align => if 2 ≤ (s.lr r).remaining g then s.playResume n g.row else s
    | _ => s
  else s

theorem State.playLoaded_eq (s : State) (n : StreamId) (r : LrId) (g : Segment) (wasReload : Bool) :
    s.playLoaded n r g wasReload =
      ((if wasReload then s.count n fun c => { c with reloads := satAdd c.reloads 1 } else s).reportLoss n r
        g.row).playServed n r g := rfl

theorem State.playServed_resumes (g : Segment) (h : s.loadResumes n r g = true) :
    s.playServed n r g = s.playResume n g.row := by
  simp only [State.loadResumes, Bool.and_eq_true, beq_iff_eq, Bool.or_eq_true, decide_eq_true_eq] at h
  obtain ⟨⟨hcurrent, hstate⟩, hpolicy⟩ := h
  rw [State.playServed, if_pos hcurrent, hstate]
  cases hp : (s.str n).policy with
  | hold => rfl
  | align => simp [(hpolicy.resolve_left (by simp [hp]))]

theorem State.playServed_other (g : Segment) (h : s.loadResumes n r g = false) :
    s.playServed n r g = if (s.playCurrent n == some r && (s.str n).state == .priming) = true then
      s.mapStr n fun x => { x with state := .ready } else s := by
  simp only [State.loadResumes] at h
  unfold State.playServed
  by_cases hcurrent : s.playCurrent n = some r
  · rw [if_pos hcurrent]
    cases hstate : (s.str n).state <;> simp [hcurrent]
    cases hp : (s.str n).policy with
    | hold => simp [hcurrent, hstate, hp] at h
    | align =>
      have hshort : ¬ 2 ≤ (s.lr r).remaining g := by simpa [hcurrent, hstate, hp] using h
      simp [hshort]
  · simp [hcurrent]

theorem State.playServed_spec (s : State) (n : StreamId) (r : LrId) (g : Segment) :
    let resumes := s.loadResumes n r g
    (s.playServed n r g).str n = { s.str n with
        state := if s.playCurrent n == some r && (s.str n).state == .priming then .ready
          else if resumes then .running else (s.str n).state
        starvedRun := if resumes then 0 else (s.str n).starvedRun }
      ∧ (m ≠ n → (s.playServed n r g).str m = s.str m)
      ∧ (s.reportIf resumes (.streamUnderrun n g.row (s.str n).starvedRun .resumed)).toldAs (s.playServed n r g) := by
  intro resumes
  cases hr : resumes with
  | true =>
    have hstate : (s.str n).state = .starved := by
      have h : s.loadResumes n r g = true := hr
      simp only [State.loadResumes, Bool.and_eq_true, beq_iff_eq] at h
      exact h.1.2
    rw [State.playServed_resumes g hr]
    obtain ⟨hstr, hother, htold⟩ := s.playResume_spec (m := m) n g.row
    exact ⟨by simp [hstr, hstate], hother, htold⟩
  | false =>
    rw [State.playServed_other g hr]
    split
    · next h => exact ⟨by simp [State.mapStr_str], fun hm => by simp [State.mapStr_str, hm], rfl, rfl⟩
    · next h => exact ⟨by simp, fun _ => rfl, rfl, rfl⟩

/-- The load's completion, as the stream's record and the notices show it. -/
theorem State.playLoaded_spec (s : State) (n : StreamId) (r : LrId) (g : Segment) (wasReload : Bool) :
    let x := s.str n
    let resumes := s.loadResumes n r g
    let lossTold := (s.lr r).sourceLost && !x.lossReported r
    (s.playLoaded n r g wasReload).str n = { (if lossTold then x.setLossReported r true else x) with
        state := if s.playCurrent n == some r && x.state == .priming then .ready
          else if resumes then .running else x.state
        starvedRun := if resumes then 0 else x.starvedRun
        counters := { x.counters with
          reloads := if wasReload then satAdd x.counters.reloads 1 else x.counters.reloads } }
      ∧ (m ≠ n → (s.playLoaded n r g wasReload).str m = s.str m)
      ∧ ((s.reportIf lossTold (.segmentLost n g.row)).reportIf resumes
          (.streamUnderrun n g.row x.starvedRun .resumed)).toldAs (s.playLoaded n r g wasReload) := by
  intro x resumes lossTold
  rw [State.playLoaded_eq]
  generalize hu : (if wasReload then s.count n fun c => { c with reloads := satAdd c.reloads 1 } else s) = u
  have hstr : u.str n = { x with counters := { x.counters with
      reloads := if wasReload then satAdd x.counters.reloads 1 else x.counters.reloads } } := by
    rw [← hu]
    cases wasReload <;> simp [State.count, State.mapStr_str, x]
  have hother : m ≠ n → u.str m = s.str m := fun hm => by
    rw [← hu]
    cases wasReload <;> simp [State.count, State.mapStr_str, hm]
  have hlr : ∀ q, u.lr q = s.lr q := fun q => by rw [← hu]; cases wasReload <;> simp [State.count]
  have htold : s.toldAs u := by rw [← hu]; cases wasReload <;> exact ⟨rfl, rfl⟩
  have hloss : ((u.lr r).sourceLost && !(u.str n).lossReported r) = lossTold := by
    rw [hlr, hstr]
    cases r <;> rfl
  obtain ⟨hlostStr, hlostOther, hlostTold⟩ := u.reportLoss_spec (m := m) n r g.row
  simp only [hloss] at hlostStr hlostTold
  generalize hv : u.reportLoss n r g.row = v at hlostStr hlostOther hlostTold ⊢
  have hvlr : ∀ q, v.lr q = s.lr q := fun q => by rw [← hv]; simpa using hlr q
  have hcurrent : v.playCurrent n = s.playCurrent n := State.playCurrent_congr fun q _ => by rw [hvlr]; exact ⟨rfl, rfl⟩
  have hvstr : v.str n = { (if lossTold then x.setLossReported r true else x) with counters := { x.counters with
      reloads := if wasReload then satAdd x.counters.reloads 1 else x.counters.reloads } } := by
    rw [hlostStr, hstr]
    cases lossTold
    · rfl
    · cases r <;> rfl
  have hkept : (v.str n).state = x.state ∧ (v.str n).policy = x.policy ∧ (v.str n).starvedRun = x.starvedRun := by
    rw [hvstr]
    cases lossTold
    · exact ⟨rfl, rfl, rfl⟩
    · cases r <;> exact ⟨rfl, rfl, rfl⟩
  obtain ⟨hstate, hpolicy, hrun⟩ := hkept
  have hresumes : v.loadResumes n r g = resumes := by
    simp only [State.loadResumes, hcurrent, hstate, hpolicy, hvlr, resumes, x]
  obtain ⟨hservedStr, hservedOther, hservedTold⟩ := v.playServed_spec (m := m) n r g
  simp only [hresumes, hcurrent, hstate, hrun] at hservedStr hservedTold
  refine ⟨?_, fun hm => (hservedOther hm).trans ((hlostOther hm).trans (hother hm)), ?_⟩
  · rw [hservedStr, hvstr]
  · exact State.toldAs.trans (((htold.reportIf _ _).trans hlostTold).reportIf _ _) hservedTold

/-! ## The obligations -/

/-- The state in which a LOAD's register has taken its row. -/
def State.loaded (s : State) (op : Operation) (r : LrId) : State :=
  (s.completed op).mapLr r fun x => x.loadedWith (s.rowCells op.claim.row) (s.row op.claim.row).lost s.clock

theorem State.loaded_lr (s : State) (op : Operation) (r q : LrId) :
    (s.loaded op r).lr q = if q = r then (s.lr r).loadedWith (s.rowCells op.claim.row) (s.row op.claim.row).lost s.clock
      else s.lr q := by
  simp [State.loaded, State.mapLr, State.lr_setLr]

theorem State.rowCells_length (s : State) (row : Nat) : (s.rowCells row).length = 256 := by
  simp [State.rowCells, Config.columns]

theorem State.rowCells_getD (s : State) (row : Nat) {col : Nat} (h : col < 256) :
    (s.rowCells row).getD col 0 = s.rat.memory.read row col := by
  simp [State.rowCells, Config.columns, h]

/-- Settles O9: the register is written once, at the completion, and no claim of it is left for a grant to change. -/
theorem loadCompletionFillsRegister : Obligations.LoadCompletionFillsRegister := by
  intro s op dt tie r n g hdue hk hcl hr hg hd hidle
  have hc := s.completing_of_due hdue
  refine completes_of_run s (i := .loadCompletion ⟨dt, tie⟩) rfl ?_
  simp only [Instr.run, Instr.elapsed]
  rw [loadCompletion_loaded tie hc hk hcl hr hd hg]
  generalize hu : State.playLoaded _ n r g _ = u
  have hfree : u.arb.circuit = .free := by rw [← hu]; simp
  have hpending : u.claimPending r = false := by
    rw [← hu, State.claimPending_congr (s := (s.advance dt).completed op) (by simp)]
    exact State.completed_claimPending hidle
  have hlr : ∀ q, u.lr q = ((s.advance dt).loaded op r).lr q := fun q => by rw [← hu]; simp [State.loaded]
  obtain ⟨hrat, -, -, hregs, hsst⟩ := State.conclude_keepsUnits u tie hfree
  have hreg : (u.conclude tie).lr r = (s.lr r).loadedWith ((s.advance dt).rowCells op.claim.row)
      (s.row op.claim.row).lost (s.clock + dt) := by
    rw [State.conclude_lr_of_idle u tie hpending, hlr, State.loaded_lr, if_pos rfl]
    rfl
  have hmemory : u.rat.memory = s.rat.memory := by
    have hcells : ((s.advance dt).completed op).rat.memory = s.rat.memory := by
      rw [State.completed_memory, (s.advance dt).written_load hk]
      rfl
    rw [← hu]
    simpa using hcells
  have hclock : (u.conclude tie).clock = s.clock + dt := by rw [← hu]; simp [State.advance]
  refine ⟨?_, ?_, fun col hcol => ?_, fun row col => ?_, fun q hq => ?_, ?_, ?_, ?_, ?_⟩
  · rw [hreg, hclock]
    rfl
  · rw [hreg]
    exact State.rowCells_length _ _
  · rw [hreg]
    exact State.rowCells_getD _ _ hcol
  · rw [hrat, hmemory]
  · have hq' : u.lr q = s.lr q := by rw [hlr, State.loaded_lr, if_neg hq]; rfl
    rw [← hq']
    exact hregs q
  · rw [(u.conclude_frame tie).2.2.2.2.2.2.2.1, ← hu]
    simp [State.advance]
  · rw [hsst, ← hu]
    simp [State.advance]
  · rw [← hu]
    simp [State.advance, State.completed_mode]
  · rw [← hu]
    simp [State.advance, State.completed_scrubList, hk]

/-- Settles O10: `State.playLoaded_spec` in the state in which the register has taken its row. -/
theorem loadCompletionServesStream : Obligations.LoadCompletionServesStream := by
  intro s op dt tie r n g hdue hk hcl hr hg hd
  have hc := s.completing_of_due hdue
  refine completes_of_run s (i := .loadCompletion ⟨dt, tie⟩) rfl ?_
  simp only [Instr.run, Instr.elapsed]
  rw [loadCompletion_loaded tie hc hk hcl hr hd hg]
  generalize hv : State.mapLr _ r _ = v
  have hlr : ∀ q, v.lr q = ((s.advance dt).loaded op r).lr q := fun q => by rw [← hv]; rfl
  have hstr : ∀ m, v.str m = s.str m := fun m => by rw [← hv]; simp [State.advance, State.str]
  have htold : s.toldAs v := by rw [← hv]; exact ⟨by simp [State.advance], by simp [State.advance]⟩
  have hreg : v.lr r = (s.lr r).loadedWith ((s.advance dt).rowCells op.claim.row) (s.row op.claim.row).lost
      (s.clock + dt) := by
    rw [hlr, State.loaded_lr, if_pos rfl]
    rfl
  have hcurrent : v.playCurrent n = s.playCurrent n := State.playCurrent_congr fun q _ => by
    rw [hlr, State.loaded_lr]
    split
    · next e => subst e; exact ⟨rfl, rfl⟩
    · exact ⟨rfl, rfl⟩
  have hresumes : v.loadResumes n r g = s.loadResumes n r g := by
    simp only [State.loadResumes, hcurrent, hstr, hreg]
    rfl
  obtain ⟨hserved, hother, hnotices⟩ := v.playLoaded_spec (m := otherStream n) n r g (s.lr r).reloading
  simp only [hcurrent, hresumes, hstr, hreg] at hserved hother hnotices
  have hne : otherStream n ≠ n := by cases n <;> decide
  have hall := ((htold.reportIf _ _).reportIf _ _).trans hnotices
  simp only [State.conclude_frame]
  exact ⟨hserved, hother hne, hall⟩

end

end Sys2Proof.Machine
end

section
/-! PROOF. The completions of a refresh (R9, R32, R33) and of a SCRUB (R8, R17, R18, R31). -/

namespace Sys2Proof.Machine

section

variable {s t : State} {op : Operation}

theorem State.hasClaim_congr (harb : t.arb = s.arb) (c : Claim) : t.hasClaim c ↔ s.hasClaim c := by
  simp only [State.hasClaim, State.holdsClaim, State.inFlight, harb]

/-- A completion raises nothing but the refresh engine's ROUTINE claim (R23, R47). -/
theorem State.completed_hasClaim {c : Claim} (h : (s.completed op).hasClaim c) : s.hasClaim c ∨ c.cls = .routine := by
  obtain h | h := State.rowCompleted_hasClaim _ h
  · exact .inl ((State.hasClaim_congr (by simp) c).1 h)
  · exact .inr h

/-- A completion that writes no cell keeps all but the row table, the order list and the claims. -/
theorem State.completed_units (s : State) (op : Operation) (hw : s.written op = s) :
    s.cellsKept (s.completed op) ∧ (s.completed op).ste = s.ste ∧ (s.completed op).ntu = s.ntu
      ∧ s.registersKept (s.completed op) ∧ (s.completed op).sst = s.sst := by
  refine ⟨fun row col => ?_, by simp, by simp, fun r => by simp, by simp⟩
  rw [State.completed_memory, hw]

/-- The end of a request with the circuit free: the grant decision, or all left to the next request (log entry 5). -/
theorem State.conclude_awaits (s : State) (tie : TieOrder) (hf : s.arb.circuit = .free) :
    if s.awaitsNext tie = true then s.conclude tie = s else (s.conclude tie).circuitFreed := by
  have hkeeps : s.keepsRow = false := by simp [State.keepsRow, hf]
  split
  · next h => simp [State.conclude, hkeeps, h]
  · exact s.conclude_circuitFreed tie hf

/-! ## Refreshes -/

section Refresh

variable (tie : TieOrder) (hc : s.completing = some op) (hk : op.claim.kind = .refresh)
include hc hk

/-- Whatever the request engine does next leaves the units as the refresh has left them. -/
theorem refreshCompletion_keepsUnits : (s.completed op).keepsUnits (refreshCompletion tie s) := by
  have hfree := s.completed_circuit op
  by_cases hp : op.claim.cls = .host ∧ op.discarded = false ∧ ∃ first last current, s.rqe.phase = .refreshing first last current
  · obtain ⟨hh, hd, first, last, current, hp⟩ := hp
    by_cases hrow : current < last
    · rw [refreshCompletion_next tie hc hk hh hd hp hrow]
      exact State.settle_keepsUnits _ hfree
    · rw [refreshCompletion_last tie hc hk hh hd hp hrow]
      exact (State.finish_keepsUnits ..).trans (State.conclude_keepsUnits _ tie (by simp))
  · rw [refreshCompletion_unasked tie hc hk fun hh hd first last current e => hp ⟨hh, hd, first, last, current, e⟩]
    exact State.settle_keepsUnits _ hfree

theorem refreshCompletion_next_row {first last : Nat} (hh : op.claim.cls = .host) (hd : op.discarded = false)
    (hp : s.rqe.phase = .refreshing first last op.claim.row) (hrow : op.claim.row < last) :
    (refreshCompletion tie s).hasClaim ⟨.refresh, op.claim.row + 1, .requestEngine, .host⟩
      ∧ (refreshCompletion tie s).rqe = { s.rqe with phase := .refreshing first last (op.claim.row + 1) }
      ∧ (refreshCompletion tie s).hlc = s.hlc := by
  rw [refreshCompletion_next tie hc hk hh hd hp hrow]
  refine ⟨?_, by simp, by simp⟩
  rw [State.settle_hasClaim, State.setPhase_hasClaim]
  exact State.raiseClaim_hasClaim _ _

theorem refreshCompletion_last_row {first last : Nat} {r : Request} {rest : List Request} (hh : op.claim.cls = .host)
    (hd : op.discarded = false) (hp : s.rqe.phase = .refreshing first last op.claim.row) (hq : s.rqe.queue = r :: rest)
    (hrow : last ≤ op.claim.row) :
    s.answers (refreshCompletion tie s) r.tag rest .ok 0 (natBytes2 (last - first + 1))
      ∧ if tie = .raiseFirst ∧ rest ≠ [] then (refreshCompletion tie s).arb.circuit = .free
        else (refreshCompletion tie s).circuitFreed := by
  rw [refreshCompletion_last tie hc hk hh hd hp (Nat.not_lt.2 hrow)]
  have hqueue : (s.completed op).rqe.queue = r :: rest := by simpa using hq
  have hanswered := State.conclude_finish_answers (s.completed op) tie .ok 0 (natBytes2 (last - first + 1)) hqueue
  refine ⟨by simpa [State.answers] using hanswered, ?_⟩
  have hspec := State.finish_spec (s.completed op) .ok 0 (natBytes2 (last - first + 1)) hqueue
  generalize hu : (s.completed op).finish .ok 0 (natBytes2 (last - first + 1)) = u at hspec ⊢
  have hfree : u.arb.circuit = .free := by simp [hspec]
  have hawaits : u.awaitsNext tie = true ↔ tie = .raiseFirst ∧ rest ≠ [] := by simp [State.awaitsNext, hspec]
  have hconcluded := u.conclude_awaits tie hfree
  split_ifs at hconcluded with h
  · rw [if_pos (hawaits.1 h), hconcluded, hfree]
  · rw [if_neg fun h' => h (hawaits.2 h')]
    exact hconcluded

/-- A refresh of the refresh engine, or one to be discarded, is no REFRESH's. -/
theorem refreshCompletion_own_eq (h : op.claim.cls ≠ .host ∨ op.discarded = true) :
    refreshCompletion tie s = (s.completed op).settle := by
  refine refreshCompletion_unasked tie hc hk fun hh hd => ?_
  obtain h | h := h
  · exact absurd hh h
  · rw [hd] at h
    cases h

/-- It answers nothing. -/
theorem refreshCompletion_own (h : op.claim.cls ≠ .host ∨ op.discarded = true) :
    (refreshCompletion tie s).rqe = s.rqe ∧ (refreshCompletion tie s).hlc = s.hlc
      ∧ (refreshCompletion tie s).circuitFreed
      ∧ ∀ c, (refreshCompletion tie s).hasClaim c → s.hasClaim c ∨ c.cls = .routine := by
  rw [refreshCompletion_own_eq tie hc hk h]
  refine ⟨by simp, by simp, State.settle_circuitFreed _ (s.completed_circuit op), fun c hclaim => ?_⟩
  exact State.completed_hasClaim ((State.settle_hasClaim _ c).1 hclaim)

end Refresh

/-- Settles O16: a completion is the completed row, then the next claim, the reply, or nothing, and the arbiter's act. -/
theorem refreshGoesRowByRow : Obligations.RefreshGoesRowByRow := by
  intro s op dt tie hdue hk
  have hc := s.completing_of_due hdue
  refine completes_of_run s (i := .refreshCompletion ⟨dt, tie⟩) rfl ?_
  simp only [Instr.run, Instr.elapsed]
  obtain ⟨hcells, hste, hntu, hregs, hsst⟩ :=
    (s.advance dt).completed_units op ((s.advance dt).written_refresh hk)
  obtain ⟨hrat', hste', hntu', hregs', hsst'⟩ := refreshCompletion_keepsUnits tie hc hk
  refine ⟨fun first last r rest hh hd hp hq => ⟨fun hrow => ?_, fun hrow => ?_⟩, fun h => ?_, fun row col => ?_,
    hste'.trans hste, hntu'.trans hntu, fun r => ?_, hsst'.trans hsst⟩
  · exact refreshCompletion_next_row tie hc hk hh hd hp hrow
  · exact refreshCompletion_last_row tie hc hk hh hd hp hq hrow
  · exact refreshCompletion_own tie hc hk h
  · rw [hrat']
    exact hcells row col
  · rw [hregs' r, hregs r]
    rfl

/-! ## SCRUBs -/

/-- The end of INIT and its notice (R18). -/
theorem State.initDone_spec (s : State) (row : Nat) :
    let ends := s.rat.state == .init && row == 511
    (s.initDone row).rat = { s.rat with state := if ends then .ready else s.rat.state }
      ∧ (s.reportIf ends .initDone).toldAs (s.initDone row) := by
  intro ends
  unfold State.initDone
  split
  · next h =>
    have hends : ends = true := by simp [ends, h.1, h.2]
    rw [hends]
    exact ⟨by simp, State.toldAs.report (s := s) (t := { s with rat := { s.rat with state := .ready } }) ⟨rfl, rfl⟩ _⟩
  · next h =>
    have hends : ends = false := by simpa [ends] using h
    rw [hends]
    exact ⟨rfl, State.toldAs.refl s⟩

/-- Settles O17: the row leaves the scrub list with its completion, and row 511's ends INIT. -/
theorem scrubCompletionFreesRow : Obligations.ScrubCompletionFreesRow := by
  intro s op dt hdue hk
  have hc := s.completing_of_due hdue
  refine completes_of_run s (i := .scrubCompletion dt) rfl ?_
  simp only [Instr.run, Instr.elapsed]
  rw [scrubCompletion_scrubbed hc hk]
  generalize hu : (s.advance dt).completed op = u
  have hlink : s.toldAs u := by rw [← hu]; exact ⟨by simp [State.advance], by simp [State.advance]⟩
  have hfill : u.rat.lossFill = s.rat.lossFill := by rw [← hu]; simp [State.completed, State.rowCompleted_table, State.advance]
  have hstate : u.rat.state = s.rat.state := by rw [← hu]; simp [State.completed, State.rowCompleted_table, State.advance]
  have hfree : (u.initDone op.claim.row).arb.circuit = .free := by rw [← hu]; simp
  obtain ⟨hrat, htold⟩ := u.initDone_spec op.claim.row
  rw [hstate] at hrat htold
  obtain ⟨hrat', hste, hntu, hregs, hsst⟩ := State.settle_keepsUnits _ hfree
  have hall := (hlink.reportIf _ _).trans htold
  refine ⟨?_, ?_, ?_, ?_, ?_, ?_, ?_, ?_, ?_, fun r => ?_⟩
  · rw [← hu]
    simp [State.completed_scrubList, hk, State.advance]
  · rw [hrat', hrat]
  · rw [State.settle_frame _ |>.2.2.2.2.2.2.2.2.1]
    exact hall.1
  · rw [hntu]
    exact hall.2
  · rw [hrat', hrat]
    exact hfill
  · rw [← hu]
    simp [State.completed_mode, State.advance]
  · rw [← hu]
    simp [State.advance]
  · rw [hste, ← hu]
    simp [State.advance]
  · rw [hsst, ← hu]
    simp [State.advance]
  · have hlr : (u.initDone op.claim.row).lr r = s.lr r := by rw [← hu]; simp [State.advance, State.lr]
    rw [← hlr]
    exact hregs r

end

end Sys2Proof.Machine
end

section
/-! PROOF. COPY_ROW's two operations (R4, R6, R72, R74, R142). -/

namespace Sys2Proof.Machine

section

variable {s t : State} {op : Operation}

/-- A claim raised into a free circuit waits for its grant, or is granted at once; a register without another claim is
as it was, or as the grant passes it (R43, R46). -/
theorem State.settle_raised {c : Claim} {r : LrId} (hf : s.arb.circuit = .free) (hidle : s.claimPending r = false)
    (hr : c.register? = some r) :
    (c ∈ (s.raiseClaim c).settle.arb.claims ∧ (s.raiseClaim c).settle.lr r = s.lr r)
      ∨ ((s.raiseClaim c).settle.inFlight = some ((s.raiseClaim c).operationOf c)
        ∧ (s.raiseClaim c).settle.lr r = (s.lr r).granted c.kind) := by
  have hmem : c ∈ (s.raiseClaim c).arb.claims := by simp
  obtain e | ⟨-, e | ⟨d, hd, e⟩⟩ := (s.raiseClaim c).settle_cases
  · rw [e]
    exact .inl ⟨hmem, rfl⟩
  · rw [e, State.closeHeld_of_not_held _ (by simp [hf])]
    exact .inl ⟨hmem, rfl⟩
  · rw [State.closeHeld_of_not_held _ (by simp [hf])] at e
    obtain ⟨hop, hleft, hlr⟩ := (s.raiseClaim c).grant_spec d
    rw [e]
    by_cases hdc : d = c
    · subst hdc
      exact .inr ⟨(State.inFlight_eq_some _).2 hop, by rw [hlr, if_pos hr]; rfl⟩
    · refine .inl ⟨hleft ▸ (List.mem_erase_of_ne (Ne.symm hdc)).2 hmem, ?_⟩
      have hold : d ∈ s.arb.claims := by simpa [hdc] using hd
      have hother : d.isOf r = false := Bool.eq_false_iff.2 fun h => List.any_eq_false.1 hidle d hold h
      rw [hlr, if_neg fun h => by simp [Claim.isOf, h] at hother]
      rfl

/-- LR4's discarded operation completes with no COPY_ROW waiting for it (R74). -/
theorem State.lr4Discarded_of_not_waiting (h : ∀ job, s.rqe.phase ≠ .copyWaiting job) :
    s.lr4Discarded = s.setLr .lr4 { s.lrb.lr4 with discardPending := none } := by
  simp only [State.lr4Discarded, State.setLr_rqe]

/-! ## The COPY_LOAD -/

theorem copyLoadCompletion_fills {job : CopyJob} (hc : s.completing = some op) (hk : op.claim.kind = .copyLoad)
    (hd : s.lrb.lr4.discardPending ≠ some .copyLoad) (hj : s.lrb.lr4.copy = some job)
    (hidle : s.claimPending .lr4 = false) :
    let commit : Claim := ⟨.copyCommit (rangeSections job.first job.count), job.dest, .requestEngine, .host⟩
    let loaded := s.lrb.lr4.loadedWith (s.rowCells op.claim.row) (s.row op.claim.row).lost s.clock
    (commit ∈ (copyLoadCompletion s).arb.claims ∧ (copyLoadCompletion s).lr .lr4 = loaded)
      ∨ ∃ op', (copyLoadCompletion s).inFlight = some op' ∧ op'.claim = commit
        ∧ op'.sourceLost = (s.row op.claim.row).lost
        ∧ (copyLoadCompletion s).lr .lr4 = { loaded with state := .committing, holdTimer := none } := by
  intro commit loaded
  rw [copyLoadCompletion_loaded hc hk hd hj]
  have hloaded : ((s.completed op).setLr .lr4 loaded).lr .lr4 = loaded := by simp
  have hpending : ((s.completed op).setLr .lr4 loaded).claimPending .lr4 = false := by
    rw [State.claimPending_congr (s := s.completed op) (by simp)]
    exact State.completed_claimPending hidle
  obtain ⟨hmem, hlr⟩ | ⟨hop, hlr⟩ := State.settle_raised (c := commit) (r := .lr4) (by simp) hpending rfl
  · exact .inl ⟨hmem, hlr.trans hloaded⟩
  · refine .inr ⟨_, hop, rfl, ?_, ?_⟩
    · simp [State.operationOf, commit, loaded, LineReg.loadedWith, LineRegs.set]
    · rw [hlr, hloaded]
      rfl

theorem copyLoadCompletion_frame {job : CopyJob} (hc : s.completing = some op) (hk : op.claim.kind = .copyLoad)
    (hd : s.lrb.lr4.discardPending ≠ some .copyLoad) (hj : s.lrb.lr4.copy = some job) :
    s.cellsKept (copyLoadCompletion s) ∧ (copyLoadCompletion s).rqe = s.rqe ∧ (copyLoadCompletion s).hlc = s.hlc
      ∧ (copyLoadCompletion s).ntu = s.ntu ∧ (copyLoadCompletion s).ste = s.ste
      ∧ (copyLoadCompletion s).clock = s.clock := by
  have hmemory : (s.completed op).rat.memory = s.rat.memory := by rw [State.completed_memory, s.written_copyLoad hk]
  rw [copyLoadCompletion_loaded hc hk hd hj]
  simp [State.cellsKept, hmemory]

/-! ## The obligation -/

theorem copyLoadCompletion_copies (s : State) (op : Operation) (dt : Nat) (job : CopyJob) (hdue : s.due dt op)
    (hk : op.claim.kind = .copyLoad) (hd : s.lrb.lr4.discardPending ≠ some .copyLoad) (hj : s.lrb.lr4.copy = some job)
    (hidle : s.claimPending .lr4 = false) :
    Completes (.copyLoadCompletion dt) s fun t =>
      let commit : Claim := ⟨.copyCommit (rangeSections job.first job.count), job.dest, .requestEngine, .host⟩
      (t.lr .lr4).content.length = 256
        ∧ (∀ col, col < 256 → (t.lr .lr4).content.getD col 0 = s.rat.memory.read op.claim.row col)
        ∧ (t.lr .lr4).sourceLost = (s.row op.claim.row).lost ∧ (t.lr .lr4).copy = some job
        ∧ ((commit ∈ t.arb.claims ∧ (t.lr .lr4).state = .loaded ∧ (t.lr .lr4).holdTimer = some t.clock)
            ∨ (∃ op', t.inFlight = some op' ∧ op'.claim = commit
                ∧ op'.sourceLost = (s.row op.claim.row).lost
                ∧ (t.lr .lr4).state = .committing ∧ (t.lr .lr4).holdTimer = none))
        ∧ s.cellsKept t ∧ t.rqe = s.rqe ∧ t.hlc = s.hlc ∧ t.ntu = s.ntu ∧ t.ste = s.ste := by
  have hc := s.completing_of_due hdue
  refine completes_of_run s (i := .copyLoadCompletion dt) rfl ?_
  simp only [Instr.run, Instr.elapsed]
  obtain ⟨hcells, hrqe, hhlc, hntu, hste, hclock⟩ := copyLoadCompletion_frame hc hk hd hj
  have hlength := (s.advance dt).rowCells_length op.claim.row
  have hread := fun col hcol => (s.advance dt).rowCells_getD op.claim.row (col := col) hcol
  obtain ⟨hmem, hlr⟩ | ⟨op', hop, hclaim, hlost, hlr⟩ := copyLoadCompletion_fills hc hk hd hj hidle <;> rw [hlr]
  · exact ⟨hlength, hread, rfl, hj, .inl ⟨hmem, rfl, by rw [hclock]; rfl⟩, hcells, hrqe, hhlc, hntu, hste⟩
  · exact ⟨hlength, hread, rfl, hj, .inr ⟨op', hop, hclaim, hlost, rfl, rfl⟩, hcells, hrqe, hhlc, hntu, hste⟩

theorem copyCommitCompletion_answers (s : State) (op : Operation) (dt : Nat) (tie : TieOrder) (range : SectionSet)
    (r : Request) (rest : List Request) (hdue : s.due dt op) (hk : op.claim.kind = .copyCommit range)
    (hd : s.lrb.lr4.discardPending ≠ some .copyCommit) (hidle : s.claimPending .lr4 = false)
    (hq : s.rqe.queue = r :: rest) :
    Completes (.copyCommitCompletion ⟨dt, tie⟩) s fun t =>
      s.answers t r.tag rest .ok (if op.sourceLost then 2 else 0) []
        ∧ t.lr .lr4 = s.lrb.lr4.cleared none ∧ t.ntu = s.ntu ∧ t.ste = s.ste := by
  have hc := s.completing_of_due hdue
  refine completes_of_run s (i := .copyCommitCompletion ⟨dt, tie⟩) rfl ?_
  simp only [Instr.run, Instr.elapsed]
  rw [copyCommitCompletion_copied tie hc hk hd]
  generalize hu : ((s.advance dt).completed op).setLr .lr4 _ = u
  have hqueue : u.rqe.queue = r :: rest := by rw [← hu]; simpa [State.advance] using hq
  have hflags : replyFlags false op.sourceLost = if op.sourceLost then 2 else 0 := by cases op.sourceLost <;> rfl
  have hpending : (u.finish .ok (replyFlags false op.sourceLost) []).claimPending .lr4 = false := by
    rw [← hu, State.claimPending_congr (s := (s.advance dt).completed op) (by simp)]
    exact State.completed_claimPending hidle
  have hanswered := State.conclude_finish_answers u tie .ok (replyFlags false op.sourceLost) [] hqueue
  rw [State.conclude_lr_of_idle _ tie hpending]
  refine ⟨?_, ?_, ?_, ?_⟩
  · have hrqe : u.rqe = s.rqe := by rw [← hu]; simp [State.advance]
    have hhlc : u.hlc = s.hlc := by rw [← hu]; simp [State.advance]
    rw [hflags, State.answers, hrqe, hhlc] at hanswered
    rw [hflags]
    exact hanswered
  · rw [← hu]
    simp [State.advance]
  · rw [← hu]
    simp [State.advance]
  · rw [← hu]
    simp [State.advance]

/-- Both completions of an emptied LR4's operation come to the same (R74). -/
theorem lr4Completion_run (dt : Nat) (tie : TieOrder) (hdue : s.due dt op)
    (hk : op.claim.kind = .copyLoad ∨ ∃ range, op.claim.kind = .copyCommit range)
    (hd : s.lrb.lr4.discardPending = op.claim.kind.discardKind) :
    (op.claim.kind.completion dt tie).wellFormed = true
      ∧ (op.claim.kind.completion dt tie).run (s.advance (op.claim.kind.completion dt tie).elapsed) =
        ((s.advance dt).completed op).lr4Discarded.settle := by
  have hc := s.completing_of_due hdue
  obtain hk | ⟨range, hk⟩ := hk
  · rw [hk] at hd ⊢
    exact ⟨rfl, copyLoadCompletion_discarded hc hk hd⟩
  · rw [hk] at hd ⊢
    exact ⟨rfl, copyCommitCompletion_discarded tie hc hk hd⟩

theorem lr4Completion_discarded (s : State) (op : Operation) (dt : Nat) (tie : TieOrder) (hdue : s.due dt op)
    (hk : op.claim.kind = .copyLoad ∨ ∃ range, op.claim.kind = .copyCommit range)
    (hd : s.lrb.lr4.discardPending = op.claim.kind.discardKind) (hidle : s.claimPending .lr4 = false)
    (hp : ∀ job, s.rqe.phase ≠ .copyWaiting job) :
    Completes (op.claim.kind.completion dt tie) s fun t =>
      t.lr .lr4 = { s.lrb.lr4 with discardPending := none } ∧ t.circuitFreed ∧ t.rqe = s.rqe ∧ t.hlc = s.hlc
        ∧ t.ntu = s.ntu ∧ t.ste = s.ste ∧ t.sst = s.sst := by
  obtain ⟨hwf, hrun⟩ := lr4Completion_run dt tie hdue hk hd
  refine completes_of_run s hwf ?_
  rw [hrun, State.lr4Discarded_of_not_waiting (by simpa [State.advance] using hp)]
  generalize hu : ((s.advance dt).completed op).setLr .lr4 _ = u
  have hfree : u.arb.circuit = .free := by rw [← hu]; simp
  have hpending : u.claimPending .lr4 = false := by
    rw [← hu, State.claimPending_congr (s := (s.advance dt).completed op) (by simp)]
    exact State.completed_claimPending hidle
  obtain ⟨-, hste, hntu, -, hsst⟩ := State.settle_keepsUnits u hfree
  refine ⟨?_, State.settle_circuitFreed u hfree, ?_, ?_, ?_, ?_, ?_⟩
  · rw [State.settle_lr_of_idle u hpending, ← hu]
    simp [State.advance]
  · rw [← hu]
    simp [State.advance]
  · rw [← hu]
    simp [State.advance]
  · rw [hntu, ← hu]
    simp [State.advance]
  · rw [hste, ← hu]
    simp [State.advance]
  · rw [hsst, ← hu]
    simp [State.advance]

/-- Settles O14: LR4 is written at the two completions, and otherwise only passed on by the grant of its COPY_COMMIT. -/
theorem copyRowLoadsCommitsAndAnswers : Obligations.CopyRowLoadsCommitsAndAnswers :=
  ⟨copyLoadCompletion_copies, copyCommitCompletion_answers, lr4Completion_discarded⟩

end

end Sys2Proof.Machine
end

section
/-! PROOF. The completion of an OPEN (R49, R131, R132) and the end of a burst (R48, R133, R134), with the fate of the held
row at the end of their requests (R135; log entry 5). -/

namespace Sys2Proof.Machine

section

variable {s t : State} {op : Operation} {k : SlotId} {row : Nat}

/-! ## The held row at the end of a request -/

/-- A held row stays held for a next column request on its session, while nothing preempts it, and for any next request
that makes the close itself (R48, R135; log entry 5). -/
def State.rowStays (s : State) (k : SlotId) (tie : TieOrder) : Bool :=
  if s.nextIsOn k then !s.preempting else tie == .raiseFirst && !s.rqe.queue.isEmpty

theorem State.conclude_held (tie : TieOrder) (hcirc : s.arb.circuit = .held k row) (hphase : s.rqe.phase = .free) :
    s.conclude tie = if s.rowStays k tie then s else s.closeHeld.settle := by
  have hkeeps : s.keepsRow = s.nextIsOn k := by simp [State.keepsRow, hcirc]
  have hawaits : s.awaitsNext tie = (tie == .raiseFirst && !s.rqe.queue.isEmpty) := by simp [State.awaitsNext, hphase]
  have hfree : s.closeHeld.arb.circuit = .free := by rw [s.closeHeld_circuit, hcirc]
  unfold State.conclude State.rowStays
  rw [hkeeps, hawaits]
  cases s.nextIsOn k with
  | true =>
    rw [if_pos rfl, if_pos rfl, State.settle_of_free _ hfree, State.settle, hcirc]
    cases s.preempting <;> rfl
  | false => rfl

/-- What the close of the held row leaves: its session parked, and the circuit free for the grant decision. -/
theorem State.closed_spec (hcirc : s.arb.circuit = .held k row) :
    s.closeHeld.settle.slot k = { s.slot k with state := .parked }
      ∧ (∀ q, q ≠ k → s.closeHeld.settle.slot q = s.slot q)
      ∧ s.closeHeld.settle.circuitFreed ∧ s.registersKept s.closeHeld.settle := by
  have hfree : s.closeHeld.arb.circuit = .free := by rw [s.closeHeld_circuit, hcirc]
  obtain ⟨-, -, -, hregs, hsst⟩ := s.closeHeld.settle_keepsUnits hfree
  have hslot : ∀ q, s.closeHeld.settle.slot q = s.closeHeld.slot q := fun q => by rw [State.slot, hsst, State.slot]
  refine ⟨?_, fun q hq => ?_, s.closeHeld.settle_circuitFreed hfree, fun r => ?_⟩
  · rw [hslot, s.closeHeld_slot, s.closeHeld_slot_held hcirc]
  · rw [hslot, s.closeHeld_slot_other]
    intro row' e
    rw [hcirc] at e
    cases e
    exact hq rfl
  · simpa using hregs r

/-- The slot and the circuit of a held row at the end of a request, as the row stays or is closed. -/
theorem State.conclude_held_spec (tie : TieOrder) (hcirc : s.arb.circuit = .held k row) (hphase : s.rqe.phase = .free) :
    (s.conclude tie).slot k = { s.slot k with state := if s.rowStays k tie then (s.slot k).state else .parked }
      ∧ (∀ q, q ≠ k → (s.conclude tie).slot q = s.slot q)
      ∧ (if s.rowStays k tie then (s.conclude tie).arb = s.arb else (s.conclude tie).circuitFreed)
      ∧ s.registersKept (s.conclude tie) := by
  rw [State.conclude_held tie hcirc hphase]
  cases s.rowStays k tie with
  | true => exact ⟨rfl, fun _ _ => rfl, rfl, fun _ => rfl⟩
  | false => exact State.closed_spec hcirc

theorem State.findSession_congr (h : ∀ q, (t.slot q).inUse = (s.slot q).inUse
    ∧ (t.slot q).generation = (s.slot q).generation) (a b : Byte) : t.findSession a b = s.findSession a b := by
  unfold State.findSession
  split
  · next q _ => rw [(h q).1, (h q).2]
  · rfl

/-- The next request is one on the session, as the sessions of an earlier state tell. -/
theorem State.nextIsOn_eq {rest : List Request} (hq : t.rqe.queue = rest)
    (h : ∀ q, (t.slot q).inUse = (s.slot q).inUse ∧ (t.slot q).generation = (s.slot q).generation) :
    t.nextIsOn k = s.columnNext k rest := by
  unfold State.nextIsOn State.columnNext
  rw [hq]
  cases rest with
  | nil => rfl
  | cons q rest =>
    cases hf : q.columnFields with
    | none => simp [hf]
    | some f => simp [hf, State.findSession_congr h]

/-! ## The completion of an OPEN -/

section Open

variable (hk : op.claim.kind = .openRow)
include hk

theorem State.completed_grantable (c : Claim) : (s.completed op).grantable c = s.grantable c := by
  rw [State.grantable, State.completed_scrubPending, if_neg (by simp [hk]), State.grantable]

/-- What preempts the row just opened: the claims above HOST but the row's own URGENT one (R25, R48). -/
theorem State.completed_preempting :
    (s.completed op).preempting = s.arb.claims.any fun c =>
      c.cls.aboveHost && s.grantable c && !(c.cls == .urgent && c.row == op.claim.row) := by
  have hold : ((s.arb.claims.filter fun c => !c.isRefreshOf op.claim.row).any fun c =>
      c.cls.aboveHost && (s.completed op).grantable c) = s.arb.claims.any fun c =>
        c.cls.aboveHost && s.grantable c && !(c.cls == .urgent && c.row == op.claim.row) := by
    rw [List.any_filter]
    congr 1
    funext c
    rw [State.completed_grantable hk, Claim.isRefreshOf]
    cases c.cls <;> cases c.row == op.claim.row <;> cases s.grantable c <;> rfl
  obtain e | ⟨head, e⟩ := s.completed_claims_cases op
  · rw [State.preempting, e, hold]
  · rw [State.preempting, e, List.any_append, hold]
    simp [ClaimClass.aboveHost]

end Open

theorem openCompletion_answers (s : State) (op : Operation) (dt : Nat) (tie : TieOrder) (hdue : s.due dt op)
    (hk : op.claim.kind = .openRow) (k : SlotId) (r : Request) (rest : List Request) (hd : op.discarded = false)
    (hp : s.rqe.phase = .opening k) (hq : s.rqe.queue = r :: rest) :
    Completes (.openCompletion dt tie) s fun t =>
      let preempts := s.arb.claims.any fun c =>
        c.cls.aboveHost && s.grantable c && !(c.cls == .urgent && c.row == op.claim.row)
      let stays := if s.columnNext k rest then !preempts else tie == .raiseFirst && !rest.isEmpty
      s.answers t r.tag rest .ok 0 [slotCode k, (s.slot k).generation]
        ∧ t.slot k = { s.slot k with
          state := if stays then .opened else .parked
          holdStart := t.clock
          idleTimer := some t.clock }
        ∧ (if stays then t.arb.circuit = .held k op.claim.row else t.circuitFreed)
        ∧ (∀ q, q ≠ k → t.slot q = s.slot q)
        ∧ s.cellsKept t ∧ t.ntu = s.ntu ∧ t.ste = s.ste ∧ s.registersKept t := by
  have hc := s.completing_of_due hdue
  refine completes_of_run s (i := .openCompletion dt tie) rfl ?_
  simp only [Instr.run, Instr.elapsed]
  rw [openCompletion_opened tie hc hk hd hp]
  generalize hv : (((s.advance dt).completed op).setCircuit (.held k op.claim.row)).openSession k = v
  have hqueue : v.rqe.queue = r :: rest := by rw [← hv]; simpa [State.advance] using hq
  have hspec := State.finish_spec v .ok 0 [slotCode k, ((s.advance dt).slot k).generation] hqueue
  generalize hu : (v.finish .ok 0 [slotCode k, ((s.advance dt).slot k).generation]).restartIdle k = u
  have hcirc : u.arb.circuit = .held k op.claim.row := by rw [← hu, ← hv]; simp
  have hphase : u.rqe.phase = .free := by rw [← hu, hspec]; rfl
  have hslot : u.slot k = { s.slot k with state := .opened, holdStart := s.clock + dt, idleTimer := some (s.clock + dt) } := by
    rw [← hu, ← hv]
    simp [State.restartIdle, State.openSession, State.advance, State.slot]
  have hother : ∀ q, q ≠ k → u.slot q = s.slot q := fun q hne => by
    rw [← hu, ← hv]
    simp [State.restartIdle, State.openSession, hne, State.advance, State.slot]
  have hstays : u.rowStays k tie = (if s.columnNext k rest then
      !(s.arb.claims.any fun c => c.cls.aboveHost && s.grantable c && !(c.cls == .urgent && c.row == op.claim.row))
      else tie == .raiseFirst && !rest.isEmpty) := by
    have hpreempts : u.preempting = ((s.advance dt).completed op).preempting := by
      rw [← hu, ← hv]
      simp [State.preempting, State.grantable]
    have hqueue' : u.rqe.queue = rest := by rw [← hu, hspec]; rfl
    have hsessions : ∀ q, (u.slot q).inUse = (s.slot q).inUse ∧ (u.slot q).generation = (s.slot q).generation := fun q => by
      by_cases hq : q = k
      · subst hq
        rw [hslot]
        exact ⟨rfl, rfl⟩
      · rw [hother q hq]
        exact ⟨rfl, rfl⟩
    rw [State.rowStays, hpreempts, State.completed_preempting hk, hqueue', State.nextIsOn_eq hqueue' hsessions]
    rfl
  obtain ⟨hslot', hother', hfate, hregs⟩ := State.conclude_held_spec tie hcirc hphase
  rw [hstays] at hslot' hfate
  refine ⟨?_, ?_, ?_, fun q hne => (hother' q hne).trans (hother q hne), ?_, ?_, ?_, fun r => ?_⟩
  · simp only [State.answers, State.conclude_frame]
    rw [← hu, hspec, ← hv]
    simp [State.restartIdle, State.advance, State.slot]
  · rw [hslot', hslot, (u.conclude_frame tie).2.1, ← hu, ← hv]
    simp [State.advance]
  · split_ifs at hfate ⊢
    · rw [hfate, hcirc]
    · exact hfate
    · rw [hfate, hcirc]
    · exact hfate
  · intro q col
    have hcells : ((s.advance dt).completed op).rat.memory = s.rat.memory := by
      rw [State.completed_memory, (s.advance dt).written_openRow hk]
      rfl
    rw [← hu, ← hv]
    simp [hcells]
  · rw [← hu, ← hv]
    simp [State.advance]
  · rw [← hu, ← hv]
    simp [State.advance]
  · have hlr : u.lr r = s.lr r := by
      rw [← hu, ← hv]
      simp [State.advance, State.lr]
    rw [← hlr]
    exact hregs r

theorem openCompletion_starts (s : State) (op : Operation) (dt : Nat) (tie : TieOrder) (hdue : s.due dt op)
    (hk : op.claim.kind = .openRow) (k : SlotId) (job : ColumnJob) (hd : op.discarded = false)
    (hp : s.rqe.phase = .reopening k job) :
    Completes (.openCompletion dt tie) s fun t =>
      t.arb.circuit = .bursting (some k) op.claim.row job t.clock
        ∧ t.slot k = { s.slot k with state := .opened, holdStart := t.clock }
        ∧ (∀ q, q ≠ k → t.slot q = s.slot q)
        ∧ t.rqe = { s.rqe with phase := .bursting } ∧ t.hlc = s.hlc ∧ t.ntu = s.ntu ∧ t.ste = s.ste
        ∧ t.lrb = s.lrb ∧ s.cellsKept t := by
  have hc := s.completing_of_due hdue
  refine completes_of_run s (i := .openCompletion dt tie) rfl ?_
  simp only [Instr.run, Instr.elapsed]
  rw [openCompletion_reopened tie hc hk hd hp]
  have hcells : ((s.advance dt).completed op).rat.memory = s.rat.memory := by
    rw [State.completed_memory, (s.advance dt).written_openRow hk]
    rfl
  have hslot : ∀ q, ((s.advance dt).completed op).slot q = s.slot q := fun q => by simp [State.advance, State.slot]
  refine ⟨by simp [State.startBurst], ?_, fun q hne => ?_, ?_, ?_, ?_, ?_, ?_, fun q col => ?_⟩
  · simp [State.startBurst, State.openSession, hslot]
  · simp [State.startBurst, State.openSession, State.slot_setSlot, hne, hslot]
  · simp [State.startBurst, State.setPhase, State.advance, State.openSession]
  · simp [State.startBurst, State.openSession, State.advance]
  · simp [State.startBurst, State.openSession, State.advance]
  · simp [State.startBurst, State.openSession, State.advance]
  · simp [State.startBurst, State.openSession, State.advance]
  · simp [State.startBurst, State.openSession, hcells]

theorem openCompletion_frees (s : State) (op : Operation) (dt : Nat) (tie : TieOrder) (hdue : s.due dt op)
    (hk : op.claim.kind = .openRow) (hd : op.discarded = true) :
    Completes (.openCompletion dt tie) s fun t =>
      t.circuitFreed ∧ (∀ c, t.hasClaim c → s.hasClaim c ∨ c.cls = .routine) ∧ t.rqe = s.rqe ∧ t.hlc = s.hlc
        ∧ t.sst = s.sst ∧ t.ntu = s.ntu ∧ t.ste = s.ste ∧ s.cellsKept t ∧ s.registersKept t := by
  have hc := s.completing_of_due hdue
  refine completes_of_run s (i := .openCompletion dt tie) rfl ?_
  simp only [Instr.run, Instr.elapsed]
  rw [openCompletion_discarded tie hc hk hd]
  obtain ⟨hcells, hste, hntu, hregs, hsst⟩ := (s.advance dt).completed_units op ((s.advance dt).written_openRow hk)
  have hfree := (s.advance dt).completed_circuit op
  obtain ⟨hrat', hste', hntu', hregs', hsst'⟩ := State.settle_keepsUnits _ hfree
  refine ⟨State.settle_circuitFreed _ hfree, fun c hclaim => ?_, by simp [State.advance], by simp [State.advance],
    hsst'.trans hsst, hntu'.trans hntu, hste'.trans hste, fun row col => ?_, fun r => ?_⟩
  · exact State.completed_hasClaim (s := s.advance dt) ((State.settle_hasClaim _ c).1 hclaim)
  · rw [hrat']
    exact hcells row col
  · rw [hregs' r, hregs r]
    rfl

/-- Settles O18: the reply of an OPEN and the fate of its row, the burst of a reopen, or neither after a RESET. -/
theorem openCompletionHoldsOrFreesRow : Obligations.OpenCompletionHoldsOrFreesRow := fun s op dt tie hdue hk =>
  ⟨fun k r rest hd hp hq _ => openCompletion_answers s op dt tie hdue hk k r rest hd hp hq,
    openCompletion_starts s op dt tie hdue hk, openCompletion_frees s op dt tie hdue hk⟩

/-! ## The end of a burst -/

section Cell

variable {job : ColumnJob} {col : Nat} (old : CellVal)

theorem ColumnJob.newCell_outside (h : ¬ (job.first ≤ col ∧ col < job.first + job.count)) : job.newCell col old = old := by
  simp only [ColumnJob.newCell, ColumnJob.covers, h, decide_false, Bool.false_eq_true, if_false]

variable (h : job.first ≤ col ∧ col < job.first + job.count)
include h

omit h in
theorem ColumnJob.newCell_read (ha : job.action = .read) : job.newCell col old = old := by
  simp [ColumnJob.newCell, ha]

/-- An EXCHANGE, and a WRITE without a mask, give the cell its new value (R133, R134). -/
theorem ColumnJob.newCell_replaced (ha : job.action = .exchange ∨ job.action = .write none) :
    job.newCell col old = job.data.getD (col - job.first) 0 := by
  obtain ha | ha := ha <;> simp [ColumnJob.newCell, ColumnJob.covers, h, ha, cellAt]

/-- A WRITE with a mask replaces the bits whose mask bit is 1 (R134). -/
theorem ColumnJob.newCell_masked {mask : CellVal} (ha : job.action = .write (some mask)) (b : Nat) (hb : b < 16) :
    (job.newCell col old).getLsbD b =
      if mask.getLsbD b then (job.data.getD (col - job.first) 0).getLsbD b else old.getLsbD b := by
  simp only [ColumnJob.newCell, ColumnJob.covers, h, and_self, decide_true, if_true, ha, cellAt, BitVec.getLsbD_or,
    BitVec.getLsbD_and, BitVec.getLsbD_not, hb, Bool.true_and]
  cases mask.getLsbD b <;> simp

end Cell

/-- The burst of a session that a RESET has closed (R145). -/
theorem columnBurstEnd_abandoned {job : ColumnJob} {start : Nat} (tie : TieOrder) (hlive : s.live = true)
    (hcirc : s.arb.circuit = .bursting none row job start) (htime : start + job.count * 40 ≤ s.clock) :
    columnBurstEnd tie s = ((s.applyBurst row job).setCircuit .free).settle := by
  simp [columnBurstEnd, hcirc, hlive, State.elapsed, Config.tCol, htime]

/-- The burst of a session (R132, R133). -/
theorem columnBurstEnd_held {job : ColumnJob} {start : Nat} (tie : TieOrder) (hlive : s.live = true)
    (hcirc : s.arb.circuit = .bursting (some k) row job start) (htime : start + job.count * 40 ≤ s.clock) :
    columnBurstEnd tie s = (((((s.applyBurst row job).setCircuit (.held k row)).finish .ok (s.burstFlags row job)
      (s.burstData row job)).restartIdle k).conclude tie) := by
  simp [columnBurstEnd, hcirc, hlive, State.elapsed, Config.tCol, htime]

/-- The reply of a burst: the values before it, and LOST_DATA, for READ and EXCHANGE (R13, R133, R168). -/
theorem State.burstReply (s : State) (row : Nat) (job : ColumnJob) :
    (s.burstFlags row job, s.burstData row job) = match job.action with
      | .write _ => (0, [])
      | _ => (if (s.row row).lost then 1 else 0,
          (List.range job.count).flatMap fun i => cellBytes (s.rat.memory.read row (job.first + i))) := by
  unfold State.burstFlags State.burstData
  cases job.action with
  | write => rfl
  | read => cases (s.row row).lost <;> rfl
  | exchange => cases (s.row row).lost <;> rfl

/-- The cells, and what a burst leaves alone whoever it is for. -/
theorem columnBurstEnd_cells {slot : Option SlotId} {job : ColumnJob} {start : Nat} (tie : TieOrder)
    (hlive : s.live = true) (hcirc : s.arb.circuit = .bursting slot row job start)
    (htime : start + job.count * 40 ≤ s.clock) :
    (columnBurstEnd tie s).rat = (s.applyBurst row job).rat ∧ (columnBurstEnd tie s).rfe = s.rfe
      ∧ (columnBurstEnd tie s).ste = s.ste ∧ (columnBurstEnd tie s).ntu = s.ntu
      ∧ s.registersKept (columnBurstEnd tie s) := by
  cases slot with
  | none =>
    rw [columnBurstEnd_abandoned tie hlive hcirc htime]
    refine ⟨by simp, by simp, by simp, by simp, fun r => ?_⟩
    have h := State.settle_lr ((s.applyBurst row job).setCircuit .free) r
    rwa [State.setCircuit_lr, (s.applyBurst_frame row job).2.2.2.2.2.2.2.2.2.2.2.2.2.1] at h
  | some k =>
    rw [columnBurstEnd_held tie hlive hcirc htime]
    refine ⟨by simp, by simp, by simp, by simp, fun r => ?_⟩
    have h := State.conclude_lr ((((s.applyBurst row job).setCircuit (.held k row)).finish .ok (s.burstFlags row job)
      (s.burstData row job)).restartIdle k) tie r
    simpa using h

/-- The burst of a session: its reply, and the fate of its row. -/
theorem columnBurstEnd_session {job : ColumnJob} {start : Nat} {r : Request} {rest : List Request} (tie : TieOrder)
    (hlive : s.live = true) (hcirc : s.arb.circuit = .bursting (some k) row job start)
    (htime : start + job.count * 40 ≤ s.clock) (hq : s.rqe.queue = r :: rest) :
    let preempts := s.arb.claims.any fun c => c.cls.aboveHost && s.grantable c
    let stays := if s.columnNext k rest then !preempts else tie == .raiseFirst && !rest.isEmpty
    s.answers (columnBurstEnd tie s) r.tag rest .ok (s.burstFlags row job) (s.burstData row job)
      ∧ (columnBurstEnd tie s).slot k = { s.slot k with
        state := if stays then (s.slot k).state else .parked
        idleTimer := some s.clock }
      ∧ (if stays then (columnBurstEnd tie s).arb = { s.arb with circuit := .held k row }
        else (columnBurstEnd tie s).circuitFreed)
      ∧ ∀ q, q ≠ k → (columnBurstEnd tie s).slot q = s.slot q := by
  intro preempts stays
  rw [columnBurstEnd_held tie hlive hcirc htime]
  generalize hv : (s.applyBurst row job).setCircuit (.held k row) = v
  have hqueue : v.rqe.queue = r :: rest := by rw [← hv]; simpa using hq
  have hspec := State.finish_spec v .ok (s.burstFlags row job) (s.burstData row job) hqueue
  generalize hu : (v.finish .ok (s.burstFlags row job) (s.burstData row job)).restartIdle k = u
  have harb : u.arb = { s.arb with circuit := .held k row } := by rw [← hu, ← hv]; simp
  have hslot : u.slot k = { s.slot k with idleTimer := some s.clock } := by
    rw [← hu, ← hv]
    simp [State.restartIdle]
  have hother : ∀ q, q ≠ k → u.slot q = s.slot q := fun q hne => by
    rw [← hu, ← hv]
    simp [State.restartIdle, hne]
  have hstays : u.rowStays k tie = stays := by
    have hqueue' : u.rqe.queue = rest := by rw [← hu, hspec]; rfl
    have hpreempts : u.preempting = preempts := by
      have hgrant : ∀ c, u.grantable c = s.grantable c := fun c => by
        rw [← hu, ← hv]
        simp [State.grantable, State.row]
      simp only [State.preempting, harb, hgrant, preempts]
    have hsessions : ∀ q, (u.slot q).inUse = (s.slot q).inUse ∧ (u.slot q).generation = (s.slot q).generation := fun q => by
      by_cases hq : q = k
      · subst hq
        rw [hslot]
        exact ⟨rfl, rfl⟩
      · rw [hother q hq]
        exact ⟨rfl, rfl⟩
    rw [State.rowStays, hpreempts, hqueue', State.nextIsOn_eq hqueue' hsessions]
  obtain ⟨hslot', hother', hfate, -⟩ := State.conclude_held_spec tie (s := u) (k := k) (row := row) (by rw [harb])
    (by rw [← hu, hspec]; rfl)
  rw [hstays] at hslot' hfate
  refine ⟨?_, ?_, ?_, fun q hne => (hother' q hne).trans (hother q hne)⟩
  · simp only [State.answers, State.conclude_frame]
    rw [← hu, hspec, ← hv]
    simp [State.restartIdle]
  · rw [hslot', hslot]
  · rwa [harb] at hfate

/-- Settles O19: the cells by what a burst leaves in each column, the row's fate by `State.conclude_held_spec`. -/
theorem burstEndWritesColumnsAndAnswers : Obligations.BurstEndWritesColumnsAndAnswers := by
  intro s dt row start tie slot job hlive hcirc htime hrow
  refine completes_of_run s (i := .columnBurstEnd dt tie) rfl ?_
  simp only [Instr.run, Instr.elapsed]
  obtain ⟨hrat, hrfe, hste, hntu, hregs⟩ := columnBurstEnd_cells (s := s.advance dt) tie hlive hcirc htime
  refine ⟨fun q col hcol => ?_, ?_, hrfe, hste, hntu, hregs, fun hnone => ?_, fun k r rest hsome hq => ?_⟩
  · rw [hrat, (s.advance dt).applyBurst_read job hrow hcol]
    by_cases hqr : q = row
    · subst hqr
      rw [if_pos rfl]
      split
      · next h =>
        cases ha : job.action with
        | read => exact job.newCell_read _ ha
        | write mask =>
          cases mask with
          | none => exact job.newCell_replaced _ h.2 (.inr ha)
          | some mask => exact job.newCell_masked _ h.2 ha
        | exchange => exact job.newCell_replaced _ h.2 (.inl ha)
      · next h => exact job.newCell_outside _ fun h' => h ⟨rfl, h'⟩
    · rw [if_neg fun h => hqr h.1, if_neg hqr]
      rfl
  · rw [hrat]
    exact (s.advance dt).applyBurst_table row job
  · subst hnone
    rw [columnBurstEnd_abandoned (s := s.advance dt) tie hlive hcirc htime]
    have hfree : (((s.advance dt).applyBurst row job).setCircuit .free).arb.circuit = .free := rfl
    obtain ⟨-, -, -, -, hsst⟩ := State.settle_keepsUnits _ hfree
    exact ⟨by simp [State.advance], by simp [State.advance], hsst.trans (by simp [State.advance]),
      State.settle_circuitFreed _ hfree⟩
  · subst hsome
    obtain ⟨hanswers, hslot, hfate, hother⟩ := columnBurstEnd_session (s := s.advance dt) tie hlive hcirc htime hq
    have hreply := (s.advance dt).burstReply row job
    have hclock : (columnBurstEnd tie (s.advance dt)).clock = s.clock + dt := by
      rw [columnBurstEnd_held (s := s.advance dt) tie hlive hcirc htime]
      simp [State.advance]
    refine ⟨?_, by rw [hclock]; exact hslot, hfate, hother⟩
    have hmatched : ∀ {p : Byte × List Byte}, ((s.advance dt).burstFlags row job, (s.advance dt).burstData row job) = p →
        s.answers (columnBurstEnd tie (s.advance dt)) r.tag rest .ok p.1 p.2 := fun hp => by
      rw [← hp]
      exact hanswers
    cases haction : job.action <;> rw [haction] at hreply <;> exact hmatched hreply

end

end Sys2Proof.Machine
end

section
/-! PROOF. The grant decision (R43-R45, R48): the highest class, and the choice within each class. -/

namespace Sys2Proof.Machine

/-! ## The choice within a class (R44, R45) -/

section Class

variable {order : List Nat} {cs : List Claim} {c : Claim}

theorem oldestClaim_first (h : oldestClaim order cs = some c) {d : Claim} (hd : d ∈ cs) :
    order.idxOf c.row ≤ order.idxOf d.row := by
  induction order with
  | nil => simp [oldestClaim] at h
  | cons r rs ih =>
    unfold oldestClaim at h
    split at h
    · next e he =>
      cases h
      have hrow : c.row = r := by simpa using List.find?_some he
      simp [hrow]
    · next hnone =>
      have hother : ∀ e ∈ cs, r ≠ e.row := fun e he hrow =>
        List.find?_eq_none.1 hnone e he (by simp [hrow])
      rw [List.idxOf_cons_ne _ (hother c (oldestClaim_mem h)), List.idxOf_cons_ne _ (hother d hd)]
      exact Nat.succ_le_succ (ih h)

theorem oldestClaim_none (h : oldestClaim order cs = none) (hc : c ∈ cs) : c.row ∉ order := by
  induction order with
  | nil => exact List.not_mem_nil
  | cons r rs ih =>
    unfold oldestClaim at h
    split at h
    · cases h
    · next hnone =>
      have hne : c.row ≠ r := by simpa using List.find?_eq_none.1 hnone c hc
      exact fun hmem => (List.mem_cons.1 hmem).elim hne (ih h)

variable (s : State)

theorem State.earliestTaken_none : s.earliestTaken cs = none ↔ cs = [] := by
  cases cs with
  | nil => simp [State.earliestTaken]
  | cons d ds =>
    simp only [State.earliestTaken, reduceCtorEq, iff_false]
    cases s.earliestTaken ds with
    | none => simp
    | some e => by_cases h : s.claimSeq d ≤ s.claimSeq e <;> simp [h]

theorem State.earliestTaken_le (h : s.earliestTaken cs = some c) {d : Claim} (hd : d ∈ cs) :
    s.claimSeq c ≤ s.claimSeq d := by
  induction cs generalizing c with
  | nil => cases hd
  | cons e es ih =>
    unfold State.earliestTaken at h
    split at h
    · next hnone =>
      cases h
      rw [s.earliestTaken_none] at hnone
      subst hnone
      rw [List.mem_singleton.1 hd]
    · next f hf =>
      have htail : d ∈ es → s.claimSeq f ≤ s.claimSeq d := ih hf
      split at h <;> cases h <;> obtain rfl | hd := List.mem_cons.1 hd
      · exact Nat.le_refl _
      · exact Nat.le_trans ‹_› (htail hd)
      · omega
      · exact htail hd

theorem Claim.ofStream_iff {n : StreamId} : c.ofStream n = true ↔ ∃ r, c.claimant = .register r ∧ streamOf r = some n := by
  unfold Claim.ofStream
  cases c.claimant <;> simp

/-- The claims of the two streams, where every claim is a stream's. -/
theorem State.chooseStream_none (hof : ∀ d ∈ cs, ∃ n, d.ofStream n = true) (h : s.chooseStream cs = none) : cs = [] := by
  by_contra hne
  obtain ⟨d, hd⟩ := List.exists_mem_of_ne_nil _ hne
  obtain ⟨n, hn⟩ := hof d hd
  simp only [State.chooseStream] at h
  split at h
  · next hp =>
    rw [s.earliestTaken_none, List.filter_eq_nil_iff] at h
    rw [List.isEmpty_iff, List.filter_eq_nil_iff] at hp
    obtain rfl | rfl : n = s.arb.preferred ∨ n = otherStream s.arb.preferred := by
      cases n <;> cases s.arb.preferred <;> simp [otherStream]
    · exact hp d hd hn
    · exact h d hd hn
  · next hp =>
    rw [s.earliestTaken_none] at h
    exact hp (by rw [h]; rfl)

/-- The stream of the claim chosen is the preferred one, or that has no claim; no earlier-taken claim of it waits
(R45). -/
theorem State.chooseStream_first (h : s.chooseStream cs = some c) :
    ∃ n, c.ofStream n = true ∧ ∀ d ∈ cs, ∀ m, d.ofStream m = true →
      (m = n → s.claimSeq c ≤ s.claimSeq d) ∧ (m ≠ n → n = s.arb.preferred) := by
  have hleast : ∀ n, s.earliestTaken (cs.filter fun c => c.ofStream n) = some c →
      c.ofStream n = true ∧ ∀ d ∈ cs, d.ofStream n = true → s.claimSeq c ≤ s.claimSeq d := fun n hn =>
    ⟨(List.mem_filter.1 (s.earliestTaken_mem hn)).2, fun d hd hdn => s.earliestTaken_le hn (List.mem_filter.2 ⟨hd, hdn⟩)⟩
  simp only [State.chooseStream] at h
  split at h
  · next hp =>
    rw [List.isEmpty_iff, List.filter_eq_nil_iff] at hp
    obtain ⟨hc, hfirst⟩ := hleast _ h
    refine ⟨_, hc, fun d hd m hm => ⟨fun e => hfirst d hd (e ▸ hm), fun hne => ?_⟩⟩
    have hmp : m = s.arb.preferred := by
      revert hne
      cases m <;> cases s.arb.preferred <;> simp [otherStream]
    exact absurd (hmp ▸ hm) (hp d hd)
  · obtain ⟨hc, hfirst⟩ := hleast _ h
    exact ⟨_, hc, fun d hd m hm => ⟨fun e => hfirst d hd (e ▸ hm), fun _ => rfl⟩⟩

end Class

/-! ## The choice among the classes (R43) -/

variable (s : State)

/-- The grantable claim that its class would have granted. -/
def State.choiceOf (s : State) : ClaimClass → Option Claim
  | .urgent => oldestClaim s.rfe.order (s.grantableOf .urgent)
  | .stream => s.chooseStream (s.grantableOf .stream)
  | .scrub => oldestClaim s.rfe.scrubList (s.grantableOf .scrub)
  | .host => (s.grantableOf .host).head?
  | .routine => (s.grantableOf .routine).head?

theorem State.chooseGrant_eq : s.chooseGrant = (s.choiceOf .urgent).or ((s.choiceOf .stream).or ((s.choiceOf .scrub).or
    ((s.choiceOf .host).or (s.choiceOf .routine)))) := rfl

theorem State.mem_grantableOf {c : Claim} {k : ClaimClass} :
    c ∈ s.grantableOf k ↔ c ∈ s.arb.claims ∧ c.cls = k ∧ s.grantable c = true := by
  simp [State.grantableOf]

theorem State.choiceOf_mem {c : Claim} {k : ClaimClass} (h : s.choiceOf k = some c) : c ∈ s.grantableOf k := by
  cases k with
  | urgent => exact oldestClaim_mem h
  | stream => exact s.chooseStream_mem h
  | scrub => exact oldestClaim_mem h
  | host => exact List.mem_of_head? h
  | routine => exact List.mem_of_head? h

theorem State.choiceOf_none (hr : s.claimsRanked) {k : ClaimClass} (h : s.choiceOf k = none) : s.grantableOf k = [] := by
  have hranked : ∀ {c}, c ∈ s.grantableOf k → c.cls = k ∧ (c.cls = .urgent → c.row ∈ s.rfe.order)
      ∧ (c.cls = .scrub → c.row ∈ s.rfe.scrubList)
      ∧ (c.cls = .stream → ∃ r n, c.claimant = .register r ∧ streamOf r = some n) := fun hc =>
    ⟨(s.mem_grantableOf.1 hc).2.1, hr _ (s.mem_grantableOf.1 hc).1⟩
  cases k with
  | urgent =>
    refine List.eq_nil_iff_forall_not_mem.2 fun c hc => oldestClaim_none h hc ?_
    obtain ⟨hcls, hurgent, -, -⟩ := hranked hc
    exact hurgent hcls
  | stream =>
    refine s.chooseStream_none (fun c hc => ?_) h
    obtain ⟨hcls, -, -, hstream⟩ := hranked hc
    obtain ⟨r, n, hcl, hn⟩ := hstream hcls
    exact ⟨n, Claim.ofStream_iff.2 ⟨r, hcl, hn⟩⟩
  | scrub =>
    refine List.eq_nil_iff_forall_not_mem.2 fun c hc => oldestClaim_none h hc ?_
    obtain ⟨hcls, -, hscrub, -⟩ := hranked hc
    exact hscrub hcls
  | host => exact List.head?_eq_none_iff.1 h
  | routine => exact List.head?_eq_none_iff.1 h

theorem State.chooseGrant_none (hr : s.claimsRanked) (h : s.chooseGrant = none) :
    ∀ c ∈ s.arb.claims, s.grantable c = false := by
  simp only [s.chooseGrant_eq, Option.or_eq_none_iff] at h
  obtain ⟨hurgent, hstream, hscrub, hhost, hroutine⟩ := h
  have hall : ∀ k, s.grantableOf k = [] := fun k => s.choiceOf_none hr (by cases k <;> assumption)
  refine fun c hc => Bool.eq_false_iff.2 fun hg => ?_
  have hmem : c ∈ s.grantableOf c.cls := s.mem_grantableOf.2 ⟨hc, rfl, hg⟩
  rw [hall] at hmem
  cases hmem

/-- A class above the chosen one has no grantable claim. -/
theorem State.chooseGrant_choice {c : Claim} (h : s.chooseGrant = some c) :
    s.choiceOf c.cls = some c ∧ ∀ k : ClaimClass, k.rank < c.cls.rank → s.choiceOf k = none := by
  have hcls : ∀ {k}, s.choiceOf k = some c → c.cls = k := fun hk => (s.mem_grantableOf.1 (s.choiceOf_mem hk)).2.1
  simp only [s.chooseGrant_eq, Option.or_eq_some_iff] at h
  obtain h | ⟨h1, h | ⟨h2, h | ⟨h3, h | ⟨h4, h⟩⟩⟩⟩ := h
  all_goals
    rw [hcls h]
    refine ⟨h, fun k hk => ?_⟩
    cases k <;> simp_all [ClaimClass.rank]

theorem State.chooseGrant_rank (hr : s.claimsRanked) {c d : Claim} (h : s.chooseGrant = some c) (hd : d ∈ s.arb.claims)
    (hg : s.grantable d = true) : c.cls.rank ≤ d.cls.rank := by
  by_contra hlt
  have hnone := s.choiceOf_none hr ((s.chooseGrant_choice h).2 d.cls (by omega))
  have hmem : d ∈ s.grantableOf d.cls := s.mem_grantableOf.2 ⟨hd, rfl, hg⟩
  rw [hnone] at hmem
  cases hmem

/-! ## The decision -/

theorem State.grant_preferred (c : Claim) :
    (c.cls ≠ .stream → (s.grant c).arb.preferred = s.arb.preferred)
      ∧ ∀ r n, c.cls = .stream → c.claimant = .register r → streamOf r = some n →
        (s.grant c).arb.preferred = otherStream n := by
  refine ⟨fun hk => ?_, fun r n hk hcl hn => ?_⟩
  · simp only [State.grant]
    cases hk' : c.cls <;> cases c.register? <;> simp_all
  · simp only [State.grant]
    cases c.register? <;> simp [hk, hcl, hn]

theorem State.grant_takeSeq (c : Claim) (r : LrId) : ((s.grant c).lr r).takeSeq = (s.lr r).takeSeq := by
  rw [(s.grant_spec c).2.2]
  split
  · cases c.kind <;> rfl
  · rfl

theorem State.grant_grantable (c d : Claim) : (s.grant c).grantable d = s.grantable d := by
  simp [State.grantable, State.row]

theorem State.claimSeq_register {c : Claim} {r : LrId} (h : c.claimant = .register r) : s.claimSeq c = (s.lr r).takeSeq := by
  simp [State.claimSeq, h]

/-- What is left of the STREAM claims after the grant of the first of them. -/
theorem State.grant_streamFirst {c : Claim} (hc : s.choiceOf .stream = some c) :
    ∃ r n, c.claimant = .register r ∧ streamOf r = some n
      ∧ (s.grant c).streamFirst s.arb.preferred n ((s.grant c).lr r).takeSeq := by
  obtain ⟨n, hn, hfirst⟩ := s.chooseStream_first hc
  obtain ⟨r, hr, hrn⟩ := Claim.ofStream_iff.1 hn
  refine ⟨r, n, hr, hrn, fun d hd hcls hg q m hq hm => ?_⟩
  rw [(s.grant_spec c).2.1] at hd
  rw [s.grant_grantable] at hg
  obtain ⟨hseq, hpref⟩ := hfirst d (s.mem_grantableOf.2 ⟨List.mem_of_mem_erase hd, hcls, hg⟩) m (Claim.ofStream_iff.2 ⟨q, hq, hm⟩)
  rw [s.grant_takeSeq, s.grant_takeSeq, ← s.claimSeq_register hr, ← s.claimSeq_register hq]
  exact ⟨hseq, hpref⟩

theorem State.grantDecision_decided (hr : s.claimsRanked) (hf : s.arb.circuit = .free) :
    s.grantDecision.decided s.arb.claims s.arb.preferred := by
  unfold State.grantDecision
  cases hc : s.chooseGrant with
  | none => exact .inl ⟨hf, rfl, rfl, s.chooseGrant_none hr hc⟩
  | some c =>
    obtain ⟨hmem, hg⟩ := s.chooseGrant_mem hc
    obtain ⟨hcirc, hclaims, -⟩ := s.grant_spec c
    have hchoice := (s.chooseGrant_choice hc).1
    have hat : (s.operationOf c).claim = c := rfl
    refine .inr ⟨s.operationOf c, hcirc, hmem, hclaims, by simp [State.operationOf], by rwa [hat, s.grant_grantable],
      fun d hd hd' => ?_, fun hk d hd hdk hd' => ?_, fun hk d hd hdk hd' => ?_, fun hk => ?_, fun hk => ?_⟩
    all_goals rw [hat] at *
    · exact s.chooseGrant_rank hr hc hd (by rwa [s.grant_grantable] at hd')
    · rw [s.grant_grantable] at hd'
      rw [hk] at hchoice
      simpa using oldestClaim_first hchoice (s.mem_grantableOf.2 ⟨hd, hdk, hd'⟩)
    · rw [s.grant_grantable] at hd'
      rw [hk] at hchoice
      simpa using oldestClaim_first hchoice (s.mem_grantableOf.2 ⟨hd, hdk, hd'⟩)
    · rw [hk] at hchoice
      obtain ⟨r, n, hcl, hn, hfirst⟩ := s.grant_streamFirst hchoice
      exact ⟨r, n, hcl, hn, hfirst, (s.grant_preferred c).2 r n hk hcl hn⟩
    · exact (s.grant_preferred c).1 hk

theorem State.settle_decided {cs : List Claim} {preferred : StreamId} (hr : s.claimsRanked) (hf : s.arb.circuit = .free)
    (hcs : s.arb.claims = cs) (hp : s.arb.preferred = preferred) : s.settle.decided cs preferred := by
  subst hcs hp
  rw [s.settle_of_free hf]
  exact s.grantDecision_decided hr hf

/-! ## The events that end in a decision -/

variable {s}

theorem claimsRanked_congr {t : State} (h : s.claimsRanked) (hclaims : t.arb.claims = s.arb.claims)
    (hrfe : t.rfe = s.rfe) : t.claimsRanked := by
  simpa only [State.claimsRanked, hclaims, hrfe] using h

theorem mem_toTail {q row : Nat} {order : List Nat} (h : q ∈ order) : q ∈ toTail row order :=
  (toTail_perm row order).mem_iff.2 h

/-- The claims after a completion: those of the refresh engine on the row are gone, and a ROUTINE claim joins if the
check raises one (R23, R25). -/
theorem State.completed_claims_routine (s : State) (op : Operation) :
    ∃ routine : Option Nat, (s.completed op).arb.claims = (s.arb.claims.filter fun c =>
      !((c.cls == .routine || c.cls == .urgent) && c.row == op.claim.row))
        ++ (routine.map fun row => (⟨.refresh, row, .refreshEngine, .routine⟩ : Claim)).toList := by
  obtain ⟨t, hclaims, -, -, e⟩ := s.completed_claims op
  obtain e' | ⟨head, -, -, -, -, -, -, -, -, e'⟩ := t.checkRoutine_cases
  · exact ⟨none, by rw [e, e', hclaims]; simp [Claim.isRefreshOf]⟩
  · exact ⟨some head, by rw [e, e', State.raiseClaim, hclaims]; simp [Claim.isRefreshOf]⟩

theorem State.completed_preferred (s : State) (op : Operation) :
    (s.completed op).arb.preferred = s.arb.preferred := by
  obtain ⟨t, -, -, harb, e⟩ := (s.written op).rowCompleted_cases op.claim.row
  rw [State.completed, e]
  obtain e' | ⟨head, -, -, -, -, -, -, -, -, e'⟩ := t.checkRoutine_cases <;> rw [e'] <;> simp [harb]

theorem claimsRanked_completed {op : Operation} (hk : op.claim.kind = .refresh) (h : s.claimsRanked) :
    (s.completed op).claimsRanked := by
  obtain ⟨routine, hclaims⟩ := s.completed_claims_routine op
  have hlist : (s.completed op).rfe.scrubList = s.rfe.scrubList := by rw [s.completed_scrubList, if_neg (by simp [hk])]
  intro c hc
  rw [hclaims, List.mem_append] at hc
  rw [s.completed_order, hlist]
  obtain hc | hc := hc
  · obtain ⟨hurgent, hscrub, hstream⟩ := h c (List.mem_of_mem_filter hc)
    exact ⟨fun hk => mem_toTail (hurgent hk), hscrub, hstream⟩
  · cases routine with
    | none => cases hc
    | some row => cases List.mem_singleton.1 hc; exact ⟨nofun, nofun, nofun⟩

theorem claimsRanked_loseRow (row : Nat) (h : s.claimsRanked) : (s.loseRow row).claimsRanked := by
  intro c hc
  have hlist : (s.loseRow row).rfe.scrubList = s.rfe.scrubList ++ [row] := rfl
  rw [hlist]
  obtain hc | hc := List.mem_append.1 (show c ∈ s.arb.claims ++ [⟨.scrub, row, .refreshEngine, .scrub⟩] from hc)
  · obtain ⟨hurgent, hscrub, hstream⟩ := h c hc
    exact ⟨hurgent, fun hk => List.mem_append_left _ (hscrub hk), hstream⟩
  · cases List.mem_singleton.1 hc
    exact ⟨nofun, fun _ => List.mem_append_right _ (List.mem_singleton_self _), nofun⟩

/-- A held row with a claim above HOST is closed before the decision (R48). -/
theorem State.settle_preempts {k : SlotId} {row : Nat} (hr : s.claimsRanked) (hcirc : s.arb.circuit = .held k row)
    (hp : s.preempting = true) :
    s.settle.decided s.arb.claims s.arb.preferred ∧ (s.settle.slot k).state = .parked := by
  have hsettle : s.settle = s.closeHeld.grantDecision := by simp [State.settle, hcirc, hp]
  have hclosed : s.closeHeld = (s.park k).setCircuit .free := by simp [State.closeHeld, hcirc]
  have hdecided := s.closeHeld.grantDecision_decided (claimsRanked_congr hr (by simp) (by simp)) (by rw [hclosed]; rfl)
  refine ⟨by simpa [hsettle] using hdecided, ?_⟩
  have hslot : s.settle.slot k = s.closeHeld.slot k := by simp [hsettle]
  rw [hslot]
  exact s.closeHeld_slot_held hcirc

theorem deadline_eq {row : Nat} (hlive : s.live = true) (hage : 8000000 ≤ s.clock - (s.row row).completedAt)
    (hclear : (s.row row).scrubPending = false) (hnone : s.inFlightOn row = false) :
    deadline row s = ((s.loseRow row).report (.rowLost row)).settle := by
  have hundisturbed : s.undisturbed row = true := by simp [State.undisturbed, hclear, hnone]
  unfold deadline
  rw [if_pos ⟨hlive, hage, hundisturbed⟩]
  rfl

/-- Settles O20: each of the events ends with the arbiter's act on a FREE circuit, or on a held row. -/
theorem grantDecisionTakesHighestClaim : Obligations.GrantDecisionTakesHighestClaim := by
  intro s hr
  refine ⟨fun hf => s.settle_decided hr hf rfl rfl, fun k row hcirc => ?_, fun op dt tie hdue hk hown => ?_,
    fun dt row start tie job hlive hcirc htime => ?_, fun dt row hrow hlive hf hage hclear => ?_⟩
  · split
    · next hp => exact State.settle_preempts hr hcirc hp
    · next hp =>
      have hnot : s.preempting = false := Bool.eq_false_iff.2 hp
      simp [State.settle, hcirc, hnot]
  · refine completes_of_run s (i := .refreshCompletion ⟨dt, tie⟩) rfl ?_
    simp only [Instr.run, Instr.elapsed]
    obtain ⟨routine, hclaims⟩ := (s.advance dt).completed_claims_routine op
    rw [refreshCompletion_own_eq tie (s.completing_of_due hdue) hk hown]
    exact ⟨routine, State.settle_decided _ (claimsRanked_completed (s := s.advance dt) hk hr)
      ((s.advance dt).completed_circuit op) hclaims ((s.advance dt).completed_preferred op)⟩
  · refine completes_of_run s (i := .columnBurstEnd dt tie) rfl ?_
    simp only [Instr.run, Instr.elapsed]
    rw [columnBurstEnd_abandoned (s := s.advance dt) tie hlive hcirc htime]
    have hranked : (((s.advance dt).applyBurst row job).setCircuit .free).claimsRanked :=
      claimsRanked_congr hr (by simp) (by simp)
    exact State.settle_decided _ hranked rfl (by simp) (by simp)
  · refine completes_of_run s (i := .deadline dt row) (by simpa [Instr.wellFormed] using hrow) ?_
    simp only [Instr.run, Instr.elapsed]
    have hnone : (s.advance dt).inFlightOn row = false := by simp [State.inFlightOn, State.inFlight, hf]
    rw [deadline_eq (s := s.advance dt) hlive hage hclear hnone]
    have hranked : (((s.advance dt).loseRow row).report (.rowLost row)).claimsRanked :=
      claimsRanked_congr (claimsRanked_loseRow (s := s.advance dt) row hr) (by simp) (by simp)
    exact State.settle_decided _ hranked (by simpa [State.loseRow] using hf) (by simp [State.loseRow])
      (by simp [State.loseRow])

end Sys2Proof.Machine
end

section
/-! PROOF. The thresholds of a row's age (R21, R23, R24, R26, R29). -/

namespace Sys2Proof.Machine

variable (s : State)

theorem State.settle_registersKept {s t : State} (h : ∀ r, t.lr r = s.lr r) : s.registersKept t.settle := fun r => by
  rw [← h r]
  exact t.settle_lr r

theorem State.settle_slotsKept {s t : State} (h : ∀ k, t.slot k = s.slot k) : s.slotsKept t.settle := fun k => by
  rw [← h k]
  exact t.settle_slot k

theorem State.inFlightOn_eq_false {row : Nat} : s.inFlightOn row = false ↔ ∀ op, s.inFlight = some op → op.claim.row ≠ row := by
  unfold State.inFlightOn
  cases s.inFlight <;> simp

theorem State.inFlightOn_of_inFlight {s : State} {op : Operation} {row : Nat} (h : s.inFlight = some op)
    (hrow : op.claim.row = row) : s.inFlightOn row = true := by
  simp [State.inFlightOn, h, hrow]

/-! ## 4.0 ms (R23) -/

theorem State.checkRoutine_claims {head : Nat} {rest : List Nat} (horder : s.rfe.order = head :: rest)
    (hmode : s.rfe.mode = .auto) (hnone : s.holdsClaim (fun c => c.cls == .routine) = false)
    (hage : Config.routineAge ≤ s.age head) (hclear : (s.row head).scrubPending = false)
    (hurgent : s.holdsClaim (fun c => c.cls == .urgent && c.row == head) = false) (hidle : s.inFlightOn head = false) :
    s.checkRoutine = s.raiseClaim ⟨.refresh, head, .refreshEngine, .routine⟩ := by
  unfold State.checkRoutine
  rw [horder]
  exact if_pos ⟨hmode, hnone, hage, hclear, hurgent, hidle⟩

theorem State.checkRoutine_raisesNothing (h : s.rfe.mode = .hosted ∨ s.holdsClaim (fun c => c.cls == .routine) = true) :
    s.checkRoutine = s := by
  obtain e | ⟨head, rest, -, hmode, hnone, -⟩ := s.checkRoutine_cases
  · exact e
  · obtain h | h := h
    · rw [hmode] at h
      cases h
    · rw [hnone] at h
      cases h

theorem State.settle_onlyArbiterActs (dt : Nat) (c : Claim) :
    s.onlyArbiterActs ((s.advance dt).raiseClaim c).settle ∧ s.onlyArbiterActs (s.advance dt).settle :=
  ⟨⟨by simp [State.blocksKept, State.cellsKept], State.settle_registersKept fun _ => rfl,
      State.settle_slotsKept fun _ => rfl⟩,
    ⟨by simp [State.blocksKept, State.cellsKept], State.settle_registersKept fun _ => rfl,
      State.settle_slotsKept fun _ => rfl⟩⟩

/-- Settles O21: the check's conditions, then the arbiter's act. -/
theorem routineThresholdClaimsHeadRow : Obligations.RoutineThresholdClaimsHeadRow := by
  intro s dt head rest hlive horder
  have hrun : routineThreshold (s.advance dt) = (s.advance dt).checkRoutine.settle := if_pos hlive
  refine ⟨fun hmode hnone hage hclear hurgent hidle => ?_, fun h => ?_⟩ <;>
    refine completes_of_run s (i := .routineThreshold dt) rfl ?_ <;> simp only [Instr.run, Instr.elapsed, hrun]
  · rw [(s.advance dt).checkRoutine_claims horder hmode hnone hage hclear hurgent
      ((s.advance dt).inFlightOn_eq_false.2 hidle)]
    refine ⟨?_, (s.settle_onlyArbiterActs dt _).1, by simp, by simp⟩
    exact (State.settle_hasClaim _ _).2 (State.raiseClaim_hasClaim _ _)
  · rw [(s.advance dt).checkRoutine_raisesNothing h]
    exact ⟨⟨(s.settle_onlyArbiterActs dt ⟨.refresh, head, .refreshEngine, .routine⟩).2, fun c =>
      (State.settle_hasClaim _ c).1⟩, by simp, by simp⟩

/-! ## 7.0 ms (R24, R26) -/

section Crossing

variable {s} {row : Nat} (hlive : s.live = true) (hage : 7000000 ≤ s.clock - (s.row row).completedAt)
  (hnew : (s.row row).crossed = false) (hclear : (s.row row).scrubPending = false) (hidle : s.inFlightOn row = false)

theorem urgentCrossing_of_taken (h : (s.row row).crossed = true) : urgentCrossing row s = s := by
  unfold urgentCrossing
  exact if_neg fun hc => by simp [h] at hc

/-- The crossing marks its row, the table having an entry for it. -/
theorem State.markCrossed_row (hnew : (s.row row).crossed = false) (q : Nat) :
    (s.markCrossed row).row q = if q = row then { s.row row with crossed := true } else s.row q := by
  have hrow : row < s.rat.table.length := by
    by_contra h
    rw [State.row, List.getD_eq_default _ _ (by omega)] at hnew
    cases hnew
  exact s.row_updateRow row q _ hrow

include hlive hage hnew hclear hidle

theorem urgentCrossing_auto (hmode : s.rfe.mode = .auto) :
    urgentCrossing row s =
      (((s.markCrossed row).withdraw fun c => c.cls == .routine && c.row == row).raiseUrgent row).settle := by
  unfold urgentCrossing
  rw [if_pos ⟨hlive, hage, hnew, by simp [State.undisturbed, hclear, hidle]⟩, hmode]

theorem urgentCrossing_hosted (hmode : s.rfe.mode = .hosted) :
    urgentCrossing row s = (s.markCrossed row).report (.rowAging row) := by
  unfold urgentCrossing
  rw [if_pos ⟨hlive, hage, hnew, by simp [State.undisturbed, hclear, hidle]⟩, hmode]

end Crossing

/-- An URGENT claim takes the place of a ROUTINE one (R24). -/
theorem State.raiseUrgent_routine {s : State} {row q : Nat} {c : Claim} (h : c ∈ (s.raiseUrgent q).arb.claims)
    (hnone : ∀ c ∈ s.arb.claims, c.cls = .routine → c.row ≠ row) (hk : c.cls = .routine) : c.row ≠ row := by
  unfold State.raiseUrgent at h
  split at h
  · exact hnone c h hk
  · obtain h | h := List.mem_append.1 h
    · exact hnone c h hk
    · cases List.mem_singleton.1 h
      cases hk

/-- Settles O22: a crossing is marked, and claimed or reported as the mode says. -/
theorem urgentCrossingClaimsOrReports : Obligations.UrgentCrossingClaimsOrReports := by
  intro s dt row hrow hlive
  have hwf : (Instr.urgentCrossing dt row).wellFormed = true := by simpa [Instr.wellFormed] using hrow
  refine ⟨fun h => ?_, fun hage hnew hclear hidle => ⟨fun hmode => ?_, fun hmode => ?_⟩⟩ <;>
    refine completes_of_run s hwf ?_ <;> simp only [Instr.run, Instr.elapsed]
  · exact urgentCrossing_of_taken (s := s.advance dt) h
  all_goals
    have hmark : ∀ q, ((s.advance dt).markCrossed row).row q =
        if q = row then { s.row row with crossed := true } else s.row q :=
      State.markCrossed_row (s := s.advance dt) hnew
    have hidle' : (s.advance dt).inFlightOn row = false := (s.advance dt).inFlightOn_eq_false.2 hidle
  · rw [urgentCrossing_auto (s := s.advance dt) hlive hage hnew hclear hidle' hmode]
    refine ⟨?_, fun c hc hk => ?_, ?_, fun q hq => ?_, ?_, ?_, ?_, ?_, ?_, ?_,
      State.settle_registersKept fun r => ?_, State.settle_slotsKept fun k => ?_⟩
    · rw [State.settle_holdsClaim]
      exact State.raiseUrgent_holds _ row
    · refine State.raiseUrgent_routine (State.settle_claims_subset _ hc) (fun d hd hdk => ?_) hk
      simpa [hdk] using (List.mem_filter.1 hd).2
    · simp [hmark]
    · simp [hmark, hq]
    all_goals simp [State.cellsKept, State.markCrossed]
  · rw [urgentCrossing_hosted (s := s.advance dt) hlive hage hnew hclear hidle' hmode]
    have htold : (s.report (.rowAging row)).toldAs (((s.advance dt).markCrossed row).report (.rowAging row)) :=
      State.toldAs.report (s := s) (t := (s.advance dt).markCrossed row) ⟨rfl, rfl⟩ _
    refine ⟨htold.1, htold.2, ?_, fun q hq => ?_, ?_, ?_, ?_, ?_, ?_, ?_, ?_⟩
    · simp [hmark]
    · simp [hmark, hq]
    all_goals simp [State.cellsKept, State.markCrossed]

/-! ## 8.0 ms (R29) -/

theorem deadline_of_disturbed {s : State} {row : Nat} (h : s.undisturbed row = false) : deadline row s = s := by
  unfold deadline
  exact if_neg fun hc => by simp [h] at hc

theorem State.loseRow_units (row : Nat) : (∀ r, (s.loseRow row).lr r = s.lr r) ∧ ∀ k, (s.loseRow row).slot k = s.slot k :=
  ⟨fun _ => rfl, fun _ => rfl⟩

/-- Settles O23: the row is lost and claimed, or the deadline is not its row's. -/
theorem deadlineLosesRow : Obligations.DeadlineLosesRow := by
  intro s dt row hrow hlive hlen
  have hwf : (Instr.deadline dt row).wellFormed = true := by simpa [Instr.wellFormed] using hrow
  refine ⟨fun h => ?_, fun hage hclear hidle => ?_⟩ <;>
    refine completes_of_run s hwf ?_ <;> simp only [Instr.run, Instr.elapsed]
  · refine deadline_of_disturbed (s := s.advance dt) ?_
    obtain h | ⟨op, hop, hop'⟩ := h
    · simp [State.undisturbed, h]
    · simp [State.undisturbed, State.inFlightOn_of_inFlight (s := s.advance dt) hop hop']
  · rw [deadline_eq (s := s.advance dt) hlive hage hclear ((s.advance dt).inFlightOn_eq_false.2 hidle)]
    have htold : (s.report (.rowLost row)).toldAs (((s.advance dt).loseRow row).report (.rowLost row)) :=
      State.toldAs.report (s := s) (t := (s.advance dt).loseRow row) ⟨rfl, rfl⟩ _
    have hentry : ∀ q, ((s.advance dt).loseRow row).row q =
        if q = row then { s.row row with lost := true, scrubPending := true } else s.row q := fun q =>
      (s.advance dt).row_updateRow row q (fun e => { e with lost := true, scrubPending := true }) (by simpa [hlen] using hrow)
    refine ⟨?_, fun q hq => ?_, ?_, ?_, ?_, ?_, ?_, ?_, ?_, State.settle_registersKept fun r => ?_,
      State.settle_slotsKept fun k => ?_⟩
    · simp [hentry]
    · simp [hentry, hq]
    · simp [State.cellsKept, State.loseRow]
    · simp [State.loseRow]
    · rw [State.settle_hasClaim, State.hasClaim_congr (s := (s.advance dt).loseRow row) (by simp)]
      exact State.raiseClaim_hasClaim _ _
    · simpa using htold.1
    · simpa using htold.2
    · simp [State.loseRow]
    · simp [State.loseRow]
    · simp [State.loseRow_units]
    · simp [State.loseRow_units]

end Sys2Proof.Machine
end

section
/-! PROOF. STATUS, ROW_QUERY and STREAM_QUERY (R34, R86, R171, R178): the reply, read off the state. -/

namespace Sys2Proof.Machine

variable {s : State} {tag : Byte} {rest : List Request} (dt : Nat) (tie : TieOrder)

/-- What a request answered at its beginning does (R163, R165). -/
theorem State.answered {k : RequestKind} {payload : List Byte} (h : s.heads tag k payload rest) (status : Status)
    (flags : Byte) (data : List Byte) :
    s.answers (((s.advance dt).finish status flags data).begun tie) tag rest status flags data
      ∧ s.raisesNothing (((s.advance dt).finish status flags data).begun tie) :=
  ⟨State.begun_finish_answers dt tie status flags data h, s.begun_finish_raisesNothing dt tie status flags data⟩

/-! ## The bytes (R178) -/

/-- The head's age, in whole µs, saturating (R35). -/
theorem State.headAge_eq (s : State) :
    s.headAge = s.rfe.order.head?.elim 0 fun head => min ((s.clock - (s.row head).completedAt) / 1000) 65535 := by
  unfold State.headAge
  cases s.rfe.order <;> rfl

/-- A row's two bits and its age (R34). -/
theorem State.rowQueryEntry_eq (s : State) (r : Nat) :
    s.rowQueryEntry r = [(if (s.row r).lost then 1 else 0) ||| (if (s.row r).scrubPending then 2 else 0)]
      ++ natBytes2 (min ((s.clock - (s.row r).completedAt) / 1000) 65535) := by
  unfold State.rowQueryEntry
  cases (s.row r).lost <;> rfl

theorem stopRequestCode_eq (k : Option StopKind) : stopRequestCode k = k.elim 0xFF StopKind.code := by
  cases k <;> rfl

section Current

variable {n : StreamId}

theorem State.currentReg_cases (s : State) (n : StreamId) :
    (s.str n).direction = .playback ∧ s.currentReg n = s.playCurrent n
      ∨ (s.str n).direction = .capture ∧ s.currentReg n = s.receiving n
      ∨ (s.str n).direction = .none ∧ s.currentReg n = none := by
  cases h : (s.str n).direction <;> simp [State.currentReg, h]

theorem State.currentData_overrun {k : Taken} (h : (s.str n).overrunSegment = some k) :
    s.currentData n = [0x02] ++ natBytes2 k.segment.row ++ natBytes2 (s.str n).overrunCount ++ [0x01] := by
  simp [State.currentData, h]

theorem State.currentData_register {r : LrId} (h : (s.str n).overrunSegment = none) (hr : s.currentReg n = some r) :
    s.currentData n = [0x01] ++ natBytes2 ((s.lr r).segment.elim 0 Segment.row) ++ natBytes2 (s.lr r).position
      ++ [natByte (s.lr r).passesLeft] := by
  cases hg : (s.lr r).segment <;> simp [State.currentData, h, hr, hg]

theorem State.currentData_none (h : (s.str n).overrunSegment = none) (hr : s.currentReg n = none) :
    s.currentData n = [0, 0, 0, 0, 0, 0] := by
  simp [State.currentData, h, hr]
  decide

end Current

/-! ## The requests -/

theorem status_of_heads (h : s.heads tag .status [] rest) :
    status tie (s.advance dt) = ((s.advance dt).finish .ok 0 (s.advance dt).statusData).begun tie := by
  simp [status, State.beginning_of_heads dt h]

theorem rowQuery_of_heads {a b c : Byte} (h : s.heads tag .rowQuery [a, b, c] rest) (hmin : 1 ≤ c.toNat)
    (hmax : c.toNat ≤ 64) (hlast : natOf a b + c.toNat ≤ 512) :
    rowQuery tie (s.advance dt) = ((s.advance dt).finish .ok 0
      ((List.range c.toNat).flatMap fun i => (s.advance dt).rowQueryEntry (natOf a b + i))).begun tie := by
  have hrange : ¬ (c.toNat = 0 ∨ 64 < c.toNat ∨ Config.rows ≤ natOf a b ∨ Config.rows < natOf a b + c.toNat) := by
    simp only [Config.rows]
    omega
  simp only [rowQuery, State.beginning_of_heads dt h, parseRowQuery, if_neg hrange]

theorem streamQuery_of_heads {b : Byte} {n : StreamId} (h : s.heads tag .streamQuery [b] rest)
    (hn : streamOfCode b = some n) :
    streamQuery tie (s.advance dt) = ((s.advance dt).finish .ok 0 ((s.advance dt).streamData n)).begun tie := by
  simp only [streamQuery, State.beginning_of_heads dt h, parseStream, hn]

/-- Settles O29: each query is its reply, whose bytes are the state's. -/
theorem queriesReportTheState : Obligations.QueriesReportTheState := by
  intro s dt tie tag rest
  refine ⟨fun h => ?_, fun a b c h hmin hmax hlast => ?_, fun b n h hn => ?_⟩
  · refine completes_of_run s (i := .status ⟨dt, tie⟩) rfl ?_
    simp only [Instr.run, Instr.elapsed]
    rw [status_of_heads dt tie h, State.statusData, State.headAge_eq]
    convert State.answered dt tie h .ok 0 _ using 2
    cases horder : s.rfe.order <;> simp [horder] <;> rfl
  · refine completes_of_run s (i := .rowQuery ⟨dt, tie⟩) rfl ?_
    simp only [Instr.run, Instr.elapsed]
    rw [rowQuery_of_heads dt tie h hmin hmax hlast]
    simp only [State.rowQueryEntry_eq]
    exact State.answered dt tie h .ok 0 _
  · refine completes_of_run s (i := .streamQuery ⟨dt, tie⟩) rfl ?_
    simp only [Instr.run, Instr.elapsed]
    rw [streamQuery_of_heads dt tie h hn]
    convert State.answered dt tie h .ok 0 ((s.advance dt).streamData n) using 2
    simp only [State.streamData, stopRequestCode_eq, State.advance_str, Counters.bytes, List.append_assoc]
    cases ho : (s.str n).overrunSegment with
    | some k => rw [State.currentData_overrun (s := s.advance dt) ho]; rfl
    | none =>
      obtain ⟨hd, hcurrent⟩ | ⟨hd, hcurrent⟩ | ⟨hd, hcurrent⟩ := s.currentReg_cases n
      case inr.inr => rw [State.currentData_none (s := s.advance dt) ho hcurrent, hd]; rfl
      all_goals
        rw [hd]
        dsimp only
        rw [← hcurrent]
        cases hr : s.currentReg n with
        | some r => rw [State.currentData_register (s := s.advance dt) ho hr]; rfl
        | none => rw [State.currentData_none (s := s.advance dt) ho hr]; rfl

end Sys2Proof.Machine
end

section
/-! PROOF. OPEN and CLOSE (R130, R138), REFRESH and COPY_ROW (R32, R72, R74, R142) at their beginnings; the timers of
LR4 and of the sessions (R73, R139). -/

namespace Sys2Proof.Machine

variable {s : State} {tag : Byte} {rest : List Request} (dt : Nat) (tie : TieOrder)

theorem State.blocksKept.trans {t u : State} (h : s.blocksKept t) (h' : t.blocksKept u) : s.blocksKept u := by
  obtain ⟨hrat, hcells, hrfe, hste, hntu, hpowered, hhrst⟩ := h
  obtain ⟨hrat', hcells', hrfe', hste', hntu', hpowered', hhrst'⟩ := h'
  exact ⟨hrat'.trans hrat, fun row col => (hcells' row col).trans (hcells row col), hrfe'.trans hrfe,
    hste'.trans hste, hntu'.trans hntu, hpowered'.trans hpowered, hhrst'.trans hhrst⟩

theorem State.registersKept.trans {t u : State} (h : s.registersKept t) (h' : t.registersKept u) : s.registersKept u :=
  fun r => by rw [h' r, h r]

/-! ## REFRESH (R32) -/

/-- A request that goes on by raising a claim (R41). -/
theorem State.begun_raised (c : Claim) (p : Phase) :
    ((((s.advance dt).raiseClaim c).setPhase p).begun tie).hasClaim c
      ∧ ((((s.advance dt).raiseClaim c).setPhase p).begun tie).rqe = { s.rqe with phase := p }
      ∧ ((((s.advance dt).raiseClaim c).setPhase p).begun tie).hlc = s.hlc
      ∧ s.onlyArbiterActs ((((s.advance dt).raiseClaim c).setPhase p).begun tie) := by
  refine ⟨?_, by simp, by simp, State.begun_onlyArbiterActs _ tie⟩
  rw [State.begun_hasClaim, State.setPhase_hasClaim]
  exact State.raiseClaim_hasClaim _ _

theorem refresh_of_heads {a b c d : Byte} (h : s.heads tag .refresh [a, b, c, d] rest)
    (hfirst : natOf a b ≤ natOf c d) (hlast : natOf c d < 512) (hready : s.rat.state = .ready) :
    refresh tie (s.advance dt) = (((s.advance dt).raiseClaim ⟨.refresh, natOf a b, .requestEngine, .host⟩).setPhase
      (.refreshing (natOf a b) (natOf c d) (natOf a b))).begun tie := by
  have hrange : ¬ (Config.rows ≤ natOf c d ∨ natOf c d < natOf a b) := by
    simp only [Config.rows]
    omega
  have hinit : (s.advance dt).inInit = false := by simp [State.inInit, hready]
  simp [refresh, State.beginning_of_heads dt h, parseRefresh, hrange, hinit]

/-! ## COPY_ROW (R72, R74, R142) -/

section Copy

variable {a b c d f n : Byte} {job : CopyJob}

theorem copyRow_of_heads (h : s.heads tag .copyRow [a, b, c, d, f, n] rest)
    (hjob : job = ⟨natOf a b, natOf c d, f.toNat, n.toNat⟩) (hrange : job.inRange = true)
    (hready : s.rat.state = .ready) :
    copyRow tie (s.advance dt) =
      if s.lrb.lr4.discardPending.isSome then ((s.advance dt).setPhase (.copyWaiting job)).begun tie
      else ((s.advance dt).startCopy job).begun tie := by
  have hinit : (s.advance dt).inInit = false := by simp [State.inInit, hready]
  subst hjob
  simp [copyRow, State.beginning_of_heads dt h, parseCopy, hrange, hinit]
  rfl

/-- Where every pending claim of a register leaves it as it is at its grant, the register is unchanged. -/
theorem State.settle_lr_of_granted {r : LrId}
    (h : ∀ c ∈ s.arb.claims, c.register? = some r → (s.lr r).granted c.kind = s.lr r) : s.settle.lr r = s.lr r := by
  obtain e | ⟨_, e | ⟨c, hc, e⟩⟩ := s.settle_cases
  · rw [e]
  · rw [e]; simp
  · rw [e, (State.grant_spec _ c).2.2]
    split
    · next hr => simpa using h c hc hr
    · simp

theorem State.begun_lr_of_granted {r : LrId}
    (h : ∀ c ∈ s.arb.claims, c.register? = some r → (s.lr r).granted c.kind = s.lr r) : (s.begun tie).lr r = s.lr r := by
  have hclosed : s.closeHeld.settle.lr r = s.lr r := by
    rw [State.settle_lr_of_granted (by simpa using h)]
    simp
  obtain ⟨e, _⟩ | ⟨e, hkeep⟩ | ⟨e, _⟩ := s.closeHeld.conclude_cases tie <;> rw [State.begun, e]
  · simp
  · exact hclosed
  · rw [State.closeHeld_of_not_held _ fun k row => s.closeHeld_not_held k row]
    exact hclosed

/-- LR4's copy begun (R72): its COPY_LOAD changes the register only at its completion. -/
theorem State.startCopy_claims (hidle : s.claimPending .lr4 = false) (c : Claim)
    (hc : c ∈ (s.startCopy job).arb.claims) (hr : c.register? = some .lr4) (x : LineReg) : x.granted c.kind = x := by
  obtain hc | hc := List.mem_append.1 (show c ∈ s.arb.claims ++ [_] from hc)
  · exact absurd (by simp [Claim.isOf, hr]) (List.any_eq_false.1 hidle c hc)
  · rw [List.mem_singleton.1 hc]
    rfl

theorem State.startCopy_lr (r : LrId) : (s.startCopy job).lr r =
    if r = .lr4 then { (s.lr .lr4).cleared none with state := .loading, copy := some job } else s.lr r := by
  cases r <;> rfl

theorem State.startCopy_starts (hidle : s.claimPending .lr4 = false) :
    s.copyStarts (s.startCopy job).settle job ∧ s.copyStarts ((s.startCopy job).begun tie) job := by
  have hlr := s.startCopy_lr (job := job) .lr4
  rw [if_pos rfl] at hlr
  have hclaim : (s.startCopy job).hasClaim ⟨.copyLoad, job.source, .requestEngine, .host⟩ :=
    State.raiseClaim_hasClaim _ _
  have hkept : ∀ c ∈ (s.startCopy job).arb.claims, c.register? = some .lr4 →
      ((s.startCopy job).lr .lr4).granted c.kind = (s.startCopy job).lr .lr4 :=
    fun c hc hr => State.startCopy_claims hidle c hc hr _
  exact ⟨⟨(State.settle_lr_of_granted hkept).trans hlr, (State.settle_hasClaim _ _).2 hclaim, by simp [State.startCopy]⟩,
    ⟨(State.begun_lr_of_granted tie hkept).trans hlr, (State.begun_hasClaim _ _ _).2 hclaim, by simp [State.startCopy]⟩⟩

/-- Another register than LR4 is only passed on by a grant. -/
theorem State.begun_startCopy_granted {r : LrId} (hr : r ≠ .lr4) : s.granted ((s.startCopy job).begun tie) r := by
  have hlr := s.startCopy_lr (job := job) r
  rw [if_neg hr] at hlr
  rw [State.granted, ← hlr]
  exact State.begun_lr _ tie r

theorem copyRow_begins (s : State) (dt : Nat) (tie : TieOrder) (tag a b c d f n : Byte) (rest : List Request) :
    let job : CopyJob := ⟨natOf a b, natOf c d, f.toNat, n.toNat⟩
    s.heads tag .copyRow [a, b, c, d, f, n] rest → job.source < 512 → job.dest < 512 → job.first ≤ 3 →
      1 ≤ job.count → job.count ≤ 4 - job.first → s.rat.state = .ready → s.claimPending .lr4 = false →
    Completes (.copyRow ⟨dt, tie⟩) s fun t =>
      t.hlc = s.hlc ∧ s.blocksKept t ∧ s.slotsKept t ∧ (∀ r, r ≠ .lr4 → s.granted t r)
        ∧ if s.lrb.lr4.discardPending = none then s.copyStarts t job
          else t.lr .lr4 = s.lr .lr4 ∧ t.rqe = { s.rqe with phase := .copyWaiting job }
            ∧ ∀ c, t.hasClaim c → s.hasClaim c := by
  intro job h hsource hdest hfirst hmin hmax hready hidle
  refine completes_of_run s (i := .copyRow ⟨dt, tie⟩) rfl ?_
  simp only [Instr.run, Instr.elapsed]
  rw [copyRow_of_heads dt tie h (job := job) rfl (by simp [CopyJob.inRange, Config.rows, *]) hready]
  split
  · next hd =>
    have hwait : s.lrb.lr4.discardPending ≠ none := fun e => by simp [e] at hd
    have hacts := State.begun_onlyArbiterActs ((s.advance dt).setPhase (.copyWaiting job)) tie
    obtain ⟨hblocks, hregs, hslots⟩ := hacts
    rw [if_neg hwait]
    exact ⟨by simp, hblocks, hslots, fun r _ => hregs r, State.begun_lr_of_idle _ tie hidle, by simp, fun c hc =>
      (State.begun_hasClaim ((s.advance dt).setPhase (.copyWaiting job)) tie c).1 hc⟩
  · next hd =>
    have hnone : s.lrb.lr4.discardPending = none := by simpa using hd
    rw [if_pos hnone]
    exact ⟨by simp [State.startCopy], by simp [State.startCopy, State.blocksKept, State.cellsKept], fun k => State.begun_slot _ tie k,
      fun r hr => State.begun_startCopy_granted (s := s.advance dt) tie hr,
      (State.startCopy_starts (s := s.advance dt) tie hidle).2⟩

end Copy

/-- The completion of LR4's discarded operation begins the COPY_ROW that waits for it (R74). -/
theorem copyRow_waits (s : State) (op : Operation) (dt : Nat) (tie : TieOrder) (job : CopyJob) (hdue : s.due dt op)
    (hk : op.claim.kind = .copyLoad ∨ ∃ range, op.claim.kind = .copyCommit range)
    (hd : s.lrb.lr4.discardPending = op.claim.kind.discardKind) (hidle : s.claimPending .lr4 = false)
    (hp : s.rqe.phase = .copyWaiting job) :
    Completes (op.claim.kind.completion dt tie) s fun t => s.copyStarts t job ∧ t.hlc = s.hlc ∧ t.ntu = s.ntu := by
  obtain ⟨hwf, hrun⟩ := lr4Completion_run dt tie hdue hk hd
  refine completes_of_run s hwf ?_
  rw [hrun]
  generalize hu : ((s.advance dt).completed op).setLr .lr4 { s.lrb.lr4 with discardPending := none } = u
  have hdiscarded : ((s.advance dt).completed op).lr4Discarded = u.startCopy job := by
    have hlrb : ((s.advance dt).completed op).lrb.lr4 = s.lrb.lr4 := by simp [State.advance]
    have hphase : u.rqe.phase = .copyWaiting job := by
      rw [← hu]
      simpa using hp
    simp only [State.lr4Discarded, hlrb, hu, hphase]
  have hpending : u.claimPending .lr4 = false := by
    rw [← hu, State.claimPending_congr (s := (s.advance dt).completed op) (by simp)]
    exact State.completed_claimPending hidle
  rw [hdiscarded]
  obtain ⟨hlr, hclaim, hrqe⟩ := (State.startCopy_starts (job := job) tie hpending).1
  refine ⟨⟨?_, hclaim, ?_⟩, ?_, ?_⟩
  · rw [hlr, ← hu]
    rfl
  · rw [hrqe, ← hu]
    simp
  · rw [← hu]
    simp [State.startCopy]
  · rw [← hu]
    simp [State.startCopy]

/-! ## OPEN and CLOSE (R130, R138) -/

theorem State.closeHeld_hasClaim {c : Claim} : s.closeHeld.hasClaim c ↔ s.hasClaim c := by
  rw [State.hasClaim, State.holdsClaim, State.closeHeld_inFlight, State.closeHeld_claims]
  rfl

section Sessions

variable {k : SlotId} {x y : Byte}

/-- The first slot that is not in use, those below it being in use (R130). -/
theorem State.freeSlot_eq (hfree : (s.slot k).inUse = false)
    (hlower : ∀ q, (slotCode q).toNat < (slotCode k).toNat → (s.slot q).inUse = true) : s.freeSlot = some k := by
  have hused : ∀ q, (slotCode q).toNat < (slotCode k).toNat → (!(s.slot q).inUse) = false := fun q hq => by
    rw [hlower q hq]
    rfl
  unfold State.freeSlot
  cases k
  case k0 => simp [hfree]
  case k1 => simp [hfree, hused .k0 (by decide)]
  case k2 => simp [hfree, hused .k0 (by decide), hused .k1 (by decide)]
  case k3 => simp [hfree, hused .k0 (by decide), hused .k1 (by decide), hused .k2 (by decide)]

theorem State.findSession_eq (hx : x = slotCode k) (huse : (s.slot k).inUse = true)
    (hgen : (s.slot k).generation = y) : s.findSession x y = some k := by
  have hslot : slotOfCode x = some k := by
    rw [hx]
    cases k <;> rfl
  simp [State.findSession, hslot, huse, hgen]

/-- The slot of an OPEN from its beginning on: in use, its generation advanced, its row named (R130). -/
def Session.opened (z : Session) (row : Nat) : Session :=
  { z with inUse := true, generation := z.generation + 1, row := row, state := .parked, idleTimer := none }

theorem openRow_of_heads (h : s.heads tag .openRow [x, y] rest) (hrow : natOf x y < 512)
    (hready : s.rat.state = .ready) (hslot : s.freeSlot = some k) :
    openRow tie (s.advance dt) = ((((s.advance dt).setSlot k ((s.slot k).opened (natOf x y))).raiseClaim
      ⟨.openRow, natOf x y, .requestEngine, .host⟩).setPhase (.opening k)).begun tie := by
  have hrange : ¬ Config.rows ≤ natOf x y := by
    simp only [Config.rows]
    omega
  have hinit : (s.advance dt).inInit = false := by simp [State.inInit, hready]
  have hslot' : (s.advance dt).freeSlot = some k := hslot
  simp only [openRow, State.beginning_of_heads dt h, parseOpen, if_neg hrange, hinit, hslot']
  rfl

theorem openRow_takesSlot (h : s.heads tag .openRow [x, y] rest) (hrow : natOf x y < 512)
    (hready : s.rat.state = .ready) (hfree : (s.slot k).inUse = false)
    (hlower : ∀ q, (slotCode q).toNat < (slotCode k).toNat → (s.slot q).inUse = true) :
    Completes (.openRow ⟨dt, tie⟩) s fun t =>
      t.slot k = (s.slot k).opened (natOf x y)
        ∧ (∀ q, q ≠ k → t.slot q = { s.slot q with state := (t.slot q).state })
        ∧ t.hasClaim ⟨.openRow, natOf x y, .requestEngine, .host⟩ ∧ t.rqe = { s.rqe with phase := .opening k }
        ∧ t.hlc = s.hlc ∧ s.blocksKept t ∧ s.registersKept t := by
  refine completes_of_run s (i := .openRow ⟨dt, tie⟩) rfl ?_
  simp only [Instr.run, Instr.elapsed]
  rw [openRow_of_heads dt tie h hrow hready (State.freeSlot_eq hfree hlower)]
  generalize hu : (s.advance dt).setSlot k ((s.slot k).opened (natOf x y)) = u
  have hslot : ∀ q, u.slot q = if q = k then (s.slot k).opened (natOf x y) else s.slot q := fun q => by
    rw [← hu]
    exact State.slot_setSlot ..
  obtain ⟨hblocks, hregs, hslots⟩ :=
    ((u.raiseClaim ⟨.openRow, natOf x y, .requestEngine, .host⟩).setPhase (.opening k)).begun_onlyArbiterActs tie
  refine ⟨?_, fun q hq => ?_, ?_, by simp [← hu], by simp [← hu], ?_, ?_⟩
  · have hparked := State.begun_parked ((u.raiseClaim ⟨.openRow, natOf x y, .requestEngine, .host⟩).setPhase (.opening k))
      tie (k := k) (by simp [hslot, Session.opened])
    rw [hslots k, hparked]
    simp [hslot, Session.opened]
  · refine (hslots q).trans ?_
    simp [hslot, hq]
  · exact (State.begun_hasClaim _ _ _).2 (State.raiseClaim_hasClaim _ _)
  · subst hu
    exact hblocks
  · subst hu
    exact hregs

theorem close_of_heads (h : s.heads tag .close [x, y] rest) (hk : s.findSession x y = some k) :
    close tie (s.advance dt) = (((s.advance dt).closeHeld.freeSession k).finish .ok 0 []).begun tie := by
  have hk' : (s.advance dt).findSession x y = some k := hk
  simp only [close, State.beginning_of_heads dt h, parseHandle, hk']

/-- Settles O33: OPEN and CLOSE write one slot, and the arbiter closes the held row. -/
theorem openAndCloseChangeOneSlot : Obligations.OpenAndCloseChangeOneSlot := by
  intro s dt tie tag rest k x y
  refine ⟨openRow_takesSlot dt tie, fun h hx huse hgen => ?_⟩
  refine completes_of_run s (i := .close ⟨dt, tie⟩) rfl ?_
  simp only [Instr.run, Instr.elapsed]
  rw [close_of_heads dt tie h (State.findSession_eq hx huse hgen)]
  generalize hu : (s.advance dt).closeHeld.freeSession k = u
  have hslot : ∀ q, u.slot q = if q = k then { s.slot k with inUse := false, state := .parked, idleTimer := none }
      else { s.slot q with state := (u.slot q).state } := fun q => by
    rw [← hu, State.freeSession]
    split
    · next hq =>
      rw [hq, State.slot_setSlot, if_pos rfl, State.closeHeld_slot]
      rfl
    · next hq =>
      rw [State.slot_setSlot, if_neg hq]
      exact State.closeHeld_slot (s.advance dt) q
  obtain ⟨hblocks, hregs, hslots⟩ := (u.finish .ok 0 []).begun_onlyArbiterActs tie
  have hqueue : u.rqe.queue = ⟨tag, .close, [x, y]⟩ :: rest := by
    obtain ⟨-, -, hqueue⟩ := h
    rw [← hu]
    simpa [State.freeSession] using hqueue
  have hblocks' : s.blocksKept u := by
    rw [← hu]
    simp [State.blocksKept, State.cellsKept, State.freeSession]
  have hregs' : s.registersKept u := fun r => by
    rw [← hu]
    simp [State.freeSession]
  have hfinished : ∀ q, (u.finish .ok 0 []).slot q = u.slot q := by simp
  refine ⟨?_, ?_, fun q hq => ?_, fun c hc => ?_, hblocks'.trans (State.blocksKept.trans (by
    simp [State.blocksKept, State.cellsKept]) hblocks), hregs'.trans (State.registersKept.trans (by
    simp [State.registersKept]) hregs)⟩
  · rw [State.finish_spec u .ok 0 [] hqueue]
    simp [State.answers, ← hu, State.freeSession]
  · have hk := hslot k
    rw [if_pos rfl] at hk
    have hparked := State.begun_parked (u.finish .ok 0 []) tie (k := k) (by simp [hk])
    rw [hslots k, hparked]
    simp [hk]
  · have hq' := hslot q
    rw [if_neg hq] at hq'
    refine (hslots q).trans ?_
    rw [hfinished, hq']
  · have hc' : (s.advance dt).closeHeld.hasClaim c := by
      subst hu
      simpa [State.hasClaim, State.holdsClaim, State.inFlight, State.freeSession] using (State.begun_hasClaim _ tie c).1 hc
    exact (State.closeHeld_hasClaim (s := s.advance dt)).1 hc'

end Sessions

/-- Settles O34: REFRESH raises its first claim, COPY_ROW LR4's, at its beginning or at the completion it waits for. -/
theorem refreshAndCopyRowBegin : Obligations.RefreshAndCopyRowBegin := by
  refine ⟨fun s dt tie tag a b c d rest h hfirst hlast hready => ?_, copyRow_begins, copyRow_waits⟩
  refine completes_of_run s (i := .refresh ⟨dt, tie⟩) rfl ?_
  simp only [Instr.run, Instr.elapsed]
  rw [refresh_of_heads dt tie h hfirst hlast hready]
  exact State.begun_raised dt tie _ _

end Sys2Proof.Machine
end

section
/-! PROOF. The hold timer of LR4 (R73) and the idle timer of a session (R139). -/

namespace Sys2Proof.Machine

variable {s : State} {start : Nat}

theorem lr4HoldExpiry_of_expired (hlive : s.live = true) (hloaded : s.lrb.lr4.state = .loaded)
    (htimer : s.lrb.lr4.holdTimer = some start) (htime : start + 50000 ≤ s.clock) :
    lr4HoldExpiry s = ((s.emptyReg .lr4).finish .stale 0 []).settle := by
  have htimer' : (s.lr .lr4).holdTimer = some start := htimer
  have hexpired : s.holdExpired .lr4 = true := by
    simpa [State.holdExpired, htimer', State.elapsed, Config.holdLimit] using htime
  unfold lr4HoldExpiry
  rw [if_pos ⟨hlive, hexpired, hloaded⟩]

theorem idleExpiry_of_expired {k : SlotId} (hlive : s.live = true) (huse : (s.slot k).inUse = true)
    (hparked : (s.slot k).state = .parked) (htimer : (s.slot k).idleTimer = some start)
    (htime : start + 2000000 ≤ s.clock) :
    idleExpiry k s = (s.freeSession k).report (.sessionExpired k (s.slot k).generation) := by
  have helapsed : s.elapsed start Config.idleLimit = true := by simpa [State.elapsed, Config.idleLimit] using htime
  unfold idleExpiry
  rw [htimer]
  exact if_pos ⟨hlive, huse, hparked, helapsed⟩

/-- Settles O49: the copy is withdrawn and answered, the session freed and reported. -/
theorem copyAndSessionTimersExpire : Obligations.CopyAndSessionTimersExpire := by
  refine ⟨fun s dt start r rest hlive hloaded htimer htime hqueue => ?_,
    fun s dt start k hlive huse hparked htimer htime => ?_⟩
  · refine completes_of_run s (i := .lr4HoldExpiry dt) rfl ?_
    simp only [Instr.run, Instr.elapsed]
    rw [lr4HoldExpiry_of_expired (s := s.advance dt) hlive hloaded htimer htime]
    generalize hu : ((s.advance dt).emptyReg .lr4).finish .stale 0 [] = u
    have hqueue' : ((s.advance dt).emptyReg .lr4).rqe.queue = r :: rest := by simpa using hqueue
    have hspec := State.finish_spec _ .stale 0 [] hqueue'
    rw [hu] at hspec
    have hlr : ∀ q, u.lr q = if q = .lr4 then (s.lr .lr4).cleared (s.operationKind .lr4) else s.lr q := fun q => by
      rw [hspec]
      exact (s.advance dt).emptyReg_lr .lr4 q
    have hidle : u.claimPending .lr4 = false := by
      rw [hspec]
      exact (s.advance dt).emptyReg_claimPending .lr4
    have hslots : ∀ k, u.slot k = s.slot k := fun k => by simp [← hu]
    refine ⟨?_, ?_, fun c hc hreg => ?_, fun q hq => ?_, ?_, State.settle_slotsKept hslots⟩
    · simp [State.answers, hspec]
    · rw [State.emptied, State.settle_lr_of_idle u hidle, hlr, if_pos rfl]
    · refine List.any_eq_false.1 hidle c (State.settle_claims_subset u hc) ?_
      simp [Claim.isOf, hreg]
    · have hq' := hlr q
      rw [if_neg hq] at hq'
      rw [State.granted, ← hq']
      exact State.settle_lr u q
    · simp [State.blocksKept, State.cellsKept, hspec]
  · refine completes_of_run s (i := .idleExpiry dt k) rfl ?_
    simp only [Instr.run, Instr.elapsed]
    rw [idleExpiry_of_expired (s := s.advance dt) hlive huse hparked htimer htime]
    have htold : (s.report (.sessionExpired k (s.slot k).generation)).toldAs
        (((s.advance dt).freeSession k).report (.sessionExpired k (s.slot k).generation)) :=
      State.toldAs.report (s := s) (t := (s.advance dt).freeSession k) ⟨rfl, rfl⟩ _
    refine ⟨?_, fun q hq => ?_, htold.1, htold.2, ?_⟩
    · simp [State.freeSession, hparked]
    · simp [State.freeSession, State.slot_setSlot, hq]
    · simp [State.freeSession]

end Sys2Proof.Machine
end

section
/-! PROOF. STREAM_SETUP and STREAM_FLUSH (R82, R85): the record of one stream, and the reply. -/

namespace Sys2Proof.Machine

variable {s : State} {tag : Byte} {rest : List Request} {n : StreamId} (dt : Nat) (tie : TieOrder)

theorem otherStream_ne (n : StreamId) : otherStream n ≠ n := by
  cases n <;> decide

/-- A request that changes one stream's record and is answered (R163). -/
theorem State.recordAnswered {k : RequestKind} {payload : List Byte} (h : s.heads tag k payload rest)
    (f : StreamRec → StreamRec) (flags : Byte) (data : List Byte) :
    let t := (((s.advance dt).mapStr n f).finish .ok flags data).begun tie
    t.str n = f (s.str n) ∧ t.str (otherStream n) = s.str (otherStream n) ∧ s.answers t tag rest .ok flags data
      ∧ s.othersKept t ∧ s.registersKept t := by
  intro t
  obtain ⟨-, -, hqueue⟩ := h
  have hqueue' : ((s.advance dt).mapStr n f).rqe.queue = ⟨tag, k, payload⟩ :: rest := hqueue
  obtain ⟨-, hregs, hslots⟩ := (((s.advance dt).mapStr n f).finish .ok flags data).begun_onlyArbiterActs tie
  have hregs' : s.registersKept (((s.advance dt).mapStr n f).finish .ok flags data) := fun r => by simp
  refine ⟨by simp [t, State.mapStr_str], by simp [t, State.mapStr_str, otherStream_ne], ?_, ?_,
    hregs'.trans hregs⟩
  · simp [t, State.answers, State.finish_spec _ .ok flags data hqueue']
  · refine ⟨by simp [t], fun _ _ => by simp [t], by simp [t], by simp [t], fun k => ?_, by simp [t], by simp [t]⟩
    simpa [t] using hslots k

theorem streamSetup_of_heads {b d p hi lo c : Byte} {direction : Direction} {policy : Policy}
    (h : s.heads tag .streamSetup [b, d, p, hi, lo, c] rest) (hn : streamOfCode b = some n)
    (hstate : (s.str n).state = .disabled ∨ (s.str n).state = .idle) (hd : d = direction.code) (hp : p = policy.code)
    (hc : c = 0 ∨ c = 1) :
    streamSetup tie (s.advance dt) = (((s.advance dt).mapStr n fun x =>
      x.setUp direction policy (cellOf hi lo) (c == 1)).finish .ok 0 []).begun tie := by
  have hunstarted : ((s.advance dt).str n).unstarted = true := by
    obtain h | h := hstate <;> simp [StreamRec.unstarted, h]
  have hdecoded : (SetupFields.mk b d p (cellOf hi lo) c).decoded = some (direction, policy, c == 1) := by
    subst hd hp
    obtain rfl | rfl := hc <;> cases direction <;> cases policy <;> rfl
  simp only [streamSetup, State.beginning_of_heads dt h, parseSetup, hn, hunstarted, hdecoded]
  rfl

theorem streamFlush_of_heads {b : Byte} (h : s.heads tag .streamFlush [b] rest) (hn : streamOfCode b = some n)
    (hstate : (s.str n).state ≠ .disabled) :
    streamFlush tie (s.advance dt) = (((s.advance dt).mapStr n fun x => { x with queue := [] }).finish .ok 0
      [natByte (s.str n).queue.length]).begun tie := by
  have hstate' : ((s.advance dt).str n).state ≠ .disabled := hstate
  simp only [streamFlush, State.beginning_of_heads dt h, parseStream, hn, if_neg hstate']
  rfl

/-- Settles O35: each is one change of the record and its reply. -/
theorem setupAndFlushChangeOneRecord : Obligations.SetupAndFlushChangeOneRecord := by
  intro s dt tie tag rest n
  refine ⟨fun b d p hi lo c direction policy h hn hstate hd hp hc => ?_, fun b h hn hstate => ?_⟩
  · refine completes_of_run s (i := .streamSetup ⟨dt, tie⟩) rfl ?_
    simp only [Instr.run, Instr.elapsed]
    rw [streamSetup_of_heads dt tie h hn hstate hd hp hc]
    exact State.recordAnswered dt tie h _ 0 []
  · refine completes_of_run s (i := .streamFlush ⟨dt, tie⟩) rfl ?_
    simp only [Instr.run, Instr.elapsed]
    rw [streamFlush_of_heads dt tie h hn hstate]
    exact State.recordAnswered dt tie h _ 0 _

end Sys2Proof.Machine
end

section
/-! PROOF. The byte layouts of requests (R176, R177): fields sent high byte first, cells, segment records. -/

namespace Sys2Proof.Machine

/-! ## Numbers and cells -/

theorem natOf_eq (hi lo : Byte) : natOf hi lo = hi.toNat * 256 + lo.toNat := by
  have hlo := lo.isLt
  simp only [natOf, cellOf, BitVec.toNat_append]
  rw [Nat.shiftLeft_eq, Nat.mul_comm, ← Nat.two_pow_add_eq_or_of_lt (by omega) hi.toNat]

theorem cellOf_cellBytes (v : CellVal) : cellOf (v.extractLsb' 8 8) (v.extractLsb' 0 8) = v := by
  apply BitVec.eq_of_getLsbD_eq
  intro i hi
  simp only [cellOf, BitVec.getLsbD_append, BitVec.getLsbD_extractLsb']
  split
  · next h => simp [h]
  · next h =>
    have hsub : i - 8 < 8 := by omega
    simp [hsub, show 8 + (i - 8) = i by omega]

theorem natByte_toNat {n : Nat} (h : n < 256) : (natByte n).toNat = n := by
  simp [natByte, Nat.mod_eq_of_lt h]

theorem cellsOf_flatMap (cells : List CellVal) : cellsOf cells.length (cells.flatMap cellBytes) = some cells := by
  induction cells with
  | nil => rfl
  | cons c cs ih => simp [cellsOf, cellBytes, cellOf_cellBytes, ← ih] 

/-- Exactly two bytes a cell. -/
theorem cellsOf_isSome (n : Nat) (p : List Byte) : (cellsOf n p).isSome = decide (p.length = 2 * n) := by
  induction n generalizing p with
  | zero => cases p <;> simp [cellsOf]
  | succ n ih =>
    match p with
    | [] => simp [cellsOf]
    | [_] => simp [cellsOf]; omega
    | _ :: _ :: rest => simp [cellsOf, ih]; omega

/-! ## Segment records -/

/-- A number of 16 bits as sent. -/
theorem natBytes2_eq {n : Nat} (hn : n < 65536) :
    ∃ a b : Byte, natBytes2 n = [a, b] ∧ a.toNat = n / 256 ∧ b.toNat = n % 256 := by
  refine ⟨_, _, rfl, ?_, by simp⟩
  simp [Nat.mod_eq_of_lt hn, Nat.shiftRight_eq_div_pow]
  omega

/-- Bit 15 of the row field (R176). -/
theorem byte_mark (a : Byte) : a[7] = decide (128 ≤ a.toNat) := by
  have hmsb := BitVec.msb_eq_decide a
  simpa [BitVec.msb_eq_getLsbD_last] using hmsb

theorem natOf_unmarked (a b : Byte) : natOf (a &&& 127#8) b = a.toNat % 128 * 256 + b.toNat := by
  rw [natOf_eq, BitVec.toNat_and]
  congr 2
  exact Nat.and_two_pow_sub_one_eq_mod a.toNat 7

/-- A segment as sent (R176). -/
def Segment.record (g : Segment) : List Byte :=
  natBytes2 (g.row + if g.mark.isSome then 32768 else 0) ++ [natByte g.first, natByte g.count, natByte g.repeats]
    ++ g.mark.toList

theorem parseSegments_record {g : Segment} {rest : List Byte} (n : Nat)
    (h : g.row < 32768 ∧ g.first < 256 ∧ g.count < 256 ∧ g.repeats < 256) :
    parseSegments (n + 1) (g.record ++ rest) = (parseSegments n rest).map (g :: ·) := by
  obtain ⟨hrow, hfirst, hcount, hrepeats⟩ := h
  obtain ⟨row, first, count, repeats, mark⟩ := g
  cases mark with
  | none =>
    obtain ⟨a, b, hbytes, ha, hb⟩ := natBytes2_eq (n := row) (Nat.lt_trans hrow (by decide))
    have hnum : natOf a b = row := by
      rw [natOf_eq]
      omega
    have hmark : a[7] = false := by
      rw [byte_mark, decide_eq_false_iff_not]
      simp at hrow
      omega
    simp [Segment.record, hbytes, parseSegments, hmark, hnum, natByte_toNat hfirst, natByte_toNat hcount,
      natByte_toNat hrepeats]
  | some m =>
    have hsum : row + 32768 < 65536 := by simp at hrow; omega
    obtain ⟨a, b, hbytes, ha, hb⟩ := natBytes2_eq hsum
    have hnum : natOf (a &&& 127#8) b = row := by
      rw [natOf_unmarked]
      omega
    have hmark : a[7] = true := by
      rw [byte_mark, decide_eq_true_eq]
      omega
    simp [Segment.record, hbytes, parseSegments, hmark, hnum, natByte_toNat hfirst, natByte_toNat hcount,
      natByte_toNat hrepeats]

theorem parseSegments_flatMap (gs : List Segment)
    (h : ∀ g ∈ gs, g.row < 32768 ∧ g.first < 256 ∧ g.count < 256 ∧ g.repeats < 256) :
    parseSegments gs.length (gs.flatMap Segment.record) = some gs := by
  induction gs with
  | nil => rfl
  | cons g gs ih =>
    rw [List.flatMap_cons, List.length_cons, parseSegments_record _ (h g (List.mem_cons_self ..)),
      ih fun g hg => h g (List.mem_cons_of_mem _ hg)]
    rfl

/-- The records fill the bytes exactly where they parse. -/
theorem parseSegments_isSome (n : Nat) (p : List Byte) : (parseSegments n p).isSome = segmentsFill n p := by
  induction n generalizing p with
  | zero => cases p <;> rfl
  | succ n ih =>
    match p with
    | a :: b :: f :: c :: r :: rest =>
      cases hmark : a[7] with
      | false => simp [parseSegments, segmentsFill, hmark, ih]
      | true => cases rest <;> simp [parseSegments, segmentsFill, hmark, ih]
    | [] => simp [parseSegments, segmentsFill]
    | [_] | [_, _] | [_, _, _] | [_, _, _, _] =>
      simp only [parseSegments, segmentsFill, List.length_cons, List.length_nil, Option.isSome_none]
      split <;> simp

/-- Settles O60: the fields of each payload read back one by one, the cells and the records by induction. -/
theorem payloadsReadBack : Obligations.PayloadsReadBack := by
  refine ⟨fun k g first count hf hc => ?_, fun k g first mask cells hf hc => ?_, fun k g first cells hf hc => ?_,
    fun b gs hmin hmax h => ?_⟩
  · simp [parseRead, natByte_toNat hf, natByte_toNat hc]
  · cases mask with
    | none => simp [parseWrite, natByte_toNat hf, natByte_toNat hc, cellsOf_flatMap]
    | some m => simp [parseWrite, natByte_toNat hf, natByte_toNat hc, cellsOf_flatMap, cellBytes, cellOf_cellBytes]
  · simp [parseExchange, natByte_toNat hf, natByte_toNat hc, cellsOf_flatMap]
  · have hcount : (natByte gs.length).toNat = gs.length := natByte_toNat (by omega)
    have hparsed := parseSegments_flatMap gs h
    simp only [parseAppend, hcount, hmin, hmax, and_self, if_true]
    exact congrArg (Option.map (b, ·)) hparsed

end Sys2Proof.Machine
end

section
/-! PROOF. The refusals of requests (R165, R166 and the checks of each request's rule): the first check that fails. -/

namespace Sys2Proof.Machine

/-! ## The payloads, by their length (R177) -/

section Payload

variable (p : List Byte)

theorem parseOpen_eq : parseOpen p = if p.length = 2 then some (natOf (p.getD 0 0) (p.getD 1 0)) else none := by
  match p with
  | [] | [_] | [_, _] => rfl
  | _ :: _ :: _ :: _ => simp [parseOpen]

theorem parseHandle_eq : parseHandle p = if p.length = 2 then some (p.getD 0 0, p.getD 1 0) else none := by
  match p with
  | [] | [_] | [_, _] => rfl
  | _ :: _ :: _ :: _ => simp [parseHandle]

theorem parseStop_eq : parseStop p = if p.length = 2 then some (p.getD 0 0, p.getD 1 0) else none := by
  match p with
  | [] | [_] | [_, _] => rfl
  | _ :: _ :: _ :: _ => simp [parseStop]

theorem parseStream_eq : parseStream p = if p.length = 1 then some (p.getD 0 0) else none := by
  match p with
  | [] | [_] => rfl
  | _ :: _ :: _ => simp [parseStream]

theorem parseRowQuery_eq : parseRowQuery p =
    if p.length = 3 then some (natOf (p.getD 0 0) (p.getD 1 0), (p.getD 2 0).toNat) else none := by
  match p with
  | [] | [_] | [_, _] | [_, _, _] => rfl
  | _ :: _ :: _ :: _ :: _ => simp [parseRowQuery]

theorem parseRefresh_eq : parseRefresh p =
    if p.length = 4 then some (natOf (p.getD 0 0) (p.getD 1 0), natOf (p.getD 2 0) (p.getD 3 0)) else none := by
  match p with
  | [] | [_] | [_, _] | [_, _, _] | [_, _, _, _] => rfl
  | _ :: _ :: _ :: _ :: _ :: _ => simp [parseRefresh]

theorem parseRead_eq : parseRead p =
    if p.length = 4 then some ⟨p.getD 0 0, p.getD 1 0, ⟨.read, (p.getD 2 0).toNat, (p.getD 3 0).toNat, []⟩⟩
    else none := by
  match p with
  | [] | [_] | [_, _] | [_, _, _] | [_, _, _, _] => rfl
  | _ :: _ :: _ :: _ :: _ :: _ => simp [parseRead]

theorem parseCopy_eq : parseCopy p =
    if p.length = 6 then some ⟨natOf (p.getD 0 0) (p.getD 1 0), natOf (p.getD 2 0) (p.getD 3 0), (p.getD 4 0).toNat,
      (p.getD 5 0).toNat⟩ else none := by
  match p with
  | [] | [_] | [_, _] | [_, _, _] | [_, _, _, _] | [_, _, _, _, _] | [_, _, _, _, _, _] => rfl
  | _ :: _ :: _ :: _ :: _ :: _ :: _ :: _ => simp [parseCopy]

theorem parseSetup_eq : parseSetup p =
    if p.length = 6 then some ⟨p.getD 0 0, p.getD 1 0, p.getD 2 0, cellOf (p.getD 3 0) (p.getD 4 0), p.getD 5 0⟩
    else none := by
  match p with
  | [] | [_] | [_, _] | [_, _, _] | [_, _, _, _] | [_, _, _, _, _] | [_, _, _, _, _, _] => rfl
  | _ :: _ :: _ :: _ :: _ :: _ :: _ :: _ => simp [parseSetup]

theorem parseFill_eq : parseFill p =
    if p.length = 7 then some (natOf (p.getD 0 0) (p.getD 1 0), natOf (p.getD 2 0) (p.getD 3 0),
      cellOf (p.getD 4 0) (p.getD 5 0), p.getD 6 0) else none := by
  match p with
  | [] | [_] | [_, _] | [_, _, _] | [_, _, _, _] | [_, _, _, _, _] | [_, _, _, _, _, _] | [_, _, _, _, _, _, _] => rfl
  | _ :: _ :: _ :: _ :: _ :: _ :: _ :: _ :: _ => simp [parseFill]

end Payload

/-! ## The checks, one after the other -/

section Checks

variable {c : Prop} [Decidable c] {a status : Status} {o : Option Status}

theorem refuses_iff : (if c then some a else o) = some status ↔ c ∧ a = status ∨ ¬ c ∧ o = some status := by
  split <;> simp [*]

theorem refuses_or : (if c then some a else none).or o = if c then some a else o := by
  split <;> rfl

end Checks

/-! ## The requests -/

variable {s : State} {p : List Byte} {status : Status} (tie : TieOrder)

theorem State.inInit_iff : s.inInit = true ↔ s.rat.state = .init := by
  simp [State.inInit]

theorem State.freeSlot_none : s.freeSlot = none ↔ s.slotsInUse = 4 := by
  have hall : s.slotsInUse = 4 ↔ ∀ k ∈ [SlotId.k0, .k1, .k2, .k3], (s.slot k).inUse = true :=
    List.length_filter_eq_length_iff
  rw [State.freeSlot, List.find?_eq_none, hall]
  simp

/-! A refusal is unfolded into its checks, in their order; then each case is the branch of the request that the check
guards. -/

theorem identify_refused (hb : s.beginning .identify = some p) (h : s.refusal .identify p = some status) :
    identify tie s = (s.refuse status).begun tie := by
  simp only [State.refusal, RequestKind.wellLaid, refuses_iff, beq_eq_false_iff_ne, ne_eq, List.length_eq_zero_iff] at h
  obtain ⟨hlen, rfl⟩ | ⟨-, h⟩ := h
  · simp only [identify, hb, if_neg hlen]
  · cases h

theorem status_refused (hb : s.beginning .status = some p) (h : s.refusal .status p = some status) :
    Machine.status tie s = (s.refuse status).begun tie := by
  simp only [State.refusal, RequestKind.wellLaid, refuses_iff, beq_eq_false_iff_ne, ne_eq, List.length_eq_zero_iff] at h
  obtain ⟨hlen, rfl⟩ | ⟨-, h⟩ := h
  · simp only [Machine.status, hb, if_neg hlen]
  · cases h

theorem openRow_refused (hb : s.beginning .openRow = some p) (h : s.refusal .openRow p = some status) :
    openRow tie s = (s.refuse status).begun tie := by
  simp only [State.refusal, RequestKind.wellLaid, refuses_iff, refuses_or, beq_eq_false_iff_ne, ne_eq, Decidable.not_not,
    Nat.zero_add, ← natOf_eq] at h
  obtain ⟨hlen, rfl⟩ | ⟨hlen, ⟨hrange, rfl⟩ | ⟨hrange, ⟨hinit, rfl⟩ | ⟨hinit, ⟨hslots, rfl⟩ | ⟨-, h⟩⟩⟩⟩ := h
  case inr.inr.inr.inr => cases h
  case inr.inr.inr.inl =>
    simp only [openRow, parseOpen_eq, Config.rows, State.inInit_iff, State.freeSlot_none.2 hslots, if_true, if_false, *]
  all_goals simp only [openRow, parseOpen_eq, Config.rows, State.inInit_iff, if_true, if_false, *]

theorem close_refused (hb : s.beginning .close = some p) (h : s.refusal .close p = some status) :
    close tie s = (s.refuse status).begun tie := by
  simp only [State.refusal, RequestKind.wellLaid, refuses_iff, beq_eq_false_iff_ne, ne_eq, Decidable.not_not] at h
  obtain ⟨hlen, rfl⟩ | ⟨hlen, ⟨hnone, rfl⟩ | ⟨-, h⟩⟩ := h
  case inr.inr => cases h
  all_goals simp only [close, parseHandle_eq, if_true, if_false, *]

theorem fillRows_refused (hb : s.beginning .fillRows = some p) (h : s.refusal .fillRows p = some status) :
    fillRows tie s = (s.refuse status).begun tie := by
  have hmask : fillMaskOk (p.getD 6 0) = false ↔ (p.getD 6 0).toNat = 0 ∨ 16 ≤ (p.getD 6 0).toNat := by
    simp only [fillMaskOk, decide_eq_false_iff_not]
    omega
  simp only [State.refusal, RequestKind.wellLaid, refuses_iff, beq_eq_false_iff_ne, ne_eq, Decidable.not_not,
    Nat.zero_add, Nat.reduceAdd, ← natOf_eq] at h
  obtain ⟨hlen, rfl⟩ | ⟨hlen, ⟨hrange, rfl⟩ | ⟨hrange, ⟨hinit, rfl⟩ | ⟨-, h⟩⟩⟩ := h
  case inr.inr.inr => cases h
  all_goals simp only [fillRows, parseFill_eq, Config.rows, State.inInit_iff, if_true, if_false, *]

theorem copyRow_refused (hb : s.beginning .copyRow = some p) (h : s.refusal .copyRow p = some status) :
    copyRow tie s = (s.refuse status).begun tie := by
  have hjob : ∀ j : CopyJob, j.inRange = false ↔
      512 ≤ j.source ∨ 512 ≤ j.dest ∨ 4 ≤ j.first ∨ j.count = 0 ∨ 4 < j.first + j.count := fun j => by
    simp only [CopyJob.inRange, Config.rows, decide_eq_false_iff_not]
    omega
  simp only [State.refusal, RequestKind.wellLaid, refuses_iff, beq_eq_false_iff_ne, ne_eq, Decidable.not_not,
    Nat.zero_add, Nat.reduceAdd, ← natOf_eq] at h
  obtain ⟨hlen, rfl⟩ | ⟨hlen, ⟨hrange, rfl⟩ | ⟨hrange, ⟨hinit, rfl⟩ | ⟨-, h⟩⟩⟩ := h
  case inr.inr.inr => cases h
  all_goals simp only [copyRow, parseCopy_eq, State.inInit_iff, if_true, if_false, *]

theorem refresh_refused (hb : s.beginning .refresh = some p) (h : s.refusal .refresh p = some status) :
    refresh tie s = (s.refuse status).begun tie := by
  simp only [State.refusal, RequestKind.wellLaid, refuses_iff, beq_eq_false_iff_ne, ne_eq, Decidable.not_not,
    Nat.zero_add, Nat.reduceAdd, ← natOf_eq] at h
  obtain ⟨hlen, rfl⟩ | ⟨hlen, ⟨hrange, rfl⟩ | ⟨hrange, ⟨hinit, rfl⟩ | ⟨-, h⟩⟩⟩ := h
  case inr.inr.inr => cases h
  all_goals simp only [refresh, parseRefresh_eq, Config.rows, State.inInit_iff, if_true, if_false, *]

theorem rowQuery_refused (hb : s.beginning .rowQuery = some p) (h : s.refusal .rowQuery p = some status) :
    rowQuery tie s = (s.refuse status).begun tie := by
  have hrange : ∀ first count : Nat, (count = 0 ∨ 64 < count ∨ Config.rows ≤ first ∨ Config.rows < first + count) ↔
      (count = 0 ∨ 64 < count ∨ 512 < first + count) := fun first count => by
    simp only [Config.rows]
    omega
  simp only [State.refusal, RequestKind.wellLaid, refuses_iff, beq_eq_false_iff_ne, ne_eq, Decidable.not_not,
    Nat.zero_add, ← natOf_eq] at h
  obtain ⟨hlen, rfl⟩ | ⟨hlen, ⟨hrange, rfl⟩ | ⟨-, h⟩⟩ := h
  case inr.inr => cases h
  all_goals simp only [rowQuery, parseRowQuery_eq, if_true, if_false, *]

/-! ## The stream requests -/

theorem streamQuery_refused (hb : s.beginning .streamQuery = some p) (h : s.refusal .streamQuery p = some status) :
    streamQuery tie s = (s.refuse status).begun tie := by
  simp only [State.refusal, RequestKind.wellLaid, refuses_iff, beq_eq_false_iff_ne, ne_eq, Decidable.not_not] at h
  obtain ⟨hlen, rfl⟩ | ⟨hlen, ⟨hnone, rfl⟩ | ⟨-, h⟩⟩ := h
  case inr.inr => cases h
  all_goals simp only [streamQuery, parseStream_eq, if_true, if_false, *]

theorem streamFlush_refused (hb : s.beginning .streamFlush = some p) (h : s.refusal .streamFlush p = some status) :
    streamFlush tie s = (s.refuse status).begun tie := by
  simp only [State.refusal, RequestKind.wellLaid, refuses_iff, beq_eq_false_iff_ne, ne_eq, Decidable.not_not] at h
  obtain ⟨hlen, rfl⟩ | ⟨hlen, h⟩ := h
  · simp only [streamFlush, hb, parseStream_eq, if_neg hlen]
  · simp only [streamFlush, hb, parseStream_eq, if_pos hlen]
    cases hn : streamOfCode (p.getD 0 0) <;> simp only [hn, refuses_iff, Option.some.injEq] at h
    case none => rw [h]
    case some n =>
      obtain ⟨hstate, rfl⟩ | ⟨-, h⟩ := h
      · simp only [if_pos hstate]
      · cases h

theorem streamStart_refused (hb : s.beginning .streamStart = some p) (h : s.refusal .streamStart p = some status) :
    streamStart tie s = (s.refuse status).begun tie := by
  simp only [State.refusal, RequestKind.wellLaid, refuses_iff, refuses_or, beq_eq_false_iff_ne, ne_eq,
    Decidable.not_not] at h
  obtain ⟨hlen, rfl⟩ | ⟨hlen, h⟩ := h
  · simp only [streamStart, hb, parseStream_eq, if_neg hlen]
  · simp only [streamStart, hb, parseStream_eq, if_pos hlen]
    cases hn : streamOfCode (p.getD 0 0) <;> simp only [hn, refuses_iff, Option.some.injEq] at h
    case none => rw [h]
    case some n =>
      obtain ⟨hinit, rfl⟩ | ⟨hinit, h⟩ := h
      · simp only [State.inInit_iff, if_pos hinit]
      · simp only [State.inInit_iff, if_neg hinit]
        by_cases hidle : (s.str n).state = .idle
        · rw [if_pos hidle] at h
          cases h
        · rw [if_neg hidle, Option.some.injEq] at h
          rw [if_pos hidle, h]

theorem StreamRec.unstarted_iff {x : StreamRec} : x.unstarted = true ↔ x.state = .disabled ∨ x.state = .idle := by
  simp [StreamRec.unstarted]

theorem StopKind.ofCode_none {b : Byte} : StopKind.ofCode b = none ↔ 1 < b.toNat := by
  revert b
  decide

theorem streamStop_refused (hb : s.beginning .streamStop = some p) (h : s.refusal .streamStop p = some status) :
    streamStop tie s = (s.refuse status).begun tie := by
  simp only [State.refusal, RequestKind.wellLaid, refuses_iff, beq_eq_false_iff_ne, ne_eq, Decidable.not_not] at h
  obtain ⟨hlen, rfl⟩ | ⟨hlen, h⟩ := h
  · simp only [streamStop, hb, parseStop_eq, if_neg hlen]
  · simp only [streamStop, hb, parseStop_eq, if_pos hlen]
    cases hn : streamOfCode (p.getD 0 0) <;> simp only [hn, refuses_iff, Option.some.injEq] at h
    case none => rw [h]
    case some n =>
      obtain ⟨hstate, rfl⟩ | ⟨hstate, ⟨hkind, rfl⟩ | ⟨-, h⟩⟩ := h
      · simp only [StreamRec.unstarted_iff, if_pos hstate]
      · simp only [StreamRec.unstarted_iff, if_neg hstate, StopKind.ofCode_none.2 hkind]
      · cases h

theorem SetupFields.decoded_none {f : SetupFields} :
    f.decoded = none ↔ 2 < f.direction.toNat ∨ 1 < f.policy.toNat ∨ 1 < f.cyclic.toNat := by
  have hdirection : ∀ b : Byte, Direction.ofCode b = none ↔ 2 < b.toNat := by decide
  have hpolicy : ∀ b : Byte, Policy.ofCode b = none ↔ 1 < b.toNat := by decide
  have hcyclic : ∀ b : Byte, cyclicOfCode b = none ↔ 1 < b.toNat := by decide
  rw [← hdirection, ← hpolicy, ← hcyclic, SetupFields.decoded]
  cases Direction.ofCode f.direction <;> cases Policy.ofCode f.policy <;> cases cyclicOfCode f.cyclic <;> simp

theorem streamSetup_refused (hb : s.beginning .streamSetup = some p) (h : s.refusal .streamSetup p = some status) :
    streamSetup tie s = (s.refuse status).begun tie := by
  simp only [State.refusal, RequestKind.wellLaid, refuses_iff, beq_eq_false_iff_ne, ne_eq, Decidable.not_not] at h
  obtain ⟨hlen, rfl⟩ | ⟨hlen, h⟩ := h
  · simp only [streamSetup, hb, parseSetup_eq, if_neg hlen]
  · simp only [streamSetup, hb, parseSetup_eq, if_pos hlen]
    cases hn : streamOfCode (p.getD 0 0) <;> simp only [hn, refuses_iff, Option.some.injEq] at h
    case none => rw [h]
    case some n =>
      obtain ⟨hstate, rfl⟩ | ⟨hstate, ⟨hfields, rfl⟩ | ⟨-, h⟩⟩ := h
      · have hstarted : (s.str n).unstarted = false := by simpa [StreamRec.unstarted] using hstate
        simp only [if_pos hstarted]
      · have hunstarted : ¬ (s.str n).unstarted = false := by
          simpa [StreamRec.unstarted, ← imp_iff_not_or] using hstate
        have hdecoded : (SetupFields.mk (p.getD 0 0) (p.getD 1 0) (p.getD 2 0) (cellOf (p.getD 3 0) (p.getD 4 0))
            (p.getD 5 0)).decoded = none := SetupFields.decoded_none.2 hfields
        simp only [if_neg hunstarted, hdecoded]
      · cases h

theorem parseAppend_isSome (p : List Byte) : (parseAppend p).isSome = RequestKind.streamAppend.wellLaid p := by
  match p with
  | [] => rfl
  | [b] => simp [parseAppend, RequestKind.wellLaid]
  | b :: n :: rest =>
    have hfill := parseSegments_isSome n.toNat rest
    by_cases hn : 1 ≤ n.toNat ∧ n.toNat ≤ 8 <;> simp [parseAppend, RequestKind.wellLaid, hn, hfill]

theorem parseAppend_stream {b : Byte} {gs : List Segment} (h : parseAppend p = some (b, gs)) : p.getD 0 0 = b := by
  match p with
  | [] | [_] => simp [parseAppend] at h
  | c :: n :: rest =>
    simp only [parseAppend, Option.ite_none_right_eq_some, Option.map_eq_some_iff] at h
    obtain ⟨-, gs', -, hpair⟩ := h
    cases hpair
    rfl

theorem streamAppend_refused (hb : s.beginning .streamAppend = some p) (h : s.refusal .streamAppend p = some status) :
    streamAppend tie s = (s.refuse status).begun tie := by
  simp only [State.refusal, refuses_iff, ← parseAppend_isSome, Option.isSome_eq_false_iff, Option.isNone_iff_eq_none] at h
  obtain ⟨hp, rfl⟩ | ⟨hp, h⟩ := h
  · simp only [streamAppend, hb, hp]
  · obtain ⟨⟨b, gs⟩, hp⟩ := Option.ne_none_iff_exists'.1 hp
    rw [parseAppend_stream hp, hp] at h
    simp only [streamAppend, hb, hp]
    cases hn : streamOfCode b <;> simp only [hn, refuses_iff, Option.some.injEq] at h
    case none => rw [h]
    case some n =>
      obtain ⟨hstate, rfl⟩ | ⟨hstate, ⟨hvalid, rfl⟩ | ⟨hvalid, ⟨hfull, rfl⟩ | ⟨-, h⟩⟩⟩ := h
      case inr.inr.inr => cases h
      all_goals simp only [Config.maxSegments, reduceCtorEq, if_true, if_false, *]

/-! ## CONFIGURE -/

theorem byte_lt_eight {a : Byte} (h : a.toNat < 8) :
    a = 0x00 ∨ a = 0x01 ∨ a = 0x02 ∨ a = 0x03 ∨ a = 0x04 ∨ a = 0x05 ∨ a = 0x06 ∨ a = 0x07 := by
  revert a
  decide

/-- The mode, where bit 0 of the presence byte marks it, and the mask, where bit 2 does, at the end (R177). -/
theorem parseConfigure_fields {f : ConfigureFields} (h : parseConfigure p = some f) :
    RequestKind.configure.wellLaid p = true
      ∧ f.mode = (if (p.getD 0 0).toNat % 2 = 1 then some (p.getD 1 0) else none)
      ∧ f.mask = if 4 ≤ (p.getD 0 0).toNat then some (cellOf (p.getD (p.length - 2) 0) (p.getD (p.length - 2 + 1) 0))
        else none := by
  unfold parseConfigure at h
  split at h <;> cases h <;> simp [RequestKind.wellLaid]

theorem parseConfigure_of_wellLaid (h : RequestKind.configure.wellLaid p = true) : parseConfigure p ≠ none := by
  simp only [RequestKind.wellLaid, decide_eq_true_eq] at h
  obtain ⟨hpresence, hlen⟩ := h
  cases p with
  | nil => simp at hlen
  | cons a rest =>
    obtain rfl | rfl | rfl | rfl | rfl | rfl | rfl | rfl := byte_lt_eight (a := a) (by simpa using hpresence)
    all_goals
      simp at hlen
      rcases rest with _ | ⟨b, _ | ⟨c, _ | ⟨d, _ | ⟨e, _ | ⟨f, _ | ⟨g, rest⟩⟩⟩⟩⟩⟩ <;>
        simp [parseConfigure] at hlen ⊢

theorem parseConfigure_isSome (p : List Byte) : (parseConfigure p).isSome = RequestKind.configure.wellLaid p := by
  rw [Bool.eq_iff_iff, Option.isSome_iff_ne_none]
  refine ⟨fun h => ?_, parseConfigure_of_wellLaid⟩
  obtain ⟨f, hf⟩ := Option.ne_none_iff_exists'.1 h
  exact (parseConfigure_fields hf).1

theorem RefreshMode.ofCode_isSome (b : Byte) : (RefreshMode.ofCode b).isSome = decide (b.toNat ≤ 1) := by
  revert b
  decide

theorem ConfigureFields.inRange_iff {f : ConfigureFields} :
    f.inRange = true ↔ (∀ b, f.mode = some b → b.toNat ≤ 1) ∧ ∀ m, f.mask = some m → m.toNat < 1024 := by
  unfold ConfigureFields.inRange
  cases f.mode <;> cases f.mask <;> simp [RefreshMode.ofCode_isSome]

theorem configure_refused (hb : s.beginning .configure = some p) (h : s.refusal .configure p = some status) :
    configure tie s = (s.refuse status).begun tie := by
  simp only [State.refusal, refuses_iff, ← parseConfigure_isSome, Option.isSome_eq_false_iff,
    Option.isNone_iff_eq_none] at h
  obtain ⟨hp, rfl⟩ | ⟨hp, ⟨hrange, rfl⟩ | ⟨-, h⟩⟩ := h
  · simp only [configure, hb, hp]
  · obtain ⟨f, hp⟩ := Option.ne_none_iff_exists'.1 hp
    obtain ⟨-, hmode, hmask⟩ := parseConfigure_fields hp
    have hout : ¬ f.inRange = true := fun hin => by
      obtain ⟨hmodes, hmasks⟩ := ConfigureFields.inRange_iff.1 hin
      obtain ⟨hpresent, hrange⟩ | ⟨hpresent, hrange⟩ := hrange
      · exact absurd (hmodes _ (hmode.trans (if_pos hpresent))) (by omega)
      · rw [← natOf_eq] at hrange
        exact absurd (hmasks _ (hmask.trans (if_pos hpresent))) (Nat.not_lt.2 hrange)
    simp only [configure, hb, hp, if_neg hout]
  · cases h

/-! ## The column requests -/

theorem byte_ge_two {o : Byte} (h0 : o ≠ 0x00) (h1 : o ≠ 0x01) : 2 ≤ o.toNat := by
  revert o
  decide

theorem parseWrite_isSome (p : List Byte) : (parseWrite p).isSome = RequestKind.write.wellLaid p := by
  match p with
  | [] | [_] | [_, _] | [_, _, _] => simp [parseWrite, RequestKind.wellLaid]
  | [_, _, _, _] =>
    simp [parseWrite, RequestKind.wellLaid]
    omega
  | k :: g :: f :: n :: o :: rest =>
    by_cases h0 : o = 0x00
    · subst h0
      simp [parseWrite, RequestKind.wellLaid, cellsOf_isSome]
      omega
    · by_cases h1 : o = 0x01
      · subst h1
        rcases rest with _ | ⟨a, _ | ⟨b, rest⟩⟩ <;> simp [parseWrite, RequestKind.wellLaid, cellsOf_isSome] <;> omega
      · have hoptions := byte_ge_two h0 h1
        have hnone : parseWrite (k :: g :: f :: n :: o :: rest) = none := by simp only [parseWrite, if_neg h0, if_neg h1]
        simp [hnone, RequestKind.wellLaid]
        omega

theorem parseExchange_isSome (p : List Byte) : (parseExchange p).isSome = RequestKind.exchange.wellLaid p := by
  match p with
  | [] | [_] | [_, _] | [_, _, _] => simp [parseExchange, RequestKind.wellLaid]
  | k :: g :: f :: n :: rest =>
    simp [parseExchange, RequestKind.wellLaid, cellsOf_isSome]
    omega

/-- The handle stands first, and the kind bounds the count (R132, R177). -/
def ColumnFields.readFrom (f : ColumnFields) (p : List Byte) (most : Nat) : Prop :=
  f.slot = p.getD 0 0 ∧ f.generation = p.getD 1 0 ∧ f.job.maxCount = most

theorem parseRead_fields {f : ColumnFields} (h : parseRead p = some f) : f.readFrom p 64 := by
  rw [parseRead_eq, Option.ite_none_right_eq_some, Option.some.injEq] at h
  obtain ⟨-, rfl⟩ := h
  exact ⟨rfl, rfl, rfl⟩

theorem parseWrite_fields {f : ColumnFields} (h : parseWrite p = some f) : f.readFrom p 64 := by
  match p with
  | [] | [_] | [_, _] | [_, _, _] | [_, _, _, _] => simp [parseWrite] at h
  | k :: g :: c :: n :: o :: rest =>
    simp only [parseWrite] at h
    split_ifs at h
    · obtain ⟨cs, -, rfl⟩ := Option.map_eq_some_iff.1 h
      exact ⟨rfl, rfl, rfl⟩
    · split at h
      · obtain ⟨cs, -, rfl⟩ := Option.map_eq_some_iff.1 h
        exact ⟨rfl, rfl, rfl⟩
      · cases h

theorem parseExchange_fields {f : ColumnFields} (h : parseExchange p = some f) : f.readFrom p 16 := by
  match p with
  | [] | [_] | [_, _] | [_, _, _] => simp [parseExchange] at h
  | k :: g :: c :: n :: rest =>
    obtain ⟨cs, -, rfl⟩ := Option.map_eq_some_iff.1 h
    exact ⟨rfl, rfl, rfl⟩

/-- A handle that names no session in use is refused (R132). -/
theorem State.columnRequest_noSession {f : ColumnFields} {most : Nat} (hf : f.readFrom p most)
    (h : s.findSession (p.getD 0 0) (p.getD 1 0) = none) : s.columnRequest f tie = (s.refuse .noSession).begun tie := by
  obtain ⟨hslot, hgeneration, -⟩ := hf
  simp only [State.columnRequest, hslot, hgeneration, h]

theorem read_refused (hb : s.beginning .read = some p) (h : s.refusal .read p = some status) (hne : status ≠ .range) :
    read tie s = (s.refuse status).begun tie := by
  simp only [State.refusal, RequestKind.wellLaid, refuses_iff, beq_eq_false_iff_ne, ne_eq, Decidable.not_not] at h
  obtain ⟨hlen, rfl⟩ | ⟨hlen, ⟨hnone, rfl⟩ | ⟨-, ⟨-, rfl⟩ | ⟨-, h⟩⟩⟩ := h
  case inr.inr.inl => exact absurd rfl hne
  case inr.inr.inr => cases h
  all_goals simp only [read, parseRead_eq, State.columnRequest, if_true, if_false, *]

theorem write_refused (hb : s.beginning .write = some p) (h : s.refusal .write p = some status) (hne : status ≠ .range) :
    write tie s = (s.refuse status).begun tie := by
  simp only [State.refusal, refuses_iff, ← parseWrite_isSome, Option.isSome_eq_false_iff, Option.isNone_iff_eq_none] at h
  obtain ⟨hp, rfl⟩ | ⟨hp, ⟨hnone, rfl⟩ | ⟨-, ⟨-, rfl⟩ | ⟨-, h⟩⟩⟩ := h
  case inr.inr.inl => exact absurd rfl hne
  case inr.inr.inr => cases h
  · simp only [write, hb, hp]
  · obtain ⟨f, hp⟩ := Option.ne_none_iff_exists'.1 hp
    simp only [write, hb, hp]
    exact State.columnRequest_noSession tie (parseWrite_fields hp) hnone

theorem exchange_refused (hb : s.beginning .exchange = some p) (h : s.refusal .exchange p = some status)
    (hne : status ≠ .range) : exchange tie s = (s.refuse status).begun tie := by
  simp only [State.refusal, refuses_iff, ← parseExchange_isSome, Option.isSome_eq_false_iff,
    Option.isNone_iff_eq_none] at h
  obtain ⟨hp, rfl⟩ | ⟨hp, ⟨hnone, rfl⟩ | ⟨-, ⟨-, rfl⟩ | ⟨-, h⟩⟩⟩ := h
  case inr.inr.inl => exact absurd rfl hne
  case inr.inr.inr => cases h
  · simp only [exchange, hb, hp]
  · obtain ⟨f, hp⟩ := Option.ne_none_iff_exists'.1 hp
    simp only [exchange, hb, hp]
    exact State.columnRequest_noSession tie (parseExchange_fields hp) hnone

/-! ## The obligation -/

theorem RequestKind.run_refused {k : RequestKind} {i : Instr} (dt : Nat) (hi : k.command dt tie = some i)
    (hb : s.beginning k = some p) (h : s.refusal k p = some status) (hne : k.isColumn = true → status ≠ .range) :
    i.wellFormed = true ∧ i.elapsed = dt ∧ i.run s = (s.refuse status).begun tie := by
  cases k <;> cases hi
  case identify => exact ⟨rfl, rfl, identify_refused tie hb h⟩
  case status => exact ⟨rfl, rfl, status_refused tie hb h⟩
  case configure => exact ⟨rfl, rfl, configure_refused tie hb h⟩
  case openRow => exact ⟨rfl, rfl, openRow_refused tie hb h⟩
  case close => exact ⟨rfl, rfl, close_refused tie hb h⟩
  case read => exact ⟨rfl, rfl, read_refused tie hb h (hne rfl)⟩
  case write => exact ⟨rfl, rfl, write_refused tie hb h (hne rfl)⟩
  case exchange => exact ⟨rfl, rfl, exchange_refused tie hb h (hne rfl)⟩
  case fillRows => exact ⟨rfl, rfl, fillRows_refused tie hb h⟩
  case copyRow => exact ⟨rfl, rfl, copyRow_refused tie hb h⟩
  case refresh => exact ⟨rfl, rfl, refresh_refused tie hb h⟩
  case rowQuery => exact ⟨rfl, rfl, rowQuery_refused tie hb h⟩
  case streamSetup => exact ⟨rfl, rfl, streamSetup_refused tie hb h⟩
  case streamAppend => exact ⟨rfl, rfl, streamAppend_refused tie hb h⟩
  case streamStart => exact ⟨rfl, rfl, streamStart_refused tie hb h⟩
  case streamStop => exact ⟨rfl, rfl, streamStop_refused tie hb h⟩
  case streamFlush => exact ⟨rfl, rfl, streamFlush_refused tie hb h⟩
  case streamQuery => exact ⟨rfl, rfl, streamQuery_refused tie hb h⟩

/-- Settles O31: the check that fails is the branch that refuses, and a refusal is a reply and no more. -/
theorem refusedRequestOnlyAnswers : Obligations.RefusedRequestOnlyAnswers := by
  intro s dt tie i tag k payload rest status h hi hrefused hne
  obtain ⟨hwf, helapsed, hrun⟩ :=
    RequestKind.run_refused (s := s.advance dt) tie dt hi (State.beginning_of_heads dt h) hrefused hne
  refine completes_of_run s hwf ?_
  rw [helapsed, hrun]
  exact State.answered dt tie h status 0 []

end Sys2Proof.Machine
end

section
/-! PROOF. The beginning of READ, WRITE and EXCHANGE (R132, R135, R136, R139): RANGE, the burst, or the reopen. -/

namespace Sys2Proof.Machine

variable {s t u : State} {k : SlotId} {job : ColumnJob} (dt : Nat) (tie : TieOrder)

theorem State.slotsKept.trans (h : s.slotsKept t) (h' : t.slotsKept u) : s.slotsKept u := fun q => by rw [h' q, h q]

/-! ## The request -/

/-- The request with its fields read, on a session in use. -/
theorem columnRequest_of_heads {tag : Byte} {kind : RequestKind} {payload : List Byte} {rest : List Request}
    {f : ColumnFields} {i : Instr} (h : s.heads tag kind payload rest) (hi : kind.command dt tie = some i)
    (hf : Request.columnFields ⟨tag, kind, payload⟩ = some f) :
    i.wellFormed = true ∧ i.run (s.advance i.elapsed) = (s.advance dt).columnRequest f tie
      ∧ f.job.maxCount = if kind = .exchange then 16 else 64 := by
  have hb := State.beginning_of_heads dt h
  cases kind <;> cases hi
  case read =>
    have hf : parseRead payload = some f := hf
    obtain ⟨-, -, hmost⟩ := parseRead_fields hf
    exact ⟨rfl, by simp only [Instr.run, Instr.elapsed, read, hb, hf], hmost⟩
  case write =>
    have hf : parseWrite payload = some f := hf
    obtain ⟨-, -, hmost⟩ := parseWrite_fields hf
    exact ⟨rfl, by simp only [Instr.run, Instr.elapsed, write, hb, hf], hmost⟩
  case exchange =>
    have hf : parseExchange payload = some f := hf
    obtain ⟨-, -, hmost⟩ := parseExchange_fields hf
    exact ⟨rfl, by simp only [Instr.run, Instr.elapsed, exchange, hb, hf], hmost⟩
  all_goals cases hf

theorem ColumnJob.inRange_eq_false {most : Nat} (hmost : job.maxCount = most) :
    job.inRange = false ↔ job.count = 0 ∨ most < job.count ∨ 256 < job.first + job.count := by
  simp only [ColumnJob.inRange, hmost, Config.columns, decide_eq_false_iff_not]
  omega

/-! ## The reopen (R43, R132) -/

/-- The row of the parked session is claimed; a held row is closed before or after. -/
theorem State.reopen_spec :
    (s.reopen k job tie).hasClaim ⟨.openRow, (s.slot k).row, .requestEngine, .host⟩
      ∧ (s.reopen k job tie).rqe = { s.rqe with phase := .reopening k job }
      ∧ s.slotsKept (s.reopen k job tie) ∧ s.registersKept (s.reopen k job tie)
      ∧ (∀ row, s.arb.circuit = .held k row → ((s.reopen k job tie).slot k).state = .parked)
      ∧ ∀ q row, (s.reopen k job tie).arb.circuit ≠ .held q row := by
  have hclosed : s.slotsKept s.closeHeld := fun q => s.closeHeld_slot q
  have hregs : s.registersKept s.closeHeld := fun r => by simp
  cases tie with
  | closeFirst =>
    have hslots : s.slotsKept s.closeHeld.settle := hclosed.trans fun q => s.closeHeld.settle_slot q
    refine ⟨?_, by simp [State.reopen, State.raiseReopen], ?_, ?_, fun row hcirc => ?_, ?_⟩
    · have hrow : (s.closeHeld.settle.slot k).row = (s.slot k).row := by rw [hslots k]
      rw [← hrow, State.reopen, State.settle_hasClaim]
      exact State.raiseClaim_hasClaim _ _
    · exact hslots.trans (State.settle_slotsKept fun q => rfl)
    · exact (hregs.trans fun r => s.closeHeld.settle_lr r).trans (State.settle_registersKept fun r => rfl)
    · exact State.settle_parked _ (State.settle_parked _ (s.closeHeld_slot_held hcirc))
    · exact State.settle_not_held _ (State.settle_not_held _ fun q row => s.closeHeld_not_held q row)
  | raiseFirst =>
    refine ⟨?_, by simp [State.reopen, State.raiseReopen], ?_, ?_, fun row hcirc => ?_, ?_⟩
    · exact (State.settle_hasClaim _ _).2 (State.closeHeld_hasClaim.2 (State.raiseClaim_hasClaim _ _))
    · exact State.slotsKept.trans (fun q => (s.raiseReopen k job).closeHeld_slot q) (State.settle_slotsKept fun q => rfl)
    · exact State.settle_registersKept fun r => by simp
    · exact State.settle_parked _ ((s.raiseReopen k job).closeHeld_slot_held hcirc)
    · exact State.settle_not_held _ fun q row => (s.raiseReopen k job).closeHeld_not_held q row

/-- The end of a request answered at once (R135): the arbiter acts, or the next request is begun. -/
theorem State.concluded (ht : t = u.conclude tie ∨ t = u.begun tie) :
    u.onlyArbiterActs t ∧ t.rqe = u.rqe ∧ t.hlc = u.hlc ∧ t.clock = u.clock ∧ ∀ c, t.hasClaim c ↔ u.hasClaim c := by
  obtain rfl | rfl := ht
  · refine ⟨⟨by simp [State.blocksKept, State.cellsKept], fun r => u.conclude_lr tie r, fun k => u.conclude_slot tie k⟩,
      by simp, by simp, by simp, fun c => ?_⟩
    rw [State.hasClaim, State.conclude_holdsClaim, State.hasClaim]
  · exact ⟨u.begun_onlyArbiterActs tie, by simp, by simp, by simp, fun c => u.begun_hasClaim tie c⟩

/-! ## RANGE (R132, R139) -/

section Range

variable {tag : Byte} {kind : RequestKind} {payload : List Byte} {rest : List Request}

/-- The reply of RANGE, with the session's idle timer restarted (R139). -/
def State.rangeAnswered (s : State) (k : SlotId) : State :=
  ((s.stopIdle k).refuse .range).restartIdle k

theorem State.rangeAnswered_slot (q : SlotId) : (s.rangeAnswered k).slot q =
    if q = k then { s.slot k with idleTimer := some s.clock } else s.slot q := by
  unfold State.rangeAnswered State.restartIdle State.stopIdle
  rw [State.slot_setSlot]
  split <;> simp [State.refuse, State.slot_setSlot, *]

theorem State.rangeAnswered_spec (h : s.heads tag kind payload rest) :
    s.answers (s.rangeAnswered k) tag rest .range 0 [] ∧ s.blocksKept (s.rangeAnswered k)
      ∧ s.registersKept (s.rangeAnswered k) ∧ (s.rangeAnswered k).arb = s.arb
      ∧ (s.rangeAnswered k).clock = s.clock := by
  obtain ⟨-, -, hqueue⟩ := h
  have hqueue' : (s.stopIdle k).rqe.queue = ⟨tag, kind, payload⟩ :: rest := by simpa using hqueue
  have hspec : (s.stopIdle k).refuse .range = _ := State.finish_spec _ .range 0 [] hqueue'
  rw [State.rangeAnswered, hspec]
  exact ⟨⟨rfl, rfl⟩, ⟨rfl, fun _ _ => rfl, rfl, rfl, rfl, rfl, rfl⟩, fun _ => rfl, rfl, rfl⟩

/-- The row held for the session stays held for its next column request (R135). -/
theorem State.rangeAnswered_stays (h : s.heads tag kind payload rest) {row : Nat}
    (hcirc : s.arb.circuit = .held k row) (hclaims : s.arb.claims = []) (hnext : s.columnNext k rest = true) :
    (s.rangeAnswered k).conclude tie = s.rangeAnswered k := by
  obtain ⟨hanswers, -, -, harb, -⟩ := State.rangeAnswered_spec (k := k) h
  have hqueue : (s.rangeAnswered k).rqe.queue = rest := by rw [hanswers.1]
  have hphase : (s.rangeAnswered k).rqe.phase = .free := by rw [hanswers.1]
  have hon : (s.rangeAnswered k).nextIsOn k = true := by
    rw [State.nextIsOn_eq (s := s) hqueue fun q => ?_, hnext]
    rw [State.rangeAnswered_slot]
    split <;> simp [*]
  have hquiet : (s.rangeAnswered k).preempting = false := by simp [State.preempting, harb, hclaims]
  rw [State.conclude_held tie (by rw [harb, hcirc]) hphase, if_pos]
  simp [State.rowStays, hon, hquiet]

end Range

/-! ## The three outcomes (R132) -/

section Outcome

variable {f : ColumnFields} (hk : s.findSession f.slot f.generation = some k)
include hk

theorem columnRequest_range (hr : f.job.inRange = false) :
    (s.columnRequest f tie = (s.rangeAnswered k).conclude tie ∨ s.columnRequest f tie = (s.rangeAnswered k).begun tie)
      ∧ ∀ row, s.arb.circuit = .held k row → s.columnRequest f tie = (s.rangeAnswered k).conclude tie := by
  simp only [State.columnRequest, hk, hr, if_true]
  split
  · next k' row hcirc =>
    split
    · exact ⟨.inl rfl, fun _ _ => rfl⟩
    · next hne => exact ⟨.inr rfl, fun row' h => absurd (by rw [hcirc] at h; cases h; rfl) hne⟩
  · next hfree => exact ⟨.inr rfl, fun row h => absurd h (hfree k row)⟩

theorem columnRequest_bursts {row : Nat} (hr : f.job.inRange = true) (hcirc : s.arb.circuit = .held k row)
    (hlimit : s.withinOpenLimit k f.job = true) :
    s.columnRequest f tie = (s.stopIdle k).startBurst k row f.job := by
  simp [State.columnRequest, hk, hr, hcirc, hlimit]

theorem columnRequest_reopens (hr : f.job.inRange = true)
    (hnot : ∀ row, s.arb.circuit = .held k row → s.withinOpenLimit k f.job = false) :
    ∃ order, s.columnRequest f tie = (s.stopIdle k).reopen k f.job order := by
  simp only [State.columnRequest, hk, hr, Bool.true_eq_false, if_false]
  split
  · next k' row hcirc =>
    split
    · next hkk =>
      subst hkk
      rw [hnot row hcirc]
      exact ⟨tie, rfl⟩
    · exact ⟨.raiseFirst, rfl⟩
  · exact ⟨.raiseFirst, rfl⟩

end Outcome

/-! ## The obligation -/

theorem State.stopIdle_slot (s : State) (k q : SlotId) :
    (s.stopIdle k).slot q = if q = k then { s.slot k with idleTimer := none } else s.slot q :=
  State.slot_setSlot ..

theorem State.reopens_of_stopIdle :
    s.reopens ((s.stopIdle k).reopen k job tie) k job
      ∧ (∀ q, q ≠ k → ((s.stopIdle k).reopen k job tie).slot q =
        { s.slot q with state := (((s.stopIdle k).reopen k job tie).slot q).state })
      ∧ s.registersKept ((s.stopIdle k).reopen k job tie) := by
  obtain ⟨hclaim, hrqe, hslots, hregs, hparked, hnot⟩ := (s.stopIdle k).reopen_spec (k := k) (job := job) tie
  have hk := hslots k
  rw [State.stopIdle_slot, if_pos rfl] at hk
  have hrow : ((s.stopIdle k).slot k).row = (s.slot k).row := by rw [State.stopIdle_slot, if_pos rfl]
  rw [hrow] at hclaim
  refine ⟨⟨hclaim, by simpa using hrqe, hk, fun row hcirc => hparked row (by simpa using hcirc), hnot⟩, fun q hq => ?_,
    fun r => by simpa using hregs r⟩
  have hq' := hslots q
  rwa [State.stopIdle_slot, if_neg hq] at hq'

/-- Settles O32: the three outcomes of the request, each with its slot and the arbiter's act. -/
theorem columnRequestBurstsOrReopens : Obligations.ColumnRequestBurstsOrReopens := by
  intro s dt tie i tag kind payload rest f k h hi hf hslot huse hgen
  obtain ⟨hwf, hrun, hmost⟩ := columnRequest_of_heads dt tie h hi hf
  have hk : (s.advance dt).findSession f.slot f.generation = some k :=
    State.findSession_eq (s := s.advance dt) hslot huse hgen
  refine completes_of_run s hwf ?_
  rw [hrun]
  intro most
  by_cases hrange : f.job.inRange = false
  · rw [if_pos ((ColumnJob.inRange_eq_false hmost).1 hrange)]
    obtain ⟨hend, hheld⟩ := columnRequest_range tie hk hrange
    obtain ⟨⟨hblocks, hregs, hslots⟩, hrqe, hhlc, hclock, hclaims⟩ := State.concluded tie hend
    obtain ⟨⟨hrqe', hhlc'⟩, hblocks', hregs', harb, hclock'⟩ := State.rangeAnswered_spec (s := s.advance dt) (k := k) h
    have hslot' : ∀ q, _ := fun q => (s.advance dt).rangeAnswered_slot (k := k) q
    rw [hclock, hclock'] 
    refine ⟨fun q hq => ?_, hblocks'.trans hblocks, hregs'.trans hregs, ⟨hrqe.trans hrqe', hhlc.trans hhlc'⟩, ?_,
      fun c hc => ?_, fun row hcirc hnone hnext => ?_⟩
    · have hq' := hslots q
      rwa [hslot', if_neg hq] at hq'
    · have hk' := hslots k
      rwa [hslot', if_pos rfl] at hk'
    · exact (State.hasClaim_congr (t := (s.advance dt).rangeAnswered k) harb c).1 ((hclaims c).1 hc)
    · rw [hheld row hcirc, State.rangeAnswered_stays (s := s.advance dt) tie h hcirc hnone hnext]
      exact ⟨harb, (hslot' k).trans (if_pos rfl)⟩
  · rw [if_neg ((ColumnJob.inRange_eq_false hmost).not.1 hrange)]
    have hin : f.job.inRange = true := by simpa using hrange
    by_cases hburst : (∃ row, s.arb.circuit = .held k row) ∧ (s.advance dt).withinOpenLimit k f.job = true
    · obtain ⟨⟨row, hcirc⟩, hlimit⟩ := hburst
      rw [columnRequest_bursts (s := s.advance dt) tie hk hin hcirc hlimit]
      have hstarts : decide (s.clock + dt - (s.slot k).holdStart + f.job.count * 40 ≤ 10000) = true := hlimit
      refine ⟨fun q hq => ?_, by simp [State.blocksKept, State.cellsKept], fun r => by simp, by simp, ?_⟩
      · simp [State.stopIdle_slot, hq]
      · rw [hcirc]
        dsimp only
        rw [hstarts]
        dsimp only
        rw [if_pos rfl]
        refine ⟨by simp [State.startBurst], ?_, by simp [State.startBurst], by simp⟩
        simp [State.stopIdle_slot]
    · obtain ⟨order, ht⟩ := columnRequest_reopens (s := s.advance dt) tie hk hin fun row hcirc =>
        Bool.eq_false_iff.2 fun hlimit => hburst ⟨⟨row, hcirc⟩, hlimit⟩
      obtain ⟨hreopens, hslots, hregs⟩ := State.reopens_of_stopIdle (s := s.advance dt) (k := k) (job := f.job) order
      rw [ht]
      refine ⟨hslots, by simp [State.blocksKept, State.cellsKept], hregs, by simp, ?_⟩
      dsimp only
      split
      · next k' row hcirc hstarts =>
        split
        · next hkk =>
          subst hkk
          exact absurd ⟨⟨row, hcirc⟩, hstarts⟩ hburst
        · exact hreopens
      · exact hreopens

end Sys2Proof.Machine
end

section
/-! PROOF. Edges that move no cell (R81, R111, R120, R124; log entry 20), and the hold expiry of a playback register
(R63, R93). -/

namespace Sys2Proof.Machine

variable {s : State} {n : StreamId} (dt : Nat)

/-! ## Edges that change the record alone -/

/-- An edge that changes one record, and then the arbiter's act. -/
theorem State.recordChanged (f : StreamRec → StreamRec) :
    let t := ((s.advance dt).mapStr n f).settle
    t.str n = f (s.str n) ∧ t.str (otherStream n) = s.str (otherStream n) ∧ s.othersKept t ∧ s.registersKept t
      ∧ t.rqe = s.rqe ∧ t.hlc = s.hlc := by
  intro t
  refine ⟨by simp [t, State.mapStr_str], by simp [t, State.mapStr_str, otherStream_ne], ?_,
    State.settle_registersKept fun r => by simp, by simp [t], by simp [t]⟩
  exact ⟨by simp [t], fun _ _ => by simp [t], by simp [t], by simp [t], State.settle_slotsKept fun k => by simp,
    by simp [t], by simp [t]⟩

theorem playbackEdge_of_live (hlive : s.live = true) (hd : (s.str n).direction = .playback) :
    playbackEdge n s = (s.playEdge n).settle :=
  if_pos ⟨hlive, hd⟩

theorem captureEdge_of_live (cell : CellVal) (hlive : s.live = true) (hd : (s.str n).direction = .capture) :
    captureEdge n cell s = (s.capEdge n cell).settle :=
  if_pos ⟨hlive, hd⟩

theorem playbackEdge_other (hd : (s.str n).direction ≠ .playback) : playbackEdge n s = s :=
  if_neg fun h => hd h.2

theorem captureEdge_other (cell : CellVal) (hd : (s.str n).direction ≠ .capture) : captureEdge n cell s = s :=
  if_neg fun h => hd h.2

/-- The fill value driven and counted (R81). -/
def StreamRec.filled (x : StreamRec) : StreamRec :=
  { x.outputFill with counters := { x.counters with fillCells := satAdd x.counters.fillCells 1 } }

theorem State.playEdge_fill (h : (s.str n).state = .priming ∨ (s.str n).state = .drained ∨ (s.str n).state = .stopping) :
    s.playEdge n = s.mapStr n StreamRec.filled := by
  have hedge : s.playEdge n = (s.mapStr n StreamRec.outputFill).count n fun c =>
      { c with fillCells := satAdd c.fillCells 1 } := by
    obtain h | h | h := h <;> simp only [State.playEdge, h]
  rw [hedge]
  cases n <;> rfl

theorem State.capEdge_discard (cell : CellVal) (h : (s.str n).state = .drained ∨ (s.str n).state = .stopping) :
    s.capEdge n cell = s.mapStr n fun x => { x with
      counters := { x.counters with discarded := satAdd x.counters.discarded 1 } } := by
  obtain h | h := h <;> simp only [State.capEdge, h] <;> rfl

theorem State.edges_idle (cell : CellVal) (h : (s.str n).state = .idle ∨ (s.str n).state = .disabled) :
    s.playEdge n = s ∧ s.capEdge n cell = s := by
  obtain h | h := h <;> simp only [State.playEdge, State.capEdge, h, and_self]

theorem State.mapStr_id (s : State) (n : StreamId) : s.mapStr n id = s := by
  cases n <;> rfl

theorem State.mapStr_congr {f g : StreamRec → StreamRec} (h : f (s.str n) = g (s.str n)) :
    s.mapStr n f = s.mapStr n g := by
  rw [State.mapStr, h, State.mapStr]

theorem State.mapStr_of_fixed {f : StreamRec → StreamRec} (h : f (s.str n) = s.str n) : s.mapStr n f = s :=
  (State.mapStr_congr (g := id) h).trans (s.mapStr_id n)

theorem Completes.mono {i : Instr} {φ ψ : State → Prop} (h : Completes i s φ) (hφ : ∀ t, φ t → ψ t) :
    Completes i s ψ := by
  obtain ⟨t, ht, hφt⟩ := h
  exact ⟨t, ht, hφ t hφt⟩

/-- Settles O44: the edge's branch is the state's, and it changes the record alone. -/
theorem edgesThatMoveNoCell : Obligations.EdgesThatMoveNoCell := by
  intro s dt n cell hlive x kept
  have hplay : ∀ f, (s.advance dt).playEdge n = (s.advance dt).mapStr n f → x.direction = .playback →
      Completes (.playbackEdge dt n) s fun t => t.str n = f x ∧ kept t := fun f hf hd => by
    refine completes_of_run s (i := .playbackEdge dt n) rfl ?_
    simp only [Instr.run, Instr.elapsed]
    rw [playbackEdge_of_live (s := s.advance dt) hlive hd, hf]
    exact State.recordChanged dt f
  have hcap : ∀ f, (s.advance dt).capEdge n cell = (s.advance dt).mapStr n f → x.direction = .capture →
      Completes (.captureEdge dt n cell) s fun t => t.str n = f x ∧ kept t := fun f hf hd => by
    refine completes_of_run s (i := .captureEdge dt n cell) rfl ?_
    simp only [Instr.run, Instr.elapsed]
    rw [captureEdge_of_live (s := s.advance dt) cell hlive hd, hf]
    exact State.recordChanged dt f
  have hplay' : x.direction ≠ .playback → Completes (.playbackEdge dt n) s fun t => t = s.advance dt := fun hd =>
    completes_of_run s (i := .playbackEdge dt n) rfl (playbackEdge_other (s := s.advance dt) hd)
  have hcap' : x.direction ≠ .capture → Completes (.captureEdge dt n cell) s fun t => t = s.advance dt := fun hd =>
    completes_of_run s (i := .captureEdge dt n cell) rfl (captureEdge_other (s := s.advance dt) cell hd)
  refine ⟨fun hd h => ?_, fun hd h => ?_, fun h => ⟨?_, ?_⟩, hplay', hcap'⟩
  · exact hplay _ (State.playEdge_fill (s := s.advance dt) h) hd
  · exact hcap _ (State.capEdge_discard (s := s.advance dt) cell h) hd
  all_goals
    obtain ⟨hp, hc⟩ := State.edges_idle (s := s.advance dt) cell h
    have hsame : (s.advance dt).str n = x ∧ kept (s.advance dt) :=
      ⟨rfl, rfl, ⟨rfl, fun _ _ => rfl, rfl, rfl, fun _ => rfl, rfl, rfl⟩, fun _ => rfl, rfl, rfl⟩
  · by_cases hd : x.direction = .playback
    · exact hplay id (hp.trans (State.mapStr_id _ n).symm) hd
    · exact (hplay' hd).mono fun t ht => ht ▸ hsame
  · by_cases hd : x.direction = .capture
    · exact hcap id (hc.trans (State.mapStr_id _ n).symm) hd
    · exact (hcap' hd).mono fun t ht => ht ▸ hsame

/-! ## The hold expiry of a playback register (R63, R93) -/

section Expiry

variable {r : LrId} {g : Segment} {start : Nat}

/-- What the end of an event does with a register: nothing, or the passing of one of its claims (R46). -/
theorem State.settle_lr_cases (s : State) (r : LrId) :
    s.settle.lr r = s.lr r
      ∨ ∃ c ∈ s.arb.claims, c.isOf r = true ∧ s.settle.lr r = (s.lr r).granted c.kind := by
  obtain e | ⟨_, e | ⟨c, hc, e⟩⟩ := s.settle_cases
  · exact .inl (by rw [e])
  · exact .inl (by rw [e]; simp)
  · rw [e, (State.grant_spec _ c).2.2]
    split
    · next hr => exact .inr ⟨c, hc, by simp [Claim.isOf, hr], by simp⟩
    · exact .inl (by simp)

theorem playbackHoldExpiry_of_expired (hlive : s.live = true) (hn : streamOf r = some n)
    (hg : (s.lr r).segment = some g) (hd : (s.str n).direction = .playback) (htimer : (s.lr r).holdTimer = some start)
    (htime : start + 50000 ≤ s.clock) (hst : (s.lr r).state = .loaded ∨ (s.lr r).state = .active) :
    playbackHoldExpiry r s = (s.playExpiry n r g).settle := by
  have hexpired : s.holdExpired r = true := by
    simpa [State.holdExpired, htimer, State.elapsed, Config.holdLimit] using htime
  simp only [playbackHoldExpiry, hn, hg]
  exact if_pos ⟨hlive, hd, hexpired, hst⟩

/-- The register is STALE with its reload claimed, and PRIMING comes back where it was the current one of a stream in
READY (R93). -/
theorem State.playExpiry_eq (s : State) (n : StreamId) (r : LrId) (g : Segment) :
    s.playExpiry n r g =
      ((s.mapLr r fun x => { x with state := .stale, holdTimer := none, reloading := true }).raiseClaim
        ⟨.load, g.row, .register r, .stream⟩).mapStr n fun x =>
          { x with state := if x.state = .ready ∧ s.playCurrent n = some r then .priming else x.state } := by
  simp only [State.playExpiry, beq_iff_eq]
  by_cases h : (s.str n).state = .ready ∧ s.playCurrent n = some r
  · rw [if_pos h]
    exact State.mapStr_congr (by simp [h])
  · rw [if_neg h]
    exact (State.mapStr_of_fixed (by simp [h])).symm

/-- Settles O47: the expiry, then a grant that can only pass the register's own reload. -/
theorem playbackHoldExpiryReloads : Obligations.PlaybackHoldExpiryReloads := by
  intro s dt start r n g hlive hn hg hd htimer htime hst hidle
  have hwf : (Instr.playbackHoldExpiry dt r).wellFormed = true := by simp [Instr.wellFormed, isStream_eq, hn]
  refine completes_of_run s hwf ?_
  simp only [Instr.run, Instr.elapsed]
  rw [playbackHoldExpiry_of_expired (s := s.advance dt) hlive hn hg hd htimer htime hst, State.playExpiry_eq]
  generalize hu : State.mapStr _ n _ = u
  have hlr : ∀ q, u.lr q = if q = r then { s.lr r with state := .stale, holdTimer := none, reloading := true }
      else s.lr q := fun q => by
    rw [← hu]
    simp [State.mapLr]
  have hclaims : u.arb.claims = s.arb.claims ++ [⟨.load, g.row, .register r, .stream⟩] := by
    rw [← hu]
    simp [State.mapLr]
  have hself := hlr r
  rw [if_pos rfl] at hself
  have hpassed : u.settle.lr r = u.lr r ∨ u.settle.lr r = { u.lr r with state := .loading } := by
    obtain e | ⟨c, hc, hcr, e⟩ := u.settle_lr_cases r
    · exact .inl e
    · rw [hclaims, List.mem_append, List.mem_singleton] at hc
      obtain hc | rfl := hc
      · exact absurd hcr (List.any_eq_false.1 hidle c hc)
      · exact .inr e
  refine ⟨?_, ?_, ?_, ?_, ?_, fun q hq => ?_, ?_, ?_, ?_⟩
  · obtain e | e := hpassed <;> rw [e, hself]
    · exact .inl rfl
    · exact .inr rfl
  · obtain e | e := hpassed <;> rw [e, hself]
  · exact (State.settle_hasClaim _ _).2 (State.hasClaim_of_mem _ (by simp [hclaims]))
  · have hcurrent : (s.advance dt).playCurrent n = s.playCurrent n := rfl
    simp [← hu, State.mapStr_str, hcurrent]
  · simp [← hu, State.mapStr_str, otherStream_ne]
  · have hq' := hlr q
    rw [if_neg hq] at hq'
    rw [State.granted, ← hq']
    exact u.settle_lr q
  · subst hu
    exact ⟨by simp, fun _ _ => by simp, by simp, by simp, State.settle_slotsKept fun k => by simp, by simp, by simp⟩
  · simp [← hu]
  · simp [← hu]

end Expiry

end Sys2Proof.Machine
end

section
/-! PROOF. The two ends of every stream event: what a stream engine leaves unchanged, whatever it does, and the
arbiter's acts after it (R43, R46, R48). -/

namespace Sys2Proof.Machine

variable {s t u v : State} {r : LrId} {n : StreamId}

/-! ## A stream engine's acts -/

theorem State.mapStr_mapStr (f g : StreamRec → StreamRec) : (s.mapStr n f).mapStr n g = s.mapStr n fun x => g (f x) := by
  cases n <;> rfl

/-- What no stream engine changes. -/
structure State.engineActs (u v : State) : Prop where
  rat : v.rat = u.rat
  rfe : v.rfe = u.rfe
  sst : v.sst = u.sst
  powered : v.powered = u.powered
  hrst : v.hrst = u.hrst
  circuit : v.arb.circuit = u.arb.circuit

theorem State.engineActs.refl (u : State) : u.engineActs u :=
  ⟨rfl, rfl, rfl, rfl, rfl, rfl⟩

theorem State.engineActs.advance (u : State) (dt : Nat) : u.engineActs (u.advance dt) :=
  ⟨rfl, rfl, rfl, rfl, rfl, rfl⟩

theorem State.engineClosed (u : State) : StreamClosed u.engineActs where
  setStr _ _ h := ⟨by simp [h.rat], by simp [h.rfe], by simp [h.sst], by simp [h.powered],
    by simp [h.hrst], by simp [h.circuit]⟩
  setLr _ _ h := ⟨by simp [h.rat], by simp [h.rfe], by simp [h.sst], by simp [h.powered],
    by simp [h.hrst], by simp [h.circuit]⟩
  report _ h := ⟨by simp [h.rat], by simp [h.rfe], by simp [h.sst], by simp [h.powered],
    by simp [h.hrst], by simp [h.circuit]⟩
  finish _ h := ⟨by simp [h.rat], by simp [h.rfe], by simp [h.sst], by simp [h.powered],
    by simp [h.hrst], by simp [h.circuit]⟩
  raise _ _ _ h := ⟨h.rat, h.rfe, h.sst, h.powered, h.hrst, h.circuit⟩
  withdraw _ h := ⟨h.rat, h.rfe, h.sst, h.powered, h.hrst, h.circuit⟩

theorem State.engineActs.inFlight (h : u.engineActs v) : v.inFlight = u.inFlight := by
  rw [State.inFlight, h.circuit, State.inFlight]

theorem State.engineActs.operationKind (h : u.engineActs v) : v.operationKind r = u.operationKind r := by
  rw [State.operationKind, h.inFlight, State.operationKind]

theorem State.engineActs.cellsKept (h : u.engineActs v) : u.cellsKept v := fun row col => by rw [h.rat]

theorem State.engineActs.slot (h : u.engineActs v) (k : SlotId) : v.slot k = u.slot k := by
  rw [State.slot, h.sst]
  rfl

/-! ## The arbiter's acts -/

/-- A grant would leave the register as it is. -/
def State.steady (v : State) (r : LrId) : Prop :=
  ∀ c ∈ v.arb.claims, c.register? = some r → (v.lr r).granted c.kind = v.lr r

theorem State.steady_of_idle (h : v.claimPending r = false) : v.steady r := fun c hc hr =>
  absurd (by simp [Claim.isOf, hr]) (List.any_eq_false.1 h c hc)

/-- The state after the arbiter's acts at the end of an event, the request engine and the outbound queue left aside. -/
structure State.actedOn (v t : State) : Prop where
  clock : t.clock = v.clock
  rat : t.rat = v.rat
  rfe : t.rfe = v.rfe
  ste : t.ste = v.ste
  ntu : t.ntu = v.ntu
  powered : t.powered = v.powered
  hrst : t.hrst = v.hrst
  regs : v.registersKept t
  passes : ∀ r, t.lr r = v.lr r ∨ ∃ c ∈ v.arb.claims, c.register? = some r ∧ t.lr r = (v.lr r).granted c.kind
  slots : v.slotsKept t
  claims : ∀ c, t.hasClaim c ↔ v.hasClaim c

theorem State.settle_passes (v : State) (r : LrId) : v.settle.lr r = v.lr r
    ∨ ∃ c ∈ v.arb.claims, c.register? = some r ∧ v.settle.lr r = (v.lr r).granted c.kind := by
  obtain e | ⟨c, hc, hr, e⟩ := v.settle_lr_cases r
  · exact .inl e
  · exact .inr ⟨c, hc, by simpa [Claim.isOf] using hr, e⟩

theorem State.conclude_passes (v : State) (tie : TieOrder) (r : LrId) : (v.conclude tie).lr r = v.lr r
    ∨ ∃ c ∈ v.arb.claims, c.register? = some r ∧ (v.conclude tie).lr r = (v.lr r).granted c.kind := by
  obtain ⟨e, -⟩ | ⟨e, -⟩ | ⟨e, -⟩ := v.conclude_cases tie <;> rw [e]
  · exact .inl rfl
  · exact v.settle_passes r
  · simpa using v.closeHeld.settle_passes r

theorem State.begun_passes (v : State) (tie : TieOrder) (r : LrId) : (v.begun tie).lr r = v.lr r
    ∨ ∃ c ∈ v.arb.claims, c.register? = some r ∧ (v.begun tie).lr r = (v.lr r).granted c.kind := by
  simpa [State.begun] using v.closeHeld.conclude_passes tie r

theorem State.settle_actedOn (v : State) : v.actedOn v.settle where
  clock := by simp
  rat := by simp
  rfe := by simp
  ste := by simp
  ntu := by simp
  powered := by simp
  hrst := by simp
  regs := v.settle_lr
  passes := v.settle_passes
  slots := v.settle_slot
  claims := v.settle_hasClaim

theorem State.begun_actedOn (v : State) (tie : TieOrder) : v.actedOn (v.begun tie) where
  clock := by simp
  rat := by simp
  rfe := by simp
  ste := by simp
  ntu := by simp
  powered := by simp
  hrst := by simp
  regs := v.begun_lr tie
  passes := v.begun_passes tie
  slots := v.begun_slot tie
  claims := v.begun_hasClaim tie

/-- The end of a beginning whose request is answered. -/
theorem State.answered_actedOn (v : State) (tie : TieOrder) (status : Status) (flags : Byte) (data : List Byte) :
    v.actedOn ((v.finish status flags data).begun tie) := by
  obtain ⟨hclock, hrat, hrfe, hste, hntu, hpowered, hhrst, hregs, hpasses, hslots, hclaims⟩ :=
    (v.finish status flags data).begun_actedOn tie
  have hlr : ∀ r, (v.finish status flags data).lr r = v.lr r := fun r => by simp
  refine ⟨by simp, by simp, by simp, by simp, by simp, by simp, by simp, fun r => hlr r ▸ hregs r,
    fun r => ?_, fun k => ?_, fun c => (hclaims c).trans ?_⟩
  · simpa using hpasses r
  · have hslot : (v.finish status flags data).slot k = v.slot k := by simp
    exact hslot ▸ hslots k
  · rw [State.hasClaim, State.holdsClaim_congr (s := v) (by simp), State.hasClaim]

theorem State.conclude_actedOn (v : State) (tie : TieOrder) : v.actedOn (v.conclude tie) where
  clock := by simp
  rat := by simp
  rfe := by simp
  ste := by simp
  ntu := by simp
  powered := by simp
  hrst := by simp
  regs := v.conclude_lr tie
  passes := v.conclude_passes tie
  slots := v.conclude_slot tie
  claims c := by simp only [State.hasClaim, State.conclude_holdsClaim]

namespace State.actedOn

variable (h : v.actedOn t)
include h

theorem steady (r : LrId) (hr : v.steady r) : t.lr r = v.lr r := by
  obtain e | ⟨c, hc, hcr, e⟩ := h.passes r
  · exact e
  · rw [e, hr c hc hcr]

/-- A grant makes no register ACTIVE (R46). -/
theorem active (hr : (t.lr r).state = .active) : (v.lr r).state = .active := by
  obtain e | ⟨c, -, -, e⟩ := h.passes r
  · rwa [e] at hr
  · rw [e] at hr
    unfold LineReg.granted at hr
    split at hr
    case h_4 => exact hr
    all_goals cases hr

theorem idle (hr : v.claimPending r = false) : t.lr r = v.lr r :=
  h.steady r (State.steady_of_idle hr)

theorem str (m : StreamId) : t.str m = v.str m := by
  rw [State.str, h.ste]
  rfl

theorem slotsKept (hu : u.engineActs v) : u.slotsKept t := fun k => by
  rw [← hu.slot k]
  exact h.slots k

theorem cellsKept (hu : u.engineActs v) : u.cellsKept t := fun row col => by rw [h.rat, hu.rat]

theorem rfe_of (hu : u.engineActs v) : t.rfe = u.rfe := h.rfe.trans hu.rfe

/-- A register that the engine left alone keeps all but what a grant changes. -/
theorem granted (hlr : v.lr r = u.lr r) : u.granted t r := by
  rw [State.granted, ← hlr]
  exact h.regs r

theorem registersKept (hlr : ∀ q, v.lr q = u.lr q) : u.registersKept t := fun q => h.granted (hlr q)

theorem othersKept (hu : u.engineActs v) (hntu : v.ntu = u.ntu) : u.othersKept t :=
  ⟨h.rat.trans hu.rat, h.cellsKept hu, h.rfe_of hu, h.ntu.trans hntu, h.slotsKept hu, h.powered.trans hu.powered,
    h.hrst.trans hu.hrst⟩

end State.actedOn

end Sys2Proof.Machine
end

section
/-! PROOF. Playback edges that leave their segment in its register (R60, R89, R91, R94-R96): a cell read, or the fill
value. -/

namespace Sys2Proof.Machine

variable {s : State} {n : StreamId} {r : LrId} {g : Segment} (dt : Nat)

/-- The end of a pass (R60). -/
def LineReg.passEnds (x : LineReg) (g : Segment) : Bool :=
  decide (g.count * 64 ≤ x.position + 1)

/-- The register at the next position of the range, with the passes left there (R60, R61). -/
def LineReg.movedOn (x : LineReg) (g : Segment) : LineReg :=
  { x with
    position := if x.passEnds g then 0 else x.position + 1
    passesLeft := if x.passEnds g then x.passesLeft - 1 else x.passesLeft }

theorem LineReg.advanced_some (x : LineReg) (g : Segment)
    (h : x.position + 1 < g.count * 64 ∨ 1 < x.passesLeft) : x.advanced g = some (x.movedOn g) := by
  unfold LineReg.advanced LineReg.movedOn LineReg.passEnds Segment.range Config.sectionCells
  by_cases hp : x.position + 1 < g.count * 64
  · simp [hp, Nat.not_le.2 hp]
  · have hlast := h.resolve_left hp
    simp [hp, Nat.not_lt.1 hp, hlast]

theorem LineReg.advanced_none (x : LineReg) (g : Segment) (hp : g.count * 64 ≤ x.position + 1) (hl : x.passesLeft ≤ 1) :
    x.advanced g = none := by
  unfold LineReg.advanced Segment.range Config.sectionCells
  rw [if_neg (Nat.not_lt.2 hp), if_neg (Nat.not_lt.2 hl)]

/-! ## A cell read (R89, R91) -/

/-- The first cell of a segment (R89). -/
def LineReg.atFirst (x : LineReg) (g : Segment) : Bool :=
  x.position == 0 && x.passesLeft == g.repeats

theorem State.reportMark_kept (b : Bool) :
    (∀ m, (s.reportMark n g b).str m = s.str m) ∧ (s.reportMark n g b).rqe = s.rqe
      ∧ (s.reportMark n g b).sst = s.sst ∧ (s.reportMark n g b).arb = s.arb ∧ (s.reportMark n g b).lrb = s.lrb := by
  unfold State.reportMark State.reportIf
  cases g.mark <;> cases b <;> simp

theorem State.toldAs.reportMark {t : State} (h : s.toldAs t) (b : Bool) :
    (s.reportMark n g b).toldAs (t.reportMark n g b) := by
  unfold State.reportMark
  cases g.mark with
  | none => exact h
  | some m => exact h.reportIf b _

/-- The record after a cell was output (R60, R89, R91). -/
def StreamRec.read (x : StreamRec) (y : LineReg) (g : Segment) : StreamRec :=
  { x with
    state := .running
    sd := some (y.content.getD (64 * g.first + y.position) 0)
    smk := y.atFirst g && g.mark.isSome
    counters := { x.counters with cellsMoved := satAdd x.counters.cellsMoved 1 } }

theorem State.playOutput_eq (s : State) (n : StreamId) (r : LrId) (g : Segment) :
    s.playOutput n r g = (s.mapStr n fun x => x.read (s.lr r) g).reportMark n g ((s.lr r).atFirst g) := by
  cases n <;> rfl

theorem State.playOutput_spec (s : State) (n : StreamId) (r : LrId) (g : Segment) :
    (s.playOutput n r g).str n = (s.str n).read (s.lr r) g
      ∧ (s.playOutput n r g).str (otherStream n) = s.str (otherStream n)
      ∧ (s.playOutput n r g).rqe = s.rqe ∧ (s.playOutput n r g).arb = s.arb ∧ (s.playOutput n r g).lrb = s.lrb
      ∧ (s.reportMark n g ((s.lr r).atFirst g)).toldAs (s.playOutput n r g) := by
  rw [State.playOutput_eq]
  obtain ⟨hstr, hrqe, -, harb, hlrb⟩ :=
    (s.mapStr n fun x => x.read (s.lr r) g).reportMark_kept (n := n) (g := g) ((s.lr r).atFirst g)
  refine ⟨by simp [hstr, State.mapStr_str], by simp [hstr, State.mapStr_str, otherStream_ne], by simp [hrqe],
    by simp [harb], by simp [hlrb], (State.toldAs.mapStr s n _).reportMark _⟩

theorem State.playOutput_units (s : State) (n : StreamId) (r : LrId) (g : Segment) :
    (s.playOutput n r g).rat = s.rat ∧ (s.playOutput n r g).rfe = s.rfe ∧ (s.playOutput n r g).sst = s.sst
      ∧ (s.playOutput n r g).clock = s.clock := by
  rw [State.playOutput_eq]
  unfold State.reportMark State.reportIf
  cases g.mark <;> cases (s.lr r).atFirst g <;> simp

theorem State.playEdge_read (hst : (s.str n).state = .ready ∨ (s.str n).state = .running)
    (hcur : s.playCurrent n = some r) (hg : (s.lr r).segment = some g)
    (hr : (s.lr r).state = .loaded ∨ (s.lr r).state = .active) : s.playEdge n = s.playRead n r g := by
  obtain hst | hst := hst <;> obtain hr | hr := hr <;> simp [State.playEdge, hst, hcur, hg, hr]

/-- The register after a cell of it was read, not the last (R60, R62). -/
def LineReg.readOn (x : LineReg) (g : Segment) (clock : Nat) : LineReg :=
  { x.movedOn g with state := .active, holdTimer := some clock, begun := true }

theorem StreamClosed.playOutput {P : State → Prop} (h : StreamClosed P) (hp : P s) : P (s.playOutput n r g) :=
  h.reportMark g _ (h.count _ (h.mapStr _ hp))

theorem State.playRead_on (hmore : (s.lr r).position + 1 < g.count * 64 ∨ 1 < (s.lr r).passesLeft) :
    s.playRead n r g = (s.playOutput n r g).setLr r ((s.lr r).readOn g s.clock) := by
  rw [State.playRead_eq, LineReg.advanced_some _ g hmore]
  rfl

/-- Settles O40: the cell is output and the register moves on. -/
theorem playbackEdgeReadsNextCell : Obligations.PlaybackEdgeReadsNextCell := by
  intro s dt n r g hlive hd hst hcur hg hr hidle hmore
  refine completes_of_run s (i := .playbackEdge dt n) rfl ?_
  simp only [Instr.run, Instr.elapsed]
  rw [playbackEdge_of_live (s := s.advance dt) hlive hd, State.playEdge_read (s := s.advance dt) hst hcur hg hr,
    State.playRead_on (s := s.advance dt) hmore]
  obtain ⟨hstr, hother, hrqe, harb, hlrb, htold⟩ := (s.advance dt).playOutput_spec n r g
  have hacts := (State.engineClosed s).playOutput (n := n) (r := r) (g := g) (.advance s dt)
  obtain ⟨-, -, -, hclock⟩ := (s.advance dt).playOutput_units n r g
  generalize (s.advance dt).playOutput n r g = v at *
  generalize hy : ((s.advance dt).lr r).readOn g (s.advance dt).clock = y
  have hlr : ∀ q, (v.setLr r y).lr q = if q = r then y else s.lr q := fun q => by
    rw [State.lr_setLr, State.lr, hlrb]
    rfl
  have hpending : (v.setLr r y).claimPending r = false := by
    rw [State.claimPending_congr (s := s.advance dt) (by simp [harb])]
    exact hidle
  have hacts' := (State.engineClosed s).setReg y (State.streamOf_playCurrent hcur) hacts
  have hacted := (v.setLr r y).settle_actedOn
  have hmarked := State.toldAs.reportMark (s := s) (t := s.advance dt) (n := n) (g := g) ⟨rfl, rfl⟩ ((s.lr r).atFirst g)
  have htold' := hmarked.trans (htold.trans (t := v) (u := (v.setLr r y).settle) ⟨by simp, by simp⟩)
  refine ⟨?_, ?_, htold', ?_, fun q hq => hacted.granted (by simp [hlr, hq]), ?_, hacted.cellsKept hacts',
    hacted.rfe_of hacts', hacted.slotsKept hacts'⟩
  · exact (hacted.str n).trans hstr
  · rw [hacted.idle hpending, hlr, if_pos rfl, hacted.clock, State.setLr_clock, hclock, ← hy]
    rfl
  · exact (hacted.str _).trans hother
  · simpa using hrqe

/-! ## A cell that is not there (R94, R95, R96) -/

/-- The record after a starved edge (R91, R94). -/
def StreamRec.starved (x : StreamRec) : StreamRec :=
  { x.outputFill with
    state := .starved
    starvedRun := satAdd x.starvedRun 1
    counters := { x.counters with
      starvedCells := satAdd x.counters.starvedCells 1
      underruns := if x.state = .starved then x.counters.underruns else satAdd x.counters.underruns 1 } }

/-- The waited segment's register after a starved edge, not at its last cell: it waits, or moves on (R95, R96). -/
def LineReg.starvedOn (x : LineReg) (g : Segment) (moves : Bool) : LineReg :=
  { (if moves then x.movedOn g else x) with begun := true }

/-- An edge finds the cell of the current register not there (R94). -/
def State.starves (s : State) (n : StreamId) (r : LrId) : Prop :=
  (s.str n).state = .starved
    ∨ ((s.str n).state = .ready ∨ (s.str n).state = .running) ∧ ((s.lr r).state = .loading ∨ (s.lr r).state = .stale)

/-- The waited segment meets the edge (R95, R96, R97). -/
def State.starvedMeets (s : State) (n : StreamId) (r : LrId) (g : Segment) : State :=
  match (s.str n).policy with
  | .hold => s.mapLr r fun x => { x with begun := true }
  | .align =>
    match (s.lr r).advanced g with
    | some x' => s.setLr r { x' with begun := true }
    | none => s.playDrop n r g

theorem State.playStarved_eq (s : State) (n : StreamId) (r : LrId) (g : Segment) :
    s.playStarved n r g = (s.mapStr n fun x => { x.outputFill with
      starvedRun := satAdd x.starvedRun 1
      counters := { x.counters with starvedCells := satAdd x.counters.starvedCells 1 } }).starvedMeets n r g := by
  cases n <;> cases r <;> rfl

theorem State.playEdge_starves (h : s.starves n r) (hcur : s.playCurrent n = some r)
    (hg : (s.lr r).segment = some g) : s.playEdge n = (s.mapStr n StreamRec.starved).starvedMeets n r g := by
  obtain hst | ⟨hst, hr⟩ := h
  · have hedge : s.playEdge n = s.playStarved n r g := by simp [State.playEdge, hst, hcur, hg]
    rw [hedge, State.playStarved_eq, State.mapStr_congr (g := StreamRec.starved)]
    simp [StreamRec.starved, StreamRec.outputFill, hst]
  · have hedge : s.playEdge n = (s.mapStr n fun x => { x with
        state := .starved
        counters := { x.counters with underruns := satAdd x.counters.underruns 1 } }).playStarved n r g := by
      obtain hst | hst := hst <;> obtain hr | hr := hr <;> simp [State.playEdge, hst, hcur, hg, hr]
    have hne : (s.str n).state ≠ .starved := by obtain hst | hst := hst <;> simp [hst]
    rw [hedge, State.playStarved_eq, State.mapStr_mapStr, State.mapStr_congr (g := StreamRec.starved)]
    simp [StreamRec.starved, StreamRec.outputFill, hne]

theorem State.starvedMeets_on
    (h : (s.str n).policy = .hold ∨ (s.lr r).position + 1 < g.count * 64 ∨ 1 < (s.lr r).passesLeft) :
    s.starvedMeets n r g = s.setLr r ((s.lr r).starvedOn g ((s.str n).policy == .align)) := by
  unfold State.starvedMeets
  cases hp : (s.str n).policy with
  | hold => rfl
  | align =>
    have hmore := h.resolve_left (by simp [hp])
    simp only [LineReg.advanced_some _ g hmore]
    rfl

/-- Settles O42: the edge starves, and the waited segment waits or moves on. -/
theorem starvedEdgeDrivesFill : Obligations.StarvedEdgeDrivesFill := by
  intro s dt n r g hlive hd hcur hg hstarves hon
  refine completes_of_run s (i := .playbackEdge dt n) rfl ?_
  simp only [Instr.run, Instr.elapsed]
  have hpolicy : (((s.advance dt).mapStr n StreamRec.starved).str n).policy = (s.str n).policy := by
    rw [State.mapStr_str, if_pos rfl]
    rfl
  rw [playbackEdge_of_live (s := s.advance dt) hlive hd,
    State.playEdge_starves (s := s.advance dt) (g := g) hstarves hcur hg, State.starvedMeets_on (by rw [hpolicy]; exact hon)]
  rw [hpolicy]
  generalize hv : State.setLr _ r _ = v
  have hlr : ∀ q, v.lr q = if q = r then (s.lr r).starvedOn g ((s.str n).policy == .align) else s.lr q := fun q => by
    rw [← hv, State.lr_setLr]
    rfl
  have hstr : ∀ m, v.str m = if m = n then (s.str n).starved else s.str m := fun m => by
    rw [← hv]
    exact State.mapStr_str _ _
  have hacts : s.engineActs v :=
    hv ▸ (State.engineClosed s).setReg _ (State.streamOf_playCurrent hcur) ((State.engineClosed s).mapStr _ (.advance s dt))
  have hacted := v.settle_actedOn
  have hrqe : v.rqe = s.rqe ∧ v.hlc = s.hlc ∧ v.ntu = s.ntu := hv ▸ ⟨by simp, by simp, by simp⟩
  obtain ⟨hrqe, hhlc, hntu⟩ := hrqe
  refine ⟨?_, ?_, ?_, fun q hq => hacted.granted (by rw [hlr, if_neg hq]), by simp [hrqe], by simp [hhlc],
    hacted.ntu.trans hntu, hacted.cellsKept hacts, hacted.rfe_of hacts, hacted.slotsKept hacts⟩
  · rw [hacted.str, hstr, if_pos rfl]
    rfl
  · have hr := hacted.regs r
    rw [hlr r, if_pos rfl] at hr
    refine hr.trans ?_
    unfold LineReg.starvedOn LineReg.movedOn LineReg.passEnds
    cases (s.str n).policy <;> simp
  · rw [hacted.str, hstr, if_neg (otherStream_ne n)]

end Sys2Proof.Machine
end

section
/-! PROOF. Registers take segments: the free registers of a playback stream (R58, R87), the receiving register of a
capture stream (R65, R112, R118). -/

namespace Sys2Proof.Machine

variable {s t u : State} {n : StreamId} {r q : LrId} {g : Segment}

/-! ## One take -/

/-- The fields that takes change are those of `y`. -/
def StreamRec.takenFrom (x y : StreamRec) : StreamRec :=
  { x with
    queue := y.queue
    taken := y.taken
    lossReportedEven := y.lossReportedEven
    lossReportedOdd := y.lossReportedOdd }

theorem StreamRec.lossReported_setLossReported (x : StreamRec) (b : Bool) (hr : streamOf r = some n)
    (hq : streamOf q = some n) : (x.setLossReported r b).lossReported q = if q = r then b else x.lossReported q := by
  cases n <;> cases r <;> cases hr <;> cases q <;> cases hq <;> rfl

theorem StreamRec.setLossReported_takenFrom (x : StreamRec) (r : LrId) (b : Bool) (rest : List Segment) (taken : Nat) :
    { x.setLossReported r b with queue := rest, taken := taken }
      = x.takenFrom { x.setLossReported r b with queue := rest, taken := taken } := by
  cases r <;> rfl

theorem LineReg.granted_of_loading (x : LineReg) (h : x.state = .loading) : x.granted .load = x := by
  cases x
  cases h
  rfl

/-! ## Playback: the free registers of a list, one after the other -/

/-- The free registers of `rs` take, in order (R58, R87). -/
def State.playTakesOf (s : State) (n : StreamId) (rs : List LrId) : State :=
  rs.foldl (fun u r => u.playTakeOne n r) s

theorem State.playTakes_eq (h : (s.str n).playTaking = true) :
    s.playTakes n = s.playTakesOf n [evenReg n, oddReg n] :=
  if_pos h

/-- The free registers of `rs`. -/
def State.freeOf (s : State) (rs : List LrId) : List LrId :=
  rs.filter fun r => (s.lr r).isFree

/-- What the takes of the registers `rs` make of the state. -/
structure State.tookFrom (s t : State) (n : StreamId) (rs : List LrId) : Prop where
  takes : s.takesFor t n (s.freeOf rs) (s.str n).queue
  str : t.str n = (s.str n).takenFrom (t.str n)
  other : ∀ m, m ≠ n → t.str m = s.str m
  lr : ∀ q, q ∉ s.freeOf rs → t.lr q = s.lr q
  claims : ∃ new, t.arb.claims = s.arb.claims ++ new
    ∧ ∀ c ∈ new, c.kind = .load ∧ ∃ q ∈ s.freeOf rs, c.register? = some q ∧ (t.lr q).state = .loading

theorem State.takesFor_nil_queue (free : List LrId) (h : ∀ r ∈ free, (s.lr r).isFree = true)
    (hq : (s.str n).queue = []) : s.takesFor s n free [] := by
  refine ⟨fun i r g _ hg => ?_, fun i r hr _ => h r (List.mem_of_getElem? hr), by simpa using hq, by simp, fun q _ => by simp⟩
  simp at hg

theorem State.tookFrom_nothing (rs : List LrId) (h : (s.str n).queue = [] ∨ s.freeOf rs = []) : s.tookFrom s n rs where
  takes := by
    obtain h | h := h
    · rw [h]
      exact State.takesFor_nil_queue _ (fun r hr => (List.mem_filter.1 hr).2) h
    · rw [h]
      exact ⟨fun i r g hr => by simp at hr, fun i r hr => by simp at hr, rfl, by simp, fun q _ => by simp⟩
  str := rfl
  other _ _ := rfl
  lr _ _ := rfl
  claims := ⟨[], by simp, by simp⟩

/-- One register's take before those of the others (R87). -/
theorem State.takesFor_cons {free : List LrId} {rest : List Segment}
    (hself : t.lr r = (s.lr r).takenFor g .loading (s.str n).taken)
    (hclaim : t.hasClaim ⟨.load, g.row, .register r, .stream⟩)
    (htaken : (u.str n).taken = (s.str n).taken + 1) (hlr : ∀ q ∈ free, u.lr q = s.lr q)
    (hloss : ∀ q, streamOf q = some n → (u.str n).lossReported q = (q != r && (s.str n).lossReported q))
    (h : u.takesFor t n free rest) : s.takesFor t n (r :: free) (g :: rest) := by
  obtain ⟨htakes, hidle, hqueue, hcount, hflags⟩ := h
  refine ⟨fun i q k hq hk => ?_, fun i q hq hi => ?_, by simpa using hqueue, by rw [hcount, htaken]; simp; omega,
    fun q hqn => ?_⟩
  · cases i with
    | zero =>
      obtain rfl : r = q := by simpa using hq
      obtain rfl : g = k := by simpa using hk
      exact ⟨hself, hclaim⟩
    | succ i =>
      have hq' : free[i]? = some q := by simpa using hq
      have := htakes i q k hq' (by simpa using hk)
      rw [htaken, hlr q (List.mem_of_getElem? hq')] at this
      rwa [Nat.add_right_comm, Nat.add_assoc] at this
  · cases i with
    | zero => simp at hi
    | succ i => exact hidle i q (by simpa using hq) (by simpa using hi)
  · rw [hflags q hqn, hloss q hqn]
    by_cases hqr : q = r
    · simp [hqr]
    · simp [hqr, bne_iff_ne.2 hqr]

theorem State.playTakesOf_nil (rs : List LrId) (h : (s.str n).queue = []) : s.playTakesOf n rs = s := by
  induction rs with
  | nil => rfl
  | cons r rs ih =>
    have hone : s.playTakeOne n r = s := by simp [State.playTakeOne, h]
    rw [State.playTakesOf, List.foldl_cons, hone]
    exact ih

theorem State.playTakesOf_tookFrom (rs : List LrId) : rs.Nodup → (∀ r ∈ rs, streamOf r = some n) →
    ∀ s : State, s.tookFrom (s.playTakesOf n rs) n rs := by
  induction rs with
  | nil => exact fun _ _ s => State.tookFrom_nothing [] (.inr rfl)
  | cons r rs ih =>
    intro hnodup hrs s
    obtain ⟨hnot, hnodup⟩ := List.nodup_cons.1 hnodup
    have hrest := fun q hq => hrs q (List.mem_cons_of_mem r hq)
    have hr := hrs r List.mem_cons_self
    obtain hempty | ⟨g, rest, hq⟩ : (s.str n).queue = [] ∨ ∃ g rest, (s.str n).queue = g :: rest := by
      cases (s.str n).queue <;> simp
    · rw [State.playTakesOf_nil _ hempty]
      exact State.tookFrom_nothing _ (.inl hempty)
    cases hfree : (s.lr r).isFree with
    | false =>
      have hone : s.playTakeOne n r = s := by simp [State.playTakeOne, hfree]
      have hof : s.freeOf (r :: rs) = s.freeOf rs := by simp [State.freeOf, hfree]
      obtain ⟨htakes, hstr, hother, hlr, hclaims⟩ := ih hnodup hrest s
      rw [State.playTakesOf, List.foldl_cons, hone]
      exact ⟨hof ▸ htakes, hstr, hother, hof ▸ hlr, hof ▸ hclaims⟩
    | true =>
      have hone : s.playTakeOne n r = (s.takeHead n r g rest .loading).raiseClaim ⟨.load, g.row, .register r, .stream⟩ := by
        simp [State.playTakeOne, hfree, hq]
      rw [State.playTakesOf, List.foldl_cons, hone]
      generalize hu : State.raiseClaim _ _ = u
      have hulr : ∀ q, u.lr q = if q = r then (s.lr r).takenFor g .loading (s.str n).taken else s.lr q := fun q => by
        rw [← hu]
        exact s.takeHead_lr n r q g rest .loading
      have hustr : ∀ m, u.str m = if m = n then
          { (s.str n).setLossReported r false with queue := rest, taken := (s.str n).taken + 1 } else s.str m := fun m => by
        rw [← hu]
        exact s.takeHead_str n m r g rest .loading
      have huclaims : u.arb.claims = s.arb.claims ++ [⟨.load, g.row, .register r, .stream⟩] := by
        rw [← hu]
        simp
      have hustr' := hustr n
      rw [if_pos rfl] at hustr'
      have hkept : ∀ q ∈ rs, u.lr q = s.lr q := fun q hq => by
        rw [hulr, if_neg fun (e : q = r) => hnot (e ▸ hq)]
      have hfreeu : u.freeOf rs = s.freeOf rs := List.filter_congr fun q hq => by rw [hkept q hq]
      have hof : s.freeOf (r :: rs) = r :: s.freeOf rs := by simp [State.freeOf, hfree]
      have hnotfree : r ∉ s.freeOf rs := fun h => hnot (List.mem_of_mem_filter h)
      obtain ⟨htakes, hstr, hother, hlr, new, hclaims, hnew⟩ := ih hnodup hrest u
      rw [hfreeu] at htakes hlr hnew
      rw [show (u.str n).queue = rest by rw [hustr']] at htakes
      change u.takesFor (u.playTakesOf n rs) n _ _ at htakes
      change s.tookFrom (u.playTakesOf n rs) n _
      generalize u.playTakesOf n rs = t at *
      have hself : t.lr r = (s.lr r).takenFor g .loading (s.str n).taken := by
        rw [hlr r hnotfree, hulr, if_pos rfl]
      refine ⟨?_, ?_, fun m hm => ?_, fun q hqn => ?_, ?_⟩
      · rw [hof, hq]
        refine State.takesFor_cons hself (State.hasClaim_of_mem _ (by simp [hclaims, huclaims])) (by rw [hustr'])
          (fun q hq => hkept q (List.mem_of_mem_filter hq)) (fun q hqn => ?_) htakes
        rw [hustr']
        refine ((s.str n).lossReported_setLossReported false hr hqn).trans ?_
        by_cases hqr : q = r
        · simp [hqr]
        · simp [hqr, bne_iff_ne.2 hqr]
      · rw [hstr, hustr', StreamRec.setLossReported_takenFrom]
        rfl
      · rw [hother m hm, hustr, if_neg hm]
      · rw [hof, List.mem_cons, not_or] at hqn
        rw [hlr q hqn.2, hulr, if_neg hqn.1]
      · refine ⟨⟨.load, g.row, .register r, .stream⟩ :: new, by rw [hclaims, huclaims]; simp, fun c hc => ?_⟩
        rw [hof]
        obtain rfl | hc := List.mem_cons.1 hc
        · exact ⟨rfl, r, List.mem_cons_self, rfl, by rw [hself]; rfl⟩
        · obtain ⟨hk, q, hqm, hqr, hst⟩ := hnew c hc
          exact ⟨hk, q, List.mem_cons_of_mem r hqm, hqr, hst⟩

/-! ## From one state to another -/

theorem LineReg.takenFor_congr {x y : LineReg} (h : x.content = y.content) (g : Segment) (st : LrState) (seq : Nat) :
    x.takenFor g st seq = y.takenFor g st seq := by
  simp only [LineReg.takenFor, LineReg.cleared, h]

theorem State.lossFlags_congr {takers : List LrId} (h : u.lossFlags t n takers)
    (hloss : ∀ q, streamOf q = some n → (u.str n).lossReported q = (s.str n).lossReported q) :
    s.lossFlags t n takers := fun q hq => by
  rw [h q hq, hloss q hq]

/-- The takes of a state that an engine made of `s`, seen from `s`. -/
theorem State.takesFor_congr {free : List LrId} {all : List Segment} (h : u.takesFor t n free all)
    (hcontent : ∀ r ∈ free, (u.lr r).content = (s.lr r).content) (htaken : (u.str n).taken = (s.str n).taken)
    (hloss : ∀ q, streamOf q = some n → (u.str n).lossReported q = (s.str n).lossReported q) :
    s.takesFor t n free all := by
  obtain ⟨htakes, hidle, hqueue, hcount, hflags⟩ := h
  refine ⟨fun i r g hr hg => ?_, hidle, hqueue, htaken ▸ hcount, State.lossFlags_congr hflags hloss⟩
  have := htakes i r g hr hg
  rwa [LineReg.takenFor_congr (hcontent r (List.mem_of_getElem? hr)), htaken] at this

variable {v : State}

/-- The arbiter's acts after takes leave them as they are. -/
theorem State.takesFor_acted {free : List LrId} {all : List Segment} (h : s.takesFor v n free all) (hacted : v.actedOn t)
    (hsteady : ∀ r ∈ free, v.steady r) : s.takesFor t n free all := by
  obtain ⟨htakes, hidle, hqueue, hcount, hflags⟩ := h
  have hlr := fun i r (hr : free[i]? = some r) => hacted.steady r (hsteady r (List.mem_of_getElem? hr))
  refine ⟨fun i r g hr hg => ?_, fun i r hr hi => ?_, by rw [hacted.str, hqueue], by rw [hacted.str, hcount],
    fun q hq => by rw [hacted.str, hflags q hq]⟩
  · rw [hlr i r hr, hacted.claims]
    exact htakes i r g hr hg
  · rw [hlr i r hr]
    exact hidle i r hr hi

/-- A grant would leave the registers that took, and those without a claim, as they are. -/
theorem State.tookFrom.steady {rs : List LrId} (h : s.tookFrom t n rs) (hidle : s.claimPending q = false) :
    t.steady q := by
  obtain ⟨new, hclaims, hnew⟩ := h.claims
  intro c hc hr
  rw [hclaims, List.mem_append] at hc
  obtain hc | hc := hc
  · exact absurd (by simp [Claim.isOf, hr]) (List.any_eq_false.1 hidle c hc)
  · obtain ⟨hk, q', -, hq', hst⟩ := hnew c hc
    obtain rfl : q' = q := Option.some.inj (hq'.symm.trans hr)
    rw [hk]
    exact LineReg.granted_of_loading _ hst

/-! ## The registers of a stream -/

theorem State.heldRegs_isEmpty_iff (s : State) (n : StreamId) :
    (s.heldRegs n).isEmpty = true ↔ ∀ q, streamOf q = some n → (s.lr q).segment = none := by
  rw [List.isEmpty_iff, List.eq_nil_iff_forall_not_mem]
  refine forall_congr' fun q => ?_
  rw [mem_heldRegs]
  cases (s.lr q).segment <;> simp

/-- The two registers of a stream, the even-numbered first (R55). -/
def regsOf (n : StreamId) : List LrId :=
  [evenReg n, oddReg n]

theorem mem_regsOf {n : StreamId} {q : LrId} : q ∈ regsOf n ↔ streamOf q = some n := by
  rw [streamOf_eq_some]
  simp [regsOf]

theorem State.playTakes_tookFrom (h : (s.str n).playTaking = true) : s.tookFrom (s.playTakes n) n (regsOf n) := by
  rw [State.playTakes_eq h]
  exact State.playTakesOf_tookFrom _ (by cases n <;> decide) (fun q hq => mem_regsOf.1 hq) s

theorem State.playTakes_of_empty (h : (s.str n).queue = []) : s.playTakes n = s := by
  unfold State.playTakes
  split
  · next ht => exact State.playTakesOf_nil [evenReg n, oddReg n] h
  · rfl

/-- After its takes a stream holds no segment if it held none and none could be taken (R100). -/
theorem State.playTakes_heldRegs (h : (s.str n).playTaking = true) :
    ((s.playTakes n).heldRegs n).isEmpty =
      (((s.freeOf (regsOf n)).isEmpty || (s.str n).queue.isEmpty) && (s.heldRegs n).isEmpty) := by
  obtain ⟨⟨htakes, -⟩, -, -, hlr, -⟩ := State.playTakes_tookFrom h
  cases hfree : s.freeOf (regsOf n) with
  | nil =>
    rw [hfree] at hlr
    rw [State.heldRegs_congr (s := s) fun q _ => by rw [hlr q (by simp)]; exact ⟨rfl, rfl⟩]
    simp
  | cons r rest =>
    cases hq : (s.str n).queue with
    | nil => rw [State.playTakes_of_empty hq]; simp
    | cons g queue =>
      have htaken := (htakes 0 r g (by simp [hfree]) (by simp [hq])).1
      have hr : streamOf r = some n :=
        mem_regsOf.1 (List.mem_of_mem_filter (p := fun r => (s.lr r).isFree) (by rw [← State.freeOf, hfree]; simp))
      have hne : ((s.playTakes n).heldRegs n).isEmpty ≠ true := fun he => by
        have := (State.heldRegs_isEmpty_iff _ n).1 he r hr
        rw [htaken] at this
        cases this
      simpa using hne

/-! ## Capture: the receiving register -/

theorem State.capTaking_iff : s.capTaking n = true ↔ s.mayReceive n (s.str n) := by
  simp only [State.capTaking, State.mayReceive, Bool.and_eq_true, Bool.or_eq_true, beq_iff_eq]
  tauto

/-- The free register that would receive (R65). -/
def State.freeReg (s : State) (n : StreamId) : Option LrId :=
  (regsOf n).find? fun r => (s.lr r).isFree

theorem State.capTake_of_not (h : ¬ s.mayReceive n (s.str n) ∨ (s.str n).queue = []) : s.capTake n = s := by
  obtain e | ⟨r, g, rest, hmay, -, hq, -⟩ := s.capTake_cases n
  · exact e
  · obtain h | h := h
    · exact absurd (State.capTaking_iff.1 hmay) h
    · rw [h] at hq
      cases hq

/-- What a capture stream's take makes of the state. -/
structure State.receivedFrom (s t : State) (n : StreamId) : Prop where
  receives : s.receivesAs t n (s.freeReg n) (s.str n)
  other : ∀ m, m ≠ n → t.str m = s.str m
  lr : ∀ q, s.freeReg n ≠ some q ∨ (s.str n).queue = [] → t.lr q = s.lr q
  arb : t.arb = s.arb

theorem State.receivedFrom_nothing (h : s.freeReg n = none ∨ (s.str n).queue = []) : s.receivedFrom s n where
  receives := by
    have hnot : ¬ ((s.str n).state = .overrun ∧ (s.freeReg n).isSome = true ∧ (s.str n).queue ≠ []) := by
      obtain h | h := h <;> simp [h]
    refine ⟨?_, by rw [if_neg hnot]⟩
    obtain h | h := h
    · rw [h]
      exact ⟨rfl, rfl, fun q _ => by simp⟩
    · rw [h]
      cases s.freeReg n <;> exact ⟨h, rfl, fun q _ => by simp⟩
  other _ _ := rfl
  lr _ _ := rfl
  arb := rfl

theorem State.capTake_receivedFrom (h : s.mayReceive n (s.str n)) : s.receivedFrom (s.capTake n) n := by
  have htaking := State.capTaking_iff.2 h
  cases hfree : s.freeReg n with
  | none =>
    have hsame : s.capTake n = s := by
      obtain e | ⟨r, -, -, -, hr, -⟩ := s.capTake_cases n
      · exact e
      · rw [State.freeReg] at hfree
        exact absurd (hfree.symm.trans hr) (by simp)
    rw [hsame]
    exact State.receivedFrom_nothing (.inl hfree)
  | some r =>
    cases hq : (s.str n).queue with
    | nil =>
      rw [State.capTake_of_not (.inr hq)]
      exact State.receivedFrom_nothing (.inr hq)
    | cons g rest =>
      have hr : streamOf r = some n := State.streamOf_find hfree
      have htake : s.capTake n = if (s.str n).state = .overrun then
          (s.takeHead n r g rest .active).mapStr n fun x => { x with state := .running }
          else s.takeHead n r g rest .active := by
        have hfind : [evenReg n, oddReg n].find? (fun r => (s.lr r).isFree) = some r := hfree
        simp [State.capTake, htaking, hfind, hq]
      have hlr : ∀ q, (s.capTake n).lr q = if q = r then (s.lr r).takenFor g .active (s.str n).taken else s.lr q :=
        fun q => by
          rw [htake]
          split <;> exact s.takeHead_lr n r q g rest .active
      have hstr : ∀ m, (s.capTake n).str m = if m = n then
          { (s.str n).setLossReported r false with
            state := if (s.str n).state = .overrun then .running else (s.str n).state
            queue := rest
            taken := (s.str n).taken + 1 } else s.str m := fun m => by
        rw [htake]
        split
        · next ho =>
          rw [State.mapStr_str, s.takeHead_str, s.takeHead_str]
          by_cases hm : m = n <;> simp [hm]
        · next ho =>
          rw [s.takeHead_str]
          cases r <;> rfl
      have hself := hstr n
      rw [if_pos rfl] at hself
      refine ⟨⟨?_, ?_⟩, fun m hm => by rw [hstr, if_neg hm], fun q hne => ?_, ?_⟩
      · rw [hfree, hq]
        refine ⟨by rw [hlr, if_pos rfl], by rw [hself], by rw [hself], fun q hqn => ?_⟩
        rw [hself]
        refine ((s.str n).lossReported_setLossReported false hr hqn).trans ?_
        by_cases hqr : q = r <;> simp [hqr]
      · rw [hself, hfree, hq]
        cases r <;> simp [StreamRec.setLossReported]
      · rw [hfree, hq] at hne
        have hqr : q ≠ r := fun e => by simp [e] at hne
        rw [hlr, if_neg hqr]
      · rw [htake]
        split <;> simp

/-- The take of a state that an engine made of `s`, and the arbiter's acts after it, seen from `s`. -/
theorem State.receivesFor_of {free : Option LrId} {all : List Segment} (h : u.receivesFor v n free all)
    (hacted : v.actedOn t) (hfree : ∀ r, free = some r → all ≠ [] → v.steady r)
    (hcontent : ∀ r, free = some r → (u.lr r).content = (s.lr r).content) (htaken : (u.str n).taken = (s.str n).taken)
    (hloss : ∀ q, streamOf q = some n → (u.str n).lossReported q = (s.str n).lossReported q) :
    s.receivesFor t n free all := by
  have hflags : ∀ takers, u.lossFlags v n takers → s.lossFlags t n takers := fun takers hf =>
    State.lossFlags_congr (u := u) (fun q hq => by rw [hacted.str, hf q hq]) hloss
  cases free with
  | none =>
    obtain ⟨hq, ht, hf⟩ := h
    exact ⟨by rw [hacted.str, hq], by rw [hacted.str, ht, htaken], hflags _ hf⟩
  | some r =>
    cases all with
    | nil =>
      obtain ⟨hq, ht, hf⟩ := h
      exact ⟨by rw [hacted.str, hq], by rw [hacted.str, ht, htaken], hflags _ hf⟩
    | cons g rest =>
      obtain ⟨hr, hq, ht, hf⟩ := h
      refine ⟨?_, by rw [hacted.str, hq], by rw [hacted.str, ht, htaken], hflags _ hf⟩
      rw [hacted.steady r (hfree r rfl (by simp)), hr, htaken]
      exact LineReg.takenFor_congr (hcontent r rfl) _ _ _

theorem State.receivesAs_of {free : Option LrId} {x : StreamRec} (h : u.receivesAs v n free x)
    (hacted : v.actedOn t) (hfree : ∀ r, free = some r → x.queue ≠ [] → v.steady r)
    (hcontent : ∀ r, free = some r → (u.lr r).content = (s.lr r).content) (htaken : (u.str n).taken = (s.str n).taken)
    (hloss : ∀ q, streamOf q = some n → (u.str n).lossReported q = (s.str n).lossReported q) :
    s.receivesAs t n free x := by
  obtain ⟨hfor, hstr⟩ := h
  refine ⟨State.receivesFor_of hfor hacted hfree hcontent htaken hloss, ?_⟩
  rw [hacted.str]
  exact hstr

end Sys2Proof.Machine
end

section
/-! PROOF. STREAM_START and STREAM_APPEND (R83, R84, R87, R100, R112, R120): a change of the record, then the takes. -/

namespace Sys2Proof.Machine

variable {s t v : State} {tag b : Byte} {rest : List Request} {n : StreamId} {f : StreamRec → StreamRec} (dt : Nat)
  (tie : TieOrder)

/-! ## A change of the record, the takes, and the arbiter's acts -/

theorem State.answers_of {k : RequestKind} {payload : List Byte} (h : s.heads tag k payload rest) (hrqe : v.rqe = s.rqe)
    (hhlc : v.hlc = s.hlc) (status : Status) (flags : Byte) (data : List Byte) :
    s.answers ((v.finish status flags data).begun tie) tag rest status flags data := by
  obtain ⟨-, -, hqueue⟩ := h
  have hqueue' : v.rqe.queue = ⟨tag, k, payload⟩ :: rest := by rw [hrqe, hqueue]
  simp [State.answers, State.finish_spec v status flags data hqueue', hrqe, hhlc]

theorem State.actedOn.heldRegs (h : v.actedOn t) : t.heldRegs n = v.heldRegs n :=
  State.heldRegs_congr fun q _ => by rw [h.regs q]; exact ⟨rfl, rfl⟩

/-- The change of the record leaves the take numbers and the losses reported. -/
def StreamRec.sameTakes (x y : StreamRec) : Prop :=
  y.taken = x.taken ∧ ∀ q, y.lossReported q = x.lossReported q

/-- What a changed record's stream makes of the state, seen from before. -/
structure State.wokenFor (s t : State) (n : StreamId) (f : StreamRec → StreamRec) : Prop where
  takes : s.takesFor t n ([evenReg n, oddReg n].filter fun r => (s.lr r).isFree) (f (s.str n)).queue
  str : t.str n = (f (s.str n)).takenFrom (t.str n)
  other : t.str (otherStream n) = s.str (otherStream n)
  granted : ∀ r, (s.lr r).isFree = false → s.granted t r

theorem State.wokenFor_of (hf : (s.str n).sameTakes (f (s.str n))) (htaking : (f (s.str n)).playTaking = true)
    (hidle : ∀ r, streamOf r = some n → (s.lr r).isFree = true → s.claimPending r = false)
    (hacted : (((s.advance dt).mapStr n f).playTakes n).actedOn t) : s.wokenFor t n f := by
  have hrec : ((s.advance dt).mapStr n f).str n = f (s.str n) := by simp [State.mapStr_str]
  have htook := State.playTakes_tookFrom (s := (s.advance dt).mapStr n f) (n := n) (by rw [hrec]; exact htaking)
  have htakes := htook.takes
  have hlr := htook.lr
  have hfree : ((s.advance dt).mapStr n f).freeOf (regsOf n) = [evenReg n, oddReg n].filter fun r => (s.lr r).isFree := rfl
  rw [hrec, hfree] at htakes
  rw [hfree] at hlr
  refine ⟨?_, ?_, ?_, fun r hr => hacted.granted (hlr r fun hm => ?_)⟩
  · refine State.takesFor_acted (State.takesFor_congr htakes (fun r _ => rfl) (by rw [hrec]; exact hf.1)
      fun q _ => by rw [hrec]; exact hf.2 q) hacted fun r hr => htook.steady ?_
    exact hidle r (mem_regsOf.1 (List.mem_of_mem_filter hr)) (List.mem_filter.1 hr).2
  · rw [hacted.str, htook.str, hrec]
    rfl
  · rw [hacted.str, htook.other _ (otherStream_ne n)]
    simp [State.mapStr_str, otherStream_ne]
  · rw [(List.mem_filter.1 hm).2] at hr
    cases hr

/-- What a changed record's capture stream makes of the state, seen from before. -/
structure State.readiedFor (s t : State) (n : StreamId) (f : StreamRec → StreamRec) : Prop where
  receives : s.receivesAs t n ([evenReg n, oddReg n].find? fun r => (s.lr r).isFree) (f (s.str n))
  other : t.str (otherStream n) = s.str (otherStream n)
  granted : ∀ r, ([evenReg n, oddReg n].find? fun r => (s.lr r).isFree) ≠ some r → s.granted t r

theorem State.readiedFor_of (hf : (s.str n).sameTakes (f (s.str n))) (hmay : s.mayReceive n (f (s.str n)))
    (hidle : ∀ r, streamOf r = some n → (s.lr r).isFree = true → s.claimPending r = false)
    (hacted : (((s.advance dt).mapStr n f).capTake n).actedOn t) : s.readiedFor t n f := by
  have hrec : ((s.advance dt).mapStr n f).str n = f (s.str n) := by simp [State.mapStr_str]
  have hreceived := State.capTake_receivedFrom (s := (s.advance dt).mapStr n f) (n := n) (by rw [hrec]; exact hmay)
  obtain ⟨hreceives, hother, hlr, -⟩ := hreceived
  rw [hrec] at hreceives
  have hfree : ((s.advance dt).mapStr n f).freeReg n = [evenReg n, oddReg n].find? fun r => (s.lr r).isFree := rfl
  rw [hfree] at hreceives hlr
  refine ⟨?_, ?_, fun r hr => hacted.granted (hlr r (.inl hr))⟩
  · refine State.receivesAs_of hreceives hacted (fun r hr _ => State.steady_of_idle ?_) (fun _ _ => rfl)
      (by rw [hrec]; exact hf.1) fun q _ => by rw [hrec]; exact hf.2 q
    rw [State.claimPending_congr (s := s) (by simp)]
    exact hidle r (State.streamOf_find hr) (by simpa using List.find?_some (p := fun r => (s.lr r).isFree) hr)
  · rw [hacted.str, hother _ (otherStream_ne n)]
    simp [State.mapStr_str, otherStream_ne]

/-! ## STREAM_START (R84) -/

/-- The record of a playback stream started. -/
def StreamRec.primed (x : StreamRec) : StreamRec :=
  { x with state := .priming, sd := some x.fill, smk := false, starvedRun := 0 }

/-- The record of a capture stream started. -/
def StreamRec.readied (x : StreamRec) : StreamRec :=
  { x with state := .ready }

theorem streamStart_of_heads (h : s.heads tag .streamStart [b] rest) (hn : streamOfCode b = some n)
    (hready : s.rat.state = .ready) (hst : (s.str n).state = .idle) :
    streamStart tie (s.advance dt) = (((s.advance dt).startStream n).finish .ok 0 []).begun tie := by
  have hinit : (s.advance dt).inInit = false := by simp [State.inInit, hready]
  simp [streamStart, State.beginning_of_heads dt h, parseStream, hn, hinit, hst]

/-- Settles O37: the start changes the record, and then the free registers take. -/
theorem startTakesFirstSegments : Obligations.StartTakesFirstSegments := by
  intro s dt tie tag b rest n h hn hready hst hstop heven hodd
  have hidle : ∀ r, streamOf r = some n → (s.lr r).isFree = true → s.claimPending r = false := fun r hr _ => by
    obtain rfl | rfl := streamOf_eq_some.1 hr
    · exact heven
    · exact hodd
  refine ⟨fun hd => ?_, fun hd hreceiving => ?_⟩ <;> refine completes_of_run s (i := .streamStart ⟨dt, tie⟩) rfl ?_ <;>
    simp only [Instr.run, Instr.elapsed] <;> rw [streamStart_of_heads dt tie h hn hready hst]
  · have hstart : (s.advance dt).startStream n = ((s.advance dt).mapStr n StreamRec.primed).playTakes n := by
      simp only [State.startStream, State.advance_str, hd]
      rfl
    rw [hstart]
    have hacted := State.answered_actedOn (((s.advance dt).mapStr n StreamRec.primed).playTakes n) tie .ok 0 []
    have hacts := (State.engineClosed s).playTakes (n := n) ((State.engineClosed s).mapStr (n := n) StreamRec.primed
      (.advance s dt))
    obtain ⟨htakes, hstr, hother, -⟩ := State.wokenFor_of dt (f := StreamRec.primed) ⟨rfl, fun _ => rfl⟩
      (by simp [StreamRec.playTaking, StreamRec.primed, hd, hstop]) hidle hacted
    exact ⟨htakes, hstr, hother, State.answers_of tie h (by simp) (by simp) .ok 0 [], hacted.othersKept hacts (by simp)⟩
  · have hstart : (s.advance dt).startStream n = ((s.advance dt).mapStr n StreamRec.readied).capTake n := by
      simp only [State.startStream, State.advance_str, hd]
      rfl
    rw [hstart]
    have hacted := State.answered_actedOn (((s.advance dt).mapStr n StreamRec.readied).capTake n) tie .ok 0 []
    have hacts := (State.engineClosed s).capTake (n := n) ((State.engineClosed s).mapStr (n := n) StreamRec.readied
      (.advance s dt))
    obtain ⟨⟨hreceives, hstr⟩, hother, -⟩ := State.readiedFor_of dt (f := StreamRec.readied) ⟨rfl, fun _ => rfl⟩
      (by simp [State.mayReceive, StreamRec.readied, hd, hstop, hreceiving]) hidle hacted
    refine ⟨hreceives, hstr.trans ?_, hother, State.answers_of tie h (by simp) (by simp) .ok 0 [],
      hacted.othersKept hacts (by simp)⟩
    simp [StreamRec.readied]

/-! ## STREAM_APPEND (R83) -/

section Append

variable {payload : List Byte} {gs : List Segment}

/-- The record with the segments at the tail, out of DRAINED into the state `woken` (R100, R120). -/
def StreamRec.appended (x : StreamRec) (gs : List Segment) (woken : StreamState) : StreamRec :=
  { x with queue := x.queue ++ gs, state := if x.state = .drained then woken else x.state }

/-- The reply's data: the queue length and the number of registers that hold a segment (R83). -/
def State.lengthsReported (s : State) (n : StreamId) : List Byte :=
  [natByte (s.str n).queue.length, natByte (s.heldRegs n).length]

theorem streamAppend_of_heads (h : s.heads tag .streamAppend payload rest) (hp : parseAppend payload = some (b, gs))
    (hn : streamOfCode b = some n) (hst : (s.str n).state ≠ .disabled)
    (hvalid : (gs.all fun g => g.valid (s.str n).direction) = true) (hroom : s.segmentTotal n + gs.length ≤ 32) :
    streamAppend tie (s.advance dt) = (((s.advance dt).appendSegments n gs).finish .ok 0
      (((s.advance dt).appendSegments n gs).lengthsReported n)).begun tie := by
  have hroom' : ¬ Config.maxSegments < (s.advance dt).segmentTotal n + gs.length := Nat.not_lt.2 hroom
  have hst' : ((s.advance dt).str n).state ≠ .disabled := hst
  have hvalid' : ¬ (gs.all fun g => g.valid ((s.advance dt).str n).direction) = false := by simpa using hvalid
  simp only [streamAppend, State.beginning_of_heads dt h, hp, hn, if_neg hst', if_neg hvalid', if_neg hroom']
  rfl

theorem parseSegments_succ_ne_nil (k : Nat) (p : List Byte) : parseSegments (k + 1) p ≠ some [] := by
  unfold parseSegments
  split
  · next h => exact absurd h (Nat.succ_ne_zero k)
  · (repeat' split) <;> simp
  · simp

/-- A STREAM_APPEND has a segment or more (R177). -/
theorem parseAppend_ne_nil (hp : parseAppend payload = some (b, gs)) : gs ≠ [] := by
  rintro rfl
  unfold parseAppend at hp
  split at hp
  · next a c rest =>
    split at hp
    · next hc =>
      obtain ⟨k, hk⟩ := Nat.exists_eq_succ_of_ne_zero (Nat.one_le_iff_ne_zero.1 hc.1)
      obtain ⟨gs, hgs, e⟩ := Option.map_eq_some_iff.1 hp
      rw [hk, (Prod.mk.inj e).2] at hgs
      exact parseSegments_succ_ne_nil k rest hgs
    · cases hp
  · cases hp

theorem State.mapStr_appended (s : State) (n : StreamId) (gs : List Segment) (woken : StreamState) :
    (if (s.str n).state = .drained then
        (s.mapStr n fun x => { x with queue := x.queue ++ gs }).mapStr n fun x => { x with state := woken }
      else s.mapStr n fun x => { x with queue := x.queue ++ gs }) = s.mapStr n fun x => x.appended gs woken := by
  split
  · next h =>
    rw [State.mapStr_mapStr]
    exact State.mapStr_congr (by simp [StreamRec.appended, h])
  · next h => exact State.mapStr_congr (by simp [StreamRec.appended, h])

theorem State.appendSegments_playback (hd : (s.str n).direction = .playback) :
    s.appendSegments n gs = (s.mapStr n fun x => x.appended gs .priming).playTakes n := by
  rw [← State.mapStr_appended]
  simp only [State.appendSegments, hd]

theorem State.appendSegments_capture (hd : (s.str n).direction = .capture) :
    s.appendSegments n gs = (s.mapStr n fun x => x.appended gs .ready).capTake n := by
  rw [← State.mapStr_appended]
  simp only [State.appendSegments, hd]

/-- The stream of the record takes nothing at an append. -/
def State.stillFor (s : State) (n : StreamId) (x : StreamRec) : Prop :=
  x.state = .idle ∨ x.state = .stopping
    ∨ x.state ≠ .drained ∧ (x.stopRequest ≠ none ∨ x.direction = .capture ∧ s.receiving n ≠ none
      ∨ x.direction = .capture ∧ x.state = .overrun ∧ x.overrunSegment ≠ none)

theorem State.appendSegments_still (h : s.stillFor n (s.str n)) :
    s.appendSegments n gs = s.mapStr n fun x => { x with queue := x.queue ++ gs } := by
  have hdrained : (s.str n).state ≠ .drained := by
    obtain h | h | ⟨h, -⟩ := h <;> simp [h]
  have hsame : ∀ woken, (s.mapStr n fun x => x.appended gs woken) = s.mapStr n fun x => { x with queue := x.queue ++ gs } :=
    fun woken => State.mapStr_congr (by simp [StreamRec.appended, hdrained])
  have hrec : (s.mapStr n fun x => { x with queue := x.queue ++ gs }).str n
      = { s.str n with queue := (s.str n).queue ++ gs } := by simp [State.mapStr_str]
  cases hd : (s.str n).direction with
  | playback =>
    rw [State.appendSegments_playback hd, hsame, State.playTakes, if_neg]
    rw [hrec]
    obtain h | h | ⟨-, h | ⟨h, -⟩ | ⟨h, -⟩⟩ := h
    · simp [StreamRec.playTaking, h]
    · simp [StreamRec.playTaking, h]
    · simp [StreamRec.playTaking, h]
    · rw [hd] at h; cases h
    · rw [hd] at h; cases h
  | capture =>
    rw [State.appendSegments_capture hd, hsame, State.capTake_of_not (.inl ?_)]
    rw [hrec]
    rintro ⟨-, hstop, hreceiving, hstate⟩
    obtain h | h | ⟨-, h | ⟨-, h⟩ | ⟨-, ho, h⟩⟩ := h
    · simp [h] at hstate
    · simp [h] at hstate
    · exact h hstop
    · exact h hreceiving
    · simp [ho, h] at hstate
  | none => simp only [State.appendSegments, hd]

/-- Settles O36: nothing takes, or the woken stream's registers do. -/
theorem appendQueuesAndWakesStream : Obligations.AppendQueuesAndWakesStream := by
  intro s dt tie tag b payload rest n gs h hp hn hst hvalid hroom hfree x all lengths
  have hidle : ∀ r, streamOf r = some n → (s.lr r).isFree = true → s.claimPending r = false := fun r hr =>
    hfree r (streamOf_eq_some.1 hr)
  have hrun : ∀ φ : State → Prop, (∀ v t, v = (s.advance dt).appendSegments n gs → v.actedOn t →
        s.answers t tag rest .ok 0 (lengths t) → s.othersKept t → φ t) →
      Completes (.streamAppend ⟨dt, tie⟩) s φ := fun φ hφ => by
    refine completes_of_run s (i := .streamAppend ⟨dt, tie⟩) rfl ?_
    simp only [Instr.run, Instr.elapsed]
    rw [streamAppend_of_heads dt tie h hp hn hst hvalid hroom]
    have hacts := (State.engineClosed s).appendSegments (n := n) gs (.advance s dt)
    have hrqe : ((s.advance dt).appendSegments n gs).rqe = s.rqe := by simp
    have hhlc : ((s.advance dt).appendSegments n gs).hlc = s.hlc := by simp
    have hntu : ((s.advance dt).appendSegments n gs).ntu = s.ntu := by simp
    generalize hv : (s.advance dt).appendSegments n gs = v at *
    have hacted := v.answered_actedOn tie .ok 0 (v.lengthsReported n)
    have hlengths : lengths ((v.finish .ok 0 (v.lengthsReported n)).begun tie) = v.lengthsReported n := by
      simp only [lengths, hacted.str, hacted.heldRegs]
      rfl
    refine hφ v _ rfl hacted ?_ (hacted.othersKept hacts hntu)
    rw [hlengths]
    exact State.answers_of tie h hrqe hhlc .ok 0 _
  refine ⟨fun hstill => hrun _ fun v t hv hacted hanswers hothers => ?_,
    fun hd hstop hstate => hrun _ fun v t hv hacted hanswers hothers => ?_,
    fun hd hstop hreceiving hstate => hrun _ fun v t hv hacted hanswers hothers => ?_⟩
  · rw [State.appendSegments_still (s := s.advance dt) (n := n) hstill] at hv
    refine ⟨?_, ?_, hanswers, hothers, hacted.registersKept fun q => by simp [hv]⟩
    · rw [hacted.str, hv]
      simp [State.mapStr_str, x, all]
    · rw [hacted.str, hv]
      simp [State.mapStr_str, otherStream_ne]
  · rw [State.appendSegments_playback (s := s.advance dt) hd] at hv
    have htaking : ((s.str n).appended gs .priming).playTaking = true := by
      obtain e | e | e | e | e := hstate <;> simp [StreamRec.playTaking, StreamRec.appended, hd, hstop, e, x]
    subst hv
    obtain ⟨htakes, hstr, hother, hgranted⟩ :=
      State.wokenFor_of dt (f := fun x => x.appended gs .priming) ⟨rfl, fun _ => rfl⟩ htaking hidle hacted
    exact ⟨htakes, hstr, hgranted, hother, hanswers, hothers⟩
  · rw [State.appendSegments_capture (s := s.advance dt) hd] at hv
    have hmay : s.mayReceive n ((s.str n).appended gs .ready) := by
      refine ⟨hd, hstop, hreceiving, ?_⟩
      obtain e | e | e | ⟨e, e'⟩ := hstate <;> simp_all [StreamRec.appended, x]
    subst hv
    obtain ⟨⟨hreceives, hstr⟩, hother, hgranted⟩ :=
      State.readiedFor_of dt (f := fun x => x.appended gs .ready) ⟨rfl, fun _ => rfl⟩ hmay hidle hacted
    have hsome : x.queue ++ gs ≠ [] := by simp [parseAppend_ne_nil hp]
    refine ⟨hreceives, hstr.trans ?_, hgranted, hother, hanswers, hothers⟩
    by_cases hdrained : (s.str n).state = .drained <;> simp [StreamRec.appended, hdrained, hsome, x]

end Append

end Sys2Proof.Machine
end

section
/-! PROOF. Stops that take effect (R103, R106, R122, R124): the record, the reply and the notice; in playback the
registers emptied (R103, R104). -/

namespace Sys2Proof.Machine

variable {s t u v told : State} {n : StreamId} {r q : LrId} {g : Segment} {req : Request} {rest : List Request}
  {kind : StopKind}

/-! ## The passage to IDLE or STOPPING -/

/-- The record in IDLE (R106, R124). -/
def StreamRec.atIdle (x : StreamRec) : StreamRec :=
  { x with state := .idle, sd := none, smk := false, stopRequest := none }

theorem State.streamToIdle_eq (hphase : v.rqe.phase = .stopping n) (hkind : (v.str n).stopRequest = some kind) :
    v.streamToIdle n = ((v.mapStr n StreamRec.atIdle).finish .ok 0 []).report (.streamStopped n kind) := by
  have hphase' : (v.mapStr n StreamRec.atIdle).rqe.phase = .stopping n := hphase
  simp only [State.streamToIdle, hkind]
  exact congrArg (fun u : State => u.report (.streamStopped n kind)) (if_pos hphase')

/-- What the stop of a stream's request makes of the state before its passage. -/
theorem State.stopNext_stopped (hphase : v.rqe.phase = .stopping n) (hqueue : v.rqe.queue = req :: rest)
    (hkind : (v.str n).stopRequest = some kind) :
    v.stopped v (v.stopNext n) n (v.str n) kind req.tag rest (v.regsFree n) := by
  unfold State.stopNext
  cases hfree : v.regsFree n with
  | true =>
    rw [if_pos rfl, State.streamToIdle_eq hphase hkind]
    have hqueue' : (v.mapStr n StreamRec.atIdle).rqe.queue = req :: rest := hqueue
    refine ⟨?_, ?_, ?_, ?_⟩
    · simp [State.mapStr_str, StreamRec.atIdle]
    · simp [State.mapStr_str, otherStream_ne]
    · refine State.report_congr ?_ ?_ _
      · rw [State.finish_spec _ _ _ _ hqueue']
        rfl
      · simp [State.enqueue]
    · have hreport : ∀ w : State, (w.report (.streamStopped n kind)).rqe = w.rqe := fun w => by simp
      rw [hreport, State.finish_spec _ _ _ _ hqueue']
      rfl
  | false =>
    rw [if_neg (by simp)]
    refine ⟨?_, by simp [State.mapStr_str, otherStream_ne], ⟨rfl, rfl⟩, ?_⟩
    · simp [State.mapStr_str, hkind]
    · simp [← hphase]

/-- In STOPPING the check of the outstanding operations is the passage again (R106, R124). -/
theorem State.checkStopped_eq (h : (s.str n).state = .stopping) : s.checkStopped n = s.stopNext n := by
  unfold State.checkStopped State.stopNext
  by_cases hfree : s.regsFree n = true
  · rw [if_pos ⟨h, hfree⟩, if_pos hfree]
  · rw [if_neg fun h => hfree h.2, if_neg hfree, State.mapStr_of_fixed]
    rw [← h]

theorem State.checkStopped_of_not (h : (s.str n).state ≠ .stopping) : s.checkStopped n = s :=
  if_neg fun h' => h h'.1

/-- The stop seen from the state before the event. -/
theorem State.stopped_of (hrqe : v.rqe = { s.rqe with phase := .stopping n }) (hqueue : s.rqe.queue = req :: rest)
    (hkind : (v.str n).stopRequest = some kind) (hother : v.str (otherStream n) = s.str (otherStream n))
    (htold : told.toldAs v) (hacted : (v.stopNext n).actedOn t) (ht : t.rqe = (v.stopNext n).rqe)
    (ht' : t.hlc = (v.stopNext n).hlc) : s.stopped told t n (v.str n) kind req.tag rest (v.regsFree n) := by
  obtain ⟨hstr, hothers, hsaid, hreq⟩ := State.stopNext_stopped (v := v) (by rw [hrqe]) (by rw [hrqe]; exact hqueue) hkind
  refine ⟨by rw [hacted.str]; exact hstr, by rw [hacted.str, hothers, hother], ?_, ?_⟩
  · rw [ht', hacted.ntu]
    cases hfree : v.regsFree n with
    | true =>
      rw [hfree] at hsaid
      have hreplied : (told.enqueue (.reply req.tag .ok 0 [])).toldAs (v.enqueue (.reply req.tag .ok 0 [])) := by
        obtain ⟨hhlc, hntu⟩ := htold
        exact ⟨by simp only [State.enqueue, hhlc], hntu⟩
      exact (hreplied.report (.streamStopped n kind)).trans (u := v.stopNext n) hsaid
    | false =>
      rw [hfree] at hsaid
      exact htold.trans (u := v.stopNext n) hsaid
  · rw [ht, hreq, hrqe]

/-! ## A stop of a playback stream takes effect (R103) -/

/-- The segments held return to the head, and the registers are emptied (R103). -/
def State.playReturned (s : State) (n : StreamId) : State :=
  (((s.mapStr n fun x => { x with
    queue := (s.heldRegs n).filterMap (fun r => (s.lr r).segment) ++ x.queue
    starvedRun := 0 }).emptyReg (evenReg n)).emptyReg (oddReg n))

theorem State.playStopEffect_eq (s : State) (n : StreamId) : s.playStopEffect n = (s.playReturned n).stopNext n := rfl

theorem LineReg.cleared_congr {x y : LineReg} (h : x.content = y.content) (d : Option DiscardKind) :
    x.cleared d = y.cleared d := by
  simp only [LineReg.cleared, h]

theorem LineReg.cleared_isFree (x : LineReg) (d : Option DiscardKind) : (x.cleared d).isFree = (d == none) := by
  simp [LineReg.isFree, LineReg.cleared, LineReg.atInit]

theorem State.playReturned_lr (s : State) (hq : streamOf q = some n) :
    (s.playReturned n).lr q = (s.lr q).cleared (s.operationKind q) := by
  have hacts : s.engineActs ((s.mapStr n fun x => { x with
      queue := (s.heldRegs n).filterMap (fun r => (s.lr r).segment) ++ x.queue
      starvedRun := 0 }).emptyReg (evenReg n)) :=
    (State.engineClosed s).emptyReg (streamOf_evenReg n) ((State.engineClosed s).mapStr _ (.refl s))
  rw [State.playReturned, State.emptyReg_lr, State.emptyReg_lr, hacts.operationKind, State.emptyReg_lr]
  obtain rfl | rfl := streamOf_eq_some.1 hq
  · cases n <;> rfl
  · cases n <;> rfl

theorem State.playReturned_idle (s : State) (hq : streamOf q = some n) : (s.playReturned n).claimPending q = false := by
  obtain rfl | rfl := streamOf_eq_some.1 hq
  · simp [State.playReturned, State.emptyReg_spec, State.claimPending]
  · exact State.emptyReg_claimPending _ _

theorem State.playReturned_regsFree (s : State) (n : StreamId) : (s.playReturned n).regsFree n = s.idles n := by
  rw [State.regsFree, State.playReturned_lr s (streamOf_evenReg n), State.playReturned_lr s (streamOf_oddReg n),
    LineReg.cleared_isFree, LineReg.cleared_isFree, State.idles]

theorem State.idles_congr (h : s.engineActs u) : u.idles n = s.idles n := by
  rw [State.idles, h.operationKind, h.operationKind, State.idles]

/-- A stop takes effect on the state `u` that the engine made of `s` (R103). -/
theorem State.playStop_of (hacts : s.engineActs u) (hcontent : ∀ q, streamOf q = some n → (u.lr q).content = (s.lr q).content)
    (hrqe : u.rqe = { s.rqe with phase := .stopping n }) (hqueue : s.rqe.queue = req :: rest)
    (hkind : (u.str n).stopRequest = some kind) (hother : u.str (otherStream n) = s.str (otherStream n))
    (htold : told.toldAs u) (hacted : (u.playStopEffect n).actedOn t) (ht : t.rqe = (u.playStopEffect n).rqe)
    (ht' : t.hlc = (u.playStopEffect n).hlc) :
    s.stopped told t n { u.str n with
          queue := (u.heldRegs n).filterMap (fun r => (u.lr r).segment) ++ (u.str n).queue
          starvedRun := 0 } kind req.tag rest (s.idles n)
      ∧ ∀ q, streamOf q = some n → s.emptied t q := by
  rw [State.playStopEffect_eq] at hacted ht ht'
  have hstr : ∀ m, (u.playReturned n).str m = if m = n then { u.str n with
      queue := (u.heldRegs n).filterMap (fun r => (u.lr r).segment) ++ (u.str n).queue
      starvedRun := 0 } else u.str m := fun m => by simp [State.playReturned, State.mapStr_str]
  have hself := hstr n
  rw [if_pos rfl] at hself
  constructor
  · have hstop := State.stopped_of (s := s) (v := u.playReturned n) (told := told) (kind := kind) (req := req)
      (rest := rest) (by simp [State.playReturned, hrqe]) hqueue (by rw [hself]; exact hkind)
      (by rw [hstr, if_neg (otherStream_ne n), hother]) (htold.trans ⟨by simp [State.playReturned], by simp [State.playReturned]⟩)
      hacted ht ht'
    rw [State.playReturned_regsFree, State.idles_congr hacts, hself] at hstop
    exact hstop
  · intro q hq
    have hlr : ((u.playReturned n).stopNext n).lr q = (u.playReturned n).lr q := by simp
    have hidle : ((u.playReturned n).stopNext n).claimPending q = false := by
      rw [State.claimPending_congr (s := u.playReturned n) (by simp)]
      exact State.playReturned_idle u hq
    rw [State.emptied, hacted.idle hidle, hlr, State.playReturned_lr u hq, hacts.operationKind]
    exact LineReg.cleared_congr (hcontent q hq) _

/-! ## A register given up -/

/-- The state `u` that an engine made of `s` by emptying the register `r`. -/
structure State.gaveUp (s u : State) (n : StreamId) (r : LrId) : Prop where
  acts : s.engineActs u
  lr : ∀ q, u.lr q = if q = r then (s.lr r).cleared (s.operationKind r) else s.lr q
  claims : u.arb.claims = s.arb.claims.filter fun c => !c.isOf r
  other : u.str (otherStream n) = s.str (otherStream n)

theorem State.gaveUp_emptyReg (hacts : s.engineActs u) (hlr : ∀ q, u.lr q = s.lr q) (hclaims : u.arb.claims = s.arb.claims)
    (hother : u.str (otherStream n) = s.str (otherStream n)) (hr : streamOf r = some n) : s.gaveUp (u.emptyReg r) n r where
  acts := (State.engineClosed s).emptyReg hr hacts
  lr q := by rw [State.emptyReg_lr, hlr, hlr, hacts.operationKind]
  claims := by rw [State.emptyReg_spec, ← hclaims]
  other := by simpa using hother

theorem State.gaveUp.mapStr (h : s.gaveUp u n r) (f : StreamRec → StreamRec) : s.gaveUp (u.mapStr n f) n r where
  acts := (State.engineClosed s).mapStr f h.acts
  lr q := by simpa using h.lr q
  claims := by simpa using h.claims
  other := by simpa [State.mapStr_str, otherStream_ne] using h.other

theorem State.gaveUp.report (h : s.gaveUp u n r) (x : Notice) : s.gaveUp (u.report x) n r where
  acts := (State.engineClosed s).report x h.acts
  lr q := by simpa using h.lr q
  claims := by simpa using h.claims
  other := by simpa using h.other

theorem State.gaveUp.content (h : s.gaveUp u n r) (q : LrId) : (u.lr q).content = (s.lr q).content := by
  rw [h.lr]
  split
  · next e => rw [e]; rfl
  · rfl

theorem LrId.partner_ne : streamOf r = some n → r.partner ≠ r := by
  cases r <;> cases n <;> decide

theorem streamOf_partner : streamOf r = some n → streamOf r.partner = some n := by
  cases r <;> cases n <;> decide

/-- The stream's registers are a register and its partner. -/
theorem eq_or_partner (h : streamOf r = some n) (hq : streamOf q = some n) : q = r ∨ q = r.partner := by
  cases n <;> cases r <;> cases h <;> cases q <;> cases hq <;> decide

/-- With the one register emptied, the stream holds its partner's segment or none. -/
theorem State.gaveUp.held (h : s.gaveUp u n r) (hr : streamOf r = some n) :
    (u.heldRegs n).filterMap (fun q => (u.lr q).segment) = (s.lr r.partner).segment.toList := by
  have hself : (u.lr r).segment = none := by
    rw [h.lr, if_pos rfl]
    rfl
  have hpartner : u.lr r.partner = s.lr r.partner := by rw [h.lr, if_neg (LrId.partner_ne hr)]
  rw [← hpartner]
  obtain rfl | rfl := streamOf_eq_some.1 hr
  · have hp : (evenReg n).partner = oddReg n := by cases n <;> rfl
    rw [hp]
    cases ho : (u.lr (oddReg n)).segment <;> simp [State.heldRegs, hself, ho]
  · have hp : (oddReg n).partner = evenReg n := by cases n <;> rfl
    rw [hp]
    cases he : (u.lr (evenReg n)).segment <;> simp [State.heldRegs, hself, he]

/-- A stop takes effect after a register was given up (R104, R105). -/
theorem State.gaveUp.playStop (h : s.gaveUp u n r) (hr : streamOf r = some n)
    (hrqe : u.rqe = { s.rqe with phase := .stopping n }) (hqueue : s.rqe.queue = req :: rest)
    (hkind : (u.str n).stopRequest = some kind) (htold : told.toldAs u) (hacted : (u.playStopEffect n).actedOn t)
    (ht : t.rqe = (u.playStopEffect n).rqe) (ht' : t.hlc = (u.playStopEffect n).hlc) :
    s.stopped told t n { u.str n with
          queue := (s.lr r.partner).segment.toList ++ (u.str n).queue
          starvedRun := 0 } kind req.tag rest (s.idles n)
      ∧ ∀ q, streamOf q = some n → s.emptied t q := by
  have hstop := State.playStop_of h.acts (fun q _ => h.content q) hrqe hqueue hkind h.other htold hacted ht ht'
  rwa [h.held hr] at hstop

end Sys2Proof.Machine
end

section
/-! PROOF. STREAM_STOP of a playback stream (R102-R106; log entry 25). -/

namespace Sys2Proof.Machine

variable {s t u told : State} {n : StreamId} {r : LrId} {g : Segment} {tag b : Byte} {rest : List Request}
  {kind : StopKind} (dt : Nat) (tie : TieOrder)

/-- The stop recorded (R104, R105). -/
def State.stopRecorded (s : State) (n : StreamId) (k : StopKind) : State :=
  (s.mapStr n fun x => { x with stopRequest := some k }).setPhase (.stopping n)

theorem streamStop_of_heads (h : s.heads tag .streamStop [b, kind.code] rest) (hn : streamOfCode b = some n)
    (hdisabled : (s.str n).state ≠ .disabled) (hidle : (s.str n).state ≠ .idle) :
    streamStop tie (s.advance dt) = ((s.advance dt).stopStream n kind).begun tie := by
  have hstarted : ((s.advance dt).str n).unstarted = false := by
    simp [StreamRec.unstarted, hdisabled, hidle]
  have hkind : StopKind.ofCode kind.code = some kind := by cases kind <;> rfl
  simp only [streamStop, State.beginning_of_heads dt h, parseStop, hn, hstarted, hkind]
  rfl

theorem State.stopRecorded_str (s : State) (n : StreamId) (k : StopKind) (m : StreamId) :
    (s.stopRecorded n k).str m = if m = n then { s.str n with stopRequest := some k } else s.str m := by
  cases n <;> cases m <;> rfl

/-- A stop that is only recorded (R105, R123). -/
theorem State.stopRecorded_begun (s : State) (n : StreamId) (k : StopKind) :
    let t := ((s.advance dt).stopRecorded n k).begun tie
    t.str n = { s.str n with stopRequest := some k } ∧ t.str (otherStream n) = s.str (otherStream n)
      ∧ t.rqe = { s.rqe with phase := .stopping n } ∧ t.hlc = s.hlc ∧ t.ntu = s.ntu ∧ s.othersKept t
      ∧ s.registersKept t := by
  intro t
  have hacted := ((s.advance dt).stopRecorded n k).begun_actedOn tie
  have hacts : s.engineActs ((s.advance dt).stopRecorded n k) := ⟨rfl, rfl, rfl, rfl, rfl, rfl⟩
  refine ⟨?_, ?_, by simp [t, State.stopRecorded], by simp [t, State.stopRecorded], by simp [t, State.stopRecorded],
    hacted.othersKept hacts (by simp [State.stopRecorded]), hacted.registersKept fun q => by simp [State.stopRecorded]⟩
  · rw [hacted.str, State.stopRecorded_str, if_pos rfl]
    rfl
  · rw [hacted.str, State.stopRecorded_str, if_neg (otherStream_ne n)]
    rfl

/-! ## The stop's branches -/

theorem State.stopStream_after (hd : (s.str n).direction = .playback) (hbegun : s.playBegun n = true) :
    s.stopStream n .afterSegment = s.stopRecorded n .afterSegment := by
  simp only [State.stopStream, hd, hbegun]
  rfl

theorem State.stopRecorded_playBegun (s : State) (n : StreamId) (k : StopKind) :
    (s.stopRecorded n k).playBegun n = s.playBegun n := by
  simp only [State.playBegun, State.stopRecorded_str, if_pos]
  rfl

theorem State.stopStream_now (hd : (s.str n).direction = .playback) (hcur : s.playCurrent n = some r)
    (hg : (s.lr r).segment = some g) (hbegun : s.playBegun n = true) :
    s.stopStream n .now = (s.stopRecorded n .now).playStopDrop n r g := by
  have hstop : s.stopStream n .now = (s.stopRecorded n .now).playStopNow n := by
    simp only [State.stopStream, hd]
    rfl
  have hcur' : (s.stopRecorded n .now).playCurrent n = some r := hcur
  have hg' : ((s.stopRecorded n .now).lr r).segment = some g := hg
  rw [hstop, State.playStopNow_eq, hcur', State.stopRecorded_playBegun, hbegun]
  simp only [hg']

theorem State.stopStream_idle (hd : (s.str n).direction = .playback) (hbegun : s.playBegun n = false) :
    s.stopStream n kind = (s.stopRecorded n kind).playStopEffect n := by
  cases kind with
  | afterSegment =>
    simp only [State.stopStream, hd, hbegun]
    rfl
  | now =>
    have hstop : s.stopStream n .now = (s.stopRecorded n .now).playStopNow n := by
      simp only [State.stopStream, hd]
      rfl
    rw [hstop, State.playStopNow_eq, State.stopRecorded_playBegun, hbegun]
    split
    · rfl
    · split
      · next hfalse => cases hfalse
      · rfl

/-- What a stop reports of the begun segment (R104). -/
def State.stopNotice (s : State) (n : StreamId) (r : LrId) (g : Segment) : Notice :=
  if (s.str n).state = .starved then .streamUnderrun n g.row (s.str n).starvedRun .dropped
  else .segmentAbandoned n g.row .stop ((s.lr r).remaining g)

/-- The copy of a finished segment at the tail, in cyclic mode (R101). -/
def StreamRec.copied (x : StreamRec) (g : Segment) : StreamRec :=
  { x with queue := x.queue ++ if x.cyclic then [g] else [] }

theorem State.playCopy_eq (s : State) (n : StreamId) (g : Segment) : s.playCopy n g = s.mapStr n fun x => x.copied g := by
  unfold State.playCopy
  split
  · next h => exact State.mapStr_congr (by simp [StreamRec.copied, h])
  · next h => exact (State.mapStr_of_fixed (by rw [StreamRec.copied, if_neg h, List.append_nil])).symm

/-- A begun segment given up by a stop (R104). -/
def State.playDropped (s : State) (n : StreamId) (r : LrId) (g : Segment) : State :=
  (((s.report (s.stopNotice n r g)).count n fun c => { c with dropped := satAdd c.dropped 1 }).emptyReg r).playCopy n g

theorem State.playStopDrop_eq (s : State) (n : StreamId) (r : LrId) (g : Segment) :
    s.playStopDrop n r g = (s.playDropped n r g).playStopEffect n := by
  unfold State.playStopDrop State.playDropped State.stopNotice
  split <;> rfl

/-- Settles O38: a begun segment makes the stop wait, or is given up; else the stop takes effect at once. -/
theorem stopOfPlayback : Obligations.StopOfPlayback := by
  intro s dt tie tag b kind rest n h hn hd hdisabled hidle x
  obtain ⟨-, -, hqueue⟩ := id h
  have hrun : ∀ {φ : State → Prop}, φ (((s.advance dt).stopStream n kind).begun tie) →
      Completes (.streamStop ⟨dt, tie⟩) s φ := fun hφ => by
    refine completes_of_run s (i := .streamStop ⟨dt, tie⟩) rfl ?_
    simp only [Instr.run, Instr.elapsed]
    rwa [streamStop_of_heads dt tie h hn hdisabled hidle]
  have hrec : ((s.advance dt).stopRecorded n kind).str n = { s.str n with stopRequest := some kind } := by
    rw [State.stopRecorded_str, if_pos rfl]
    rfl
  refine ⟨fun r g hcur hg hbegun => ?_, fun hbegun => hrun ?_⟩
  · have hbegun' : (s.advance dt).playBegun n = true := by
      have hcur' : (s.advance dt).playCurrent n = some r := hcur
      simp only [State.playBegun, hcur', Bool.or_eq_true, beq_iff_eq]
      exact hbegun
    refine ⟨?_, ?_⟩
    · rintro rfl
      refine hrun ?_
      rw [State.stopStream_after (s := s.advance dt) hd hbegun']
      exact s.stopRecorded_begun dt tie n .afterSegment
    · rintro rfl
      refine hrun ?_
      have hr := State.streamOf_playCurrent hcur
      rw [State.stopStream_now (s := s.advance dt) hd hcur hg hbegun', State.playStopDrop_eq]
      generalize hu : ((s.advance dt).stopRecorded n .now).playDropped n r g = u
      have hgave : s.gaveUp u n r := by
        rw [← hu, State.playDropped, State.playCopy_eq]
        refine (State.gaveUp_emptyReg ?_ (fun q => by simp [State.stopRecorded]) (by simp [State.stopRecorded]) ?_ hr).mapStr _
        · exact (State.engineClosed s).count _ ((State.engineClosed s).report _ ⟨rfl, rfl, rfl, rfl, rfl, rfl⟩)
        · simp [State.count, State.mapStr_str, otherStream_ne, State.stopRecorded_str]
      have hstr : u.str n = { x with
          stopRequest := some .now
          queue := x.queue ++ if x.cyclic then [g] else []
          counters := { x.counters with dropped := satAdd x.counters.dropped 1 } } := by
        rw [← hu, State.playDropped, State.playCopy_eq]
        simp [State.count, State.mapStr_str, hrec, StreamRec.copied, x]
      have htold : (s.report (s.stopNotice n r g)).toldAs u := by
        have hnotice : ((s.advance dt).stopRecorded n .now).stopNotice n r g = s.stopNotice n r g := by
          simp only [State.stopNotice, hrec]
          rfl
        rw [← hu, State.playDropped, hnotice]
        exact (State.toldAs.report (s := s) (t := (s.advance dt).stopRecorded n .now) ⟨rfl, rfl⟩ _).trans
          ⟨by simp, by simp⟩
      have hrqe : u.rqe = { s.rqe with phase := .stopping n } := by
        rw [← hu, State.playDropped]
        simp [State.stopRecorded]
      have hacted := (u.playStopEffect n).begun_actedOn tie
      have hacts := (State.engineClosed s).playStopEffect (n := n) hgave.acts
      obtain ⟨hstopped, hemptied⟩ := hgave.playStop hr hrqe hqueue (by rw [hstr]) htold hacted (by simp) (by simp)
      rw [hstr] at hstopped
      refine ⟨?_, hemptied _ (streamOf_evenReg n), hemptied _ (streamOf_oddReg n), hacted.cellsKept hacts, hacted.rfe_of hacts⟩
      rw [List.append_assoc]
      exact hstopped
  · have hbegun' : (s.advance dt).playBegun n = false := by
      cases hcur : s.playCurrent n with
      | none =>
        have hcur' : (s.advance dt).playCurrent n = none := hcur
        simp only [State.playBegun, hcur']
      | some r =>
        have hcur' : (s.advance dt).playCurrent n = some r := hcur
        obtain ⟨hnot, hne⟩ := hbegun r hcur
        simp only [State.playBegun, hcur', Bool.or_eq_false_iff, beq_eq_false_iff_ne]
        exact ⟨hnot, hne⟩
    rw [State.stopStream_idle (s := s.advance dt) hd hbegun']
    have hacts : s.engineActs ((s.advance dt).stopRecorded n kind) := ⟨rfl, rfl, rfl, rfl, rfl, rfl⟩
    have hacted := (((s.advance dt).stopRecorded n kind).playStopEffect n).begun_actedOn tie
    have hacts' := (State.engineClosed s).playStopEffect (n := n) hacts
    obtain ⟨hstopped, hemptied⟩ := State.playStop_of hacts (fun q _ => by simp [State.stopRecorded]) rfl hqueue
      (by rw [hrec]) (by simp [State.stopRecorded_str, otherStream_ne]) (State.toldAs.refl s) hacted (by simp) (by simp)
    rw [hrec] at hstopped
    exact ⟨hstopped, hemptied _ (streamOf_evenReg n), hemptied _ (streamOf_oddReg n), hacted.cellsKept hacts',
      hacted.rfe_of hacts'⟩

end Sys2Proof.Machine
end

section
/-! PROOF. Playback segments that end: by their last cell (R90, R100, R101, R105), or dropped under ALIGN (R97). -/

namespace Sys2Proof.Machine

variable {s t u v told : State} {n : StreamId} {r q : LrId} {g : Segment} (dt : Nat)

/-! ## The refill (R90 steps 4 and 5, R97 steps 6 and 7) -/

/-- The stream holds no segment after its takes (R100). -/
def State.refillDrains (s : State) (n : StreamId) : Bool :=
  ((s.freeOf (regsOf n)).isEmpty || (s.str n).queue.isEmpty) && (s.heldRegs n).isEmpty

/-- What the refill makes of the state. -/
structure State.refilledFrom (u v : State) (n : StreamId) : Prop where
  takes : u.takesFor v n (u.freeOf (regsOf n)) (u.str n).queue
  str : v.str n = { u.str n with
    state := if u.refillDrains n then .drained else (u.str n).state }.takenFrom (v.str n)
  other : v.str (otherStream n) = u.str (otherStream n)
  lr : ∀ q, q ∉ u.freeOf (regsOf n) → v.lr q = u.lr q
  steady : ∀ q, u.claimPending q = false → v.steady q
  told : (u.reportIf (u.refillDrains n) (.streamDrained n)).toldAs v
  rqe : v.rqe = u.rqe

theorem State.drain_str (s : State) (n m : StreamId) :
    (s.drain n).str m = if m = n then { s.str n with state := .drained } else s.str m := by
  simp [State.drain, State.mapStr_str]

theorem State.playRefill_refilledFrom (h : (u.str n).playTaking = true) : u.refilledFrom (u.playRefill n) n := by
  have htook := State.playTakes_tookFrom h
  have hdrains := State.playTakes_heldRegs h
  have hhlc : (u.playTakes n).hlc = u.hlc ∧ (u.playTakes n).ntu = u.ntu := by simp
  unfold State.playRefill
  rw [← State.refillDrains] at hdrains
  generalize hw : u.playTakes n = w at *
  cases hd : u.refillDrains n with
  | false =>
    have hheld : ¬ (w.heldRegs n).isEmpty = true := by rw [hdrains, hd]; simp
    simp only [if_neg hheld]
    refine ⟨htook.takes, ?_, htook.other _ (otherStream_ne n), htook.lr, fun q => htook.steady, ?_, by simp [← hw]⟩
    · simpa [hd] using htook.str
    · rw [hd]
      exact hhlc
  | true =>
    have hheld : (w.heldRegs n).isEmpty = true := by rw [hdrains, hd]
    simp only [if_pos hheld]
    have hself : (w.drain n).str n = { w.str n with state := .drained } := by rw [State.drain_str, if_pos rfl]
    refine ⟨?_, ?_, ?_, fun q hq => ?_, fun q hq => ?_, ?_, ?_⟩
    · obtain ⟨htakes, hidle, hqueue, hcount, hflags⟩ := htook.takes
      refine ⟨fun i p k hp hk => ?_, fun i p hp hi => ?_, by rw [hself]; exact hqueue, by rw [hself]; exact hcount,
        fun p hp => by rw [hself]; exact hflags p hp⟩
      · have hclaim : ∀ c, (w.drain n).hasClaim c ↔ w.hasClaim c := fun c => by
          rw [State.hasClaim, State.holdsClaim_congr (s := w) (by simp), State.hasClaim]
        rw [hclaim]
        simpa using htakes i p k hp hk
      · simpa using hidle i p hp hi
    · rw [hself, htook.str, hd]
      rfl
    · rw [State.drain_str, if_neg (otherStream_ne n), htook.other _ (otherStream_ne n)]
    · simpa using htook.lr q hq
    · have := htook.steady hq
      simpa [State.steady] using this
    · rw [hd]
      exact State.toldAs.report (s := u) (t := w.mapStr n fun x => { x with state := .drained }) ⟨hhlc.1, hhlc.2⟩ _
    · simp [← hw]

/-! ## A register given up, and the refill -/

theorem State.gaveUp.freeOf (h : s.gaveUp u n r) :
    u.freeOf (regsOf n) = [evenReg n, oddReg n].filter fun p =>
      if p = r then s.operationKind r == none else (s.lr p).isFree := by
  refine List.filter_congr fun p _ => ?_
  rw [h.lr]
  split
  · exact LineReg.cleared_isFree _ _
  · rfl

theorem State.gaveUp.heldRegs_isEmpty (h : s.gaveUp u n r) (hr : streamOf r = some n) :
    (u.heldRegs n).isEmpty = (s.lr r.partner).segment.isNone := by
  have hpartner : u.lr r.partner = s.lr r.partner := by rw [h.lr, if_neg (LrId.partner_ne hr)]
  have hself : (u.lr r).segment = none := by
    rw [h.lr, if_pos rfl]
    rfl
  rw [Bool.eq_iff_iff, State.heldRegs_isEmpty_iff, Option.isNone_iff_eq_none, ← hpartner]
  refine ⟨fun hall => hall _ (streamOf_partner hr), fun hnone q hq => ?_⟩
  obtain rfl | rfl := eq_or_partner hr hq
  · exact hself
  · exact hnone

theorem State.gaveUp.idle (h : s.gaveUp u n r) : u.claimPending r = false := by
  simp [State.claimPending, h.claims]

theorem State.gaveUp.idle_of (h : s.gaveUp u n r) (hq : s.claimPending q = false) : u.claimPending q = false := by
  refine List.any_eq_false.2 fun c hc => ?_
  rw [h.claims] at hc
  exact List.any_eq_false.1 hq c (List.mem_of_mem_filter hc)

/-- The refill after a register was given up, seen from before. -/
theorem State.gaveUp.refill (h : s.gaveUp u n r) (hr : streamOf r = some n) (htaking : (u.str n).playTaking = true)
    (hsame : (s.str n).sameTakes (u.str n)) (hidle : (s.lr r.partner).isFree = true → s.claimPending r.partner = false)
    (hacted : (u.playRefill n).actedOn t) :
    s.takesFor t n (u.freeOf (regsOf n)) (u.str n).queue
      ∧ t.str n = { u.str n with state := if u.refillDrains n then .drained else (u.str n).state }.takenFrom (t.str n)
      ∧ t.str (otherStream n) = s.str (otherStream n)
      ∧ (r ∉ u.freeOf (regsOf n) → s.emptied t r)
      ∧ ((s.lr r.partner).isFree = false → s.granted t r.partner) := by
  have hrefilled := State.playRefill_refilledFrom htaking
  have hpartner : u.lr r.partner = s.lr r.partner := by rw [h.lr, if_neg (LrId.partner_ne hr)]
  have hfree : ∀ p ∈ u.freeOf (regsOf n), u.claimPending p = false := fun p hp => by
    obtain ⟨hmem, hpfree⟩ := List.mem_filter.1 hp
    obtain rfl | rfl := eq_or_partner hr (mem_regsOf.1 hmem)
    · exact h.idle
    · rw [hpartner] at hpfree
      exact h.idle_of (hidle hpfree)
  refine ⟨?_, by rw [hacted.str]; exact hrefilled.str, by rw [hacted.str, hrefilled.other, h.other], fun hnot => ?_,
    fun hbusy => hacted.granted ?_⟩
  · refine State.takesFor_acted (State.takesFor_congr hrefilled.takes (fun p _ => h.content p) hsame.1 fun p _ => hsame.2 p)
      hacted fun p hp => hrefilled.steady p (hfree p hp)
  · rw [State.emptied, hacted.steady r (hrefilled.steady r h.idle), hrefilled.lr r hnot, h.lr, if_pos rfl]
  · rw [hrefilled.lr _ fun hp => ?_, hpartner]
    have := (List.mem_filter.1 hp).2
    rw [hpartner, hbusy] at this
    cases this

/-! ## The last cell (R90, R101) -/

/-- The record after a segment was completed (R90, R101). -/
def StreamRec.completed (x : StreamRec) (g : Segment) : StreamRec :=
  { x with
    queue := x.queue ++ if x.cyclic then [g] else []
    counters := { x.counters with completed := satAdd x.counters.completed 1 } }

/-- The last cell output, the register emptied, the segment counted and copied (R90, R101). -/
def State.playEnded (s : State) (n : StreamId) (r : LrId) (g : Segment) : State :=
  ((s.playOutput n r g).emptyReg r).mapStr n fun x => x.completed g

theorem State.playRead_last (hlast : g.count * 64 ≤ (s.lr r).position + 1) (hpasses : (s.lr r).passesLeft ≤ 1) :
    s.playRead n r g = (s.playEnded n r g).playAfterEnd n := by
  rw [State.playRead_eq, LineReg.advanced_none _ g hlast hpasses, State.playEnded]
  simp only [State.playCopy_eq, State.count, State.mapStr_mapStr]
  rfl

theorem State.playEnded_spec (s : State) (n : StreamId) (g : Segment) (hr : streamOf r = some n) :
    s.gaveUp (s.playEnded n r g) n r ∧ (s.playEnded n r g).str n = ((s.str n).read (s.lr r) g).completed g
      ∧ (s.reportMark n g ((s.lr r).atFirst g)).toldAs (s.playEnded n r g) ∧ (s.playEnded n r g).rqe = s.rqe := by
  obtain ⟨hstr, hother, hrqe, harb, hlrb, htold⟩ := s.playOutput_spec n r g
  have hacts := (State.engineClosed s).playOutput (n := n) (r := r) (g := g) (.refl s)
  unfold State.playEnded
  generalize s.playOutput n r g = w at *
  have hgave := State.gaveUp_emptyReg hacts (fun q => by rw [State.lr, hlrb]; rfl) (by rw [harb]) hother hr
  exact ⟨hgave.mapStr _, by simp [State.mapStr_str, hstr], htold.trans ⟨by simp, by simp⟩, by simp [hrqe]⟩

theorem State.gaveUp.of_advance {dt : Nat} (h : (s.advance dt).gaveUp u n r) : s.gaveUp u n r :=
  ⟨⟨h.acts.rat, h.acts.rfe, h.acts.sst, h.acts.powered, h.acts.hrst, h.acts.circuit⟩, h.lr, h.claims, h.other⟩

theorem State.gaveUp.refillDrains (h : s.gaveUp u n r) (hr : streamOf r = some n) :
    u.refillDrains n =
      (((u.freeOf (regsOf n)).isEmpty || (u.str n).queue.isEmpty) && (s.lr r.partner).segment.isNone) := by
  rw [State.refillDrains, h.heldRegs_isEmpty hr]

theorem State.rqe_stopping (h : s.rqe.phase = .stopping n) : s.rqe = { s.rqe with phase := .stopping n } := by
  rw [← h]

/-- Settles O41: the register is given up; then the refill, or the waiting stop. -/
theorem playbackSegmentEnd : Obligations.PlaybackSegmentEnd := by
  intro s dt n r g hlive hd hst hcur hg hr hlast hpasses hoperation x o cell first marked all counters
  have hrn := State.streamOf_playCurrent hcur
  obtain ⟨hgave, hstr, htold, hrqe⟩ := (s.advance dt).playEnded_spec n g hrn
  have hrun : ∀ {φ : State → Prop}, φ (((s.advance dt).playEnded n r g).playAfterEnd n).settle →
      Completes (.playbackEdge dt n) s φ := fun hφ => by
    refine completes_of_run s (i := .playbackEdge dt n) rfl ?_
    simp only [Instr.run, Instr.elapsed]
    rwa [playbackEdge_of_live (s := s.advance dt) hlive hd, State.playEdge_read (s := s.advance dt) hst hcur hg hr,
      State.playRead_last (s := s.advance dt) hlast hpasses]
  replace hgave := hgave.of_advance
  have hmarked : State.toldAs marked ((s.advance dt).playEnded n r g) :=
    (State.toldAs.reportMark (s := s) (t := s.advance dt) (n := n) (g := g) ⟨rfl, rfl⟩ ((s.lr r).atFirst g)).trans htold
  generalize (s.advance dt).playEnded n r g = u at *
  have hstop : (u.str n).stopRequest = x.stopRequest := by rw [hstr]; rfl
  have hqueue : (u.str n).queue = all := by rw [hstr]; rfl
  refine ⟨fun hnone hidle => hrun ?_, fun req rest hafter hphase hreq => hrun ?_⟩
  · have hend : u.playAfterEnd n = u.playRefill n := if_neg (by rw [hstop, hnone]; simp)
    rw [hend]
    have htaking : (u.str n).playTaking = true := by
      rw [hstr]
      simp [StreamRec.playTaking, StreamRec.completed, StreamRec.read, hd, show (s.str n).stopRequest = none from hnone]
    have hacted := (u.playRefill n).settle_actedOn
    have hacts := (State.engineClosed s).playRefill (n := n) hgave.acts
    have hrefilled := State.playRefill_refilledFrom htaking
    obtain ⟨htakes, hrec, hother, -, hgranted⟩ :=
      hgave.refill hrn htaking (by rw [hstr]; exact ⟨rfl, fun q => by cases q <;> rfl⟩) hidle hacted
    have hfree : u.freeOf (regsOf n) = [evenReg n, oddReg n].filter fun p => p == r || (s.lr p).isFree := by
      rw [hgave.freeOf]
      refine List.filter_congr fun p _ => ?_
      by_cases hp : p = r <;> simp [hp, hoperation]
    have hnonempty : (u.freeOf (regsOf n)).isEmpty = false := by
      rw [hfree, List.isEmpty_eq_false_iff_exists_mem]
      exact ⟨r, List.mem_filter.2 ⟨mem_regsOf.2 hrn, by simp⟩⟩
    have hdrains : u.refillDrains n = (all.isEmpty && (s.lr o).segment.isNone) := by
      rw [hgave.refillDrains hrn, hnonempty, hqueue, Bool.false_or]
    rw [hfree, hqueue] at htakes
    rw [hdrains, hstr] at hrec
    refine ⟨htakes, hrec, ?_, hgranted, hother, ?_, hacted.cellsKept hacts, hacted.rfe_of hacts⟩
    · have := (hmarked.reportIf (u.refillDrains n) (.streamDrained n)).trans hrefilled.told
      rw [hdrains] at this
      exact this.trans (u := (u.playRefill n).settle) ⟨by simp, by simp⟩
    · simp [hrqe]
  · have hend : u.playAfterEnd n = u.playStopEffect n := if_pos (by rw [hstop, hafter])
    rw [hend]
    have hacted := (u.playStopEffect n).settle_actedOn
    have hacts := (State.engineClosed s).playStopEffect (n := n) hgave.acts
    obtain ⟨hstopped, hemptied⟩ := hgave.playStop hrn (hrqe.trans (State.rqe_stopping hphase)) hreq
      (by rw [hstop, hafter]) hmarked hacted (by simp) (by simp)
    rw [hqueue, hstr] at hstopped
    exact ⟨hstopped, hemptied r hrn, hemptied o (streamOf_partner hrn), hacted.cellsKept hacts, hacted.rfe_of hacts⟩

/-! ## The waited segment dropped under ALIGN (R97) -/

/-- The record after a segment was dropped (R97, R101). -/
def StreamRec.dropped (x : StreamRec) (g : Segment) : StreamRec :=
  { x with
    queue := x.queue ++ if x.cyclic then [g] else []
    starvedRun := 0
    counters := { x.counters with dropped := satAdd x.counters.dropped 1 } }

/-- The waited segment's register emptied, the drop reported, counted and copied (R97, R101). -/
def State.alignDropped (s : State) (n : StreamId) (r : LrId) (g : Segment) : State :=
  ((s.emptyReg r).report (.streamUnderrun n g.row (s.str n).starvedRun .dropped)).mapStr n fun x => x.dropped g

theorem State.starvedMeets_drop (hpolicy : (s.str n).policy = .align) (hlast : g.count * 64 ≤ (s.lr r).position + 1)
    (hpasses : (s.lr r).passesLeft ≤ 1) : s.starvedMeets n r g = (s.alignDropped n r g).playAfterDrop n := by
  simp only [State.starvedMeets, hpolicy, LineReg.advanced_none _ g hlast hpasses, State.playDrop, State.playCopy_eq,
    State.mapStr_mapStr]
  rfl

theorem State.alignDropped_spec (s : State) (n : StreamId) (g : Segment) (hr : streamOf r = some n) :
    s.gaveUp (s.alignDropped n r g) n r ∧ (s.alignDropped n r g).str n = (s.str n).dropped g
      ∧ (s.report (.streamUnderrun n g.row (s.str n).starvedRun .dropped)).toldAs (s.alignDropped n r g)
      ∧ (s.alignDropped n r g).rqe = s.rqe := by
  unfold State.alignDropped
  have hgave := State.gaveUp_emptyReg (State.engineActs.refl s) (fun _ => rfl) rfl rfl hr
  exact ⟨(hgave.report _).mapStr _, by simp [State.mapStr_str],
    (State.toldAs.report (s := s) (t := s.emptyReg r) ⟨by simp, by simp⟩ _).trans ⟨rfl, rfl⟩, by simp⟩

theorem State.gaveUp.playCurrent (h : s.gaveUp u n r) (hr : streamOf r = some n) :
    u.playCurrent n = if (s.lr r.partner).segment.isSome then some r.partner else none := by
  have hpartner : u.lr r.partner = s.lr r.partner := by rw [h.lr, if_neg (LrId.partner_ne hr)]
  cases hc : u.playCurrent n with
  | none =>
    have hempty : (u.heldRegs n).isEmpty = true := List.isEmpty_iff.2 (List.head?_eq_none_iff.1 hc)
    rw [h.heldRegs_isEmpty hr] at hempty
    rw [if_neg]
    simpa using hempty
  | some q =>
    obtain ⟨hq, hsome⟩ := State.mem_heldRegs.1 (List.mem_of_head? hc)
    obtain rfl | rfl := eq_or_partner hr hq
    · rw [h.lr, if_pos rfl] at hsome
      cases hsome
    · rw [hpartner] at hsome
      rw [if_pos hsome]

/-- After a drop a LOADED standby ends the episode, and the registers take (R97). -/
def State.episodeEnded (u : State) (n : StreamId) (ends : Bool) : State :=
  u.mapStr n fun x => { x with state := if ends then .running else x.state }

theorem State.gaveUp.playAfterDrop (h : s.gaveUp u n r) (hr : streamOf r = some n) (hstop : (u.str n).stopRequest = none) :
    u.playAfterDrop n = (u.episodeEnded n ((s.lr r.partner).segment.isSome
      && (s.lr r.partner).state == .loaded)).playRefill n := by
  have hpartner : u.lr r.partner = s.lr r.partner := by rw [h.lr, if_neg (LrId.partner_ne hr)]
  have hnot : u.episodeEnded n false = u := State.mapStr_id u n
  simp only [State.playAfterDrop, if_neg (show ¬ (u.str n).stopRequest = some .afterSegment by simp [hstop]),
    h.playCurrent hr]
  cases hsome : (s.lr r.partner).segment.isSome with
  | false => simp [hnot]
  | true =>
    simp only [if_true, hpartner, Bool.true_and]
    by_cases hloaded : (s.lr r.partner).state = .loaded
    · simp [hloaded, State.episodeEnded]
    · simp [beq_eq_false_iff_ne.2 hloaded, hloaded, hnot]

/-- A standby that is held keeps the stream from draining. -/
theorem StreamState.afterDrop_eq (standby : Option Segment) (loaded untaken : Bool) :
    (if untaken && standby.isNone then StreamState.drained
      else if standby.isSome && loaded then .running else .starved)
      = if standby.isSome && loaded then .running else if standby.isNone && untaken then .drained else .starved := by
  cases standby <;> simp

/-- Settles O43: the register is given up; then a LOADED standby and the refill, or the waiting stop. -/
theorem alignDropsStarvedSegment : Obligations.AlignDropsStarvedSegment := by
  intro s dt n r g hlive hd hpolicy hcur hg hstarves hlast hpasses x o all counters told
  have hrn := State.streamOf_playCurrent hcur
  have hrec₀ : ((s.advance dt).mapStr n StreamRec.starved).str n = x.starved := by
    rw [State.mapStr_str, if_pos rfl]
    rfl
  obtain ⟨hgave, hstr, htold, hrqe⟩ := ((s.advance dt).mapStr n StreamRec.starved).alignDropped_spec n g hrn
  have hrun : ∀ {φ : State → Prop},
      φ ((((s.advance dt).mapStr n StreamRec.starved).alignDropped n r g).playAfterDrop n).settle →
      Completes (.playbackEdge dt n) s φ := fun hφ => by
    refine completes_of_run s (i := .playbackEdge dt n) rfl ?_
    simp only [Instr.run, Instr.elapsed]
    rwa [playbackEdge_of_live (s := s.advance dt) hlive hd,
      State.playEdge_starves (s := s.advance dt) (g := g) hstarves hcur hg,
      State.starvedMeets_drop (s := (s.advance dt).mapStr n StreamRec.starved) (by rw [hrec₀]; exact hpolicy) hlast hpasses]
  have hsaid : told.toldAs (((s.advance dt).mapStr n StreamRec.starved).alignDropped n r g) := by
    rw [hrec₀] at htold
    exact (State.toldAs.report (s := s) (t := (s.advance dt).mapStr n StreamRec.starved) ⟨rfl, rfl⟩ _).trans htold
  rw [hrec₀] at hstr
  have hgave' : s.gaveUp (((s.advance dt).mapStr n StreamRec.starved).alignDropped n r g) n r :=
    ⟨⟨hgave.acts.rat, hgave.acts.rfe, hgave.acts.sst, hgave.acts.powered, hgave.acts.hrst, hgave.acts.circuit⟩,
      hgave.lr, hgave.claims, hgave.other.trans (by simp [State.mapStr_str, otherStream_ne])⟩
  have hrqe' : (((s.advance dt).mapStr n StreamRec.starved).alignDropped n r g).rqe = s.rqe := hrqe
  generalize ((s.advance dt).mapStr n StreamRec.starved).alignDropped n r g = u at *
  have hstop : (u.str n).stopRequest = x.stopRequest := by rw [hstr]; rfl
  have hqueue : (u.str n).queue = all := by rw [hstr]; rfl
  refine ⟨fun hnone hidle => hrun ?_, fun req rest hafter hphase hreq => hrun ?_⟩
  · rw [hgave'.playAfterDrop hrn (hstop.trans hnone)]
    generalize hends : ((s.lr r.partner).segment.isSome && (s.lr r.partner).state == .loaded) = ends
    have hgave₂ : s.gaveUp (u.episodeEnded n ends) n r := hgave'.mapStr _
    have hrec₂ : (u.episodeEnded n ends).str n =
        { x.starved.dropped g with state := if ends then .running else .starved } := by
      rw [State.episodeEnded, State.mapStr_str, if_pos rfl, hstr]
      rfl
    have hsaid₂ : told.toldAs (u.episodeEnded n ends) := hsaid
    have hrqe₂ : (u.episodeEnded n ends).rqe = s.rqe := hrqe'
    generalize u.episodeEnded n ends = w at *
    have htaking : (w.str n).playTaking = true := by
      rw [hrec₂]
      cases ends <;> simp [StreamRec.playTaking, StreamRec.dropped, StreamRec.starved, StreamRec.outputFill, x, hd,
        show (s.str n).stopRequest = none from hnone]
    have hacted := (w.playRefill n).settle_actedOn
    have hacts := (State.engineClosed s).playRefill (n := n) hgave₂.acts
    have hrefilled := State.playRefill_refilledFrom htaking
    obtain ⟨htakes, hrec, hother, hemptied, hgranted⟩ :=
      hgave₂.refill hrn htaking (by rw [hrec₂]; exact ⟨rfl, fun q => by cases q <;> rfl⟩) hidle hacted
    have hall : (w.str n).queue = all := by rw [hrec₂]; rfl
    have hdrains := hgave₂.refillDrains hrn
    rw [hgave₂.freeOf, hall] at hdrains
    rw [hgave₂.freeOf] at htakes hemptied
    rw [hall] at htakes
    refine ⟨htakes, hemptied, hgranted, hrec.trans ?_, ?_, hother, by simp [hrqe₂],
      hacted.cellsKept hacts, hacted.rfe_of hacts⟩
    · rw [hrec₂, hdrains, ← hends]
      exact congrArg (fun st => ({ x.starved.dropped g with state := st } : StreamRec).takenFrom _)
        (StreamState.afterDrop_eq _ _ _)
    · have := (hsaid₂.reportIf (w.refillDrains n) (.streamDrained n)).trans hrefilled.told
      rw [hdrains, Bool.and_comm] at this
      exact this.trans (u := (w.playRefill n).settle) ⟨by simp, by simp⟩
  · have hend : u.playAfterDrop n = u.playStopEffect n := if_pos (by rw [hstop, hafter])
    rw [hend]
    have hacted := (u.playStopEffect n).settle_actedOn
    have hacts := (State.engineClosed s).playStopEffect (n := n) hgave'.acts
    obtain ⟨hstopped, hemptied⟩ := hgave'.playStop hrn (hrqe'.trans (State.rqe_stopping hphase)) hreq
      (by rw [hstop, hafter]) hsaid hacted (by simp) (by simp)
    rw [hqueue, hstr] at hstopped
    exact ⟨hstopped, hemptied r hrn, hemptied o (streamOf_partner hrn), hacted.cellsKept hacts, hacted.rfe_of hacts⟩

end Sys2Proof.Machine
end

section
/-! PROOF. Capture segments that finish, in a ring or not (R120, R125), and the takes after them (R65, R112). -/

namespace Sys2Proof.Machine

variable {s t u v : State} {n : StreamId} {r q : LrId} {k : Taken}

/-! ## Copies in take order (R125) -/

theorem insertTaken_eq {us : List Taken} (h : us.Pairwise fun a b => a.seq ≤ b.seq) (k : Taken) :
    insertTaken k us = us.filter (fun u => decide (u.seq < k.seq)) ++ [k] ++ us.filter fun u => decide (k.seq ≤ u.seq) := by
  induction us with
  | nil => rfl
  | cons u us ih =>
    obtain ⟨hu, hus⟩ := List.pairwise_cons.1 h
    by_cases hk : k.seq ≤ u.seq
    · have hall : ∀ w ∈ u :: us, k.seq ≤ w.seq := fun w hw => by
        obtain rfl | hw := List.mem_cons.1 hw
        · exact hk
        · exact hk.trans (hu w hw)
      rw [insertTaken, if_pos hk, List.filter_eq_nil_iff.2 fun w hw => by simpa using hall w hw,
        List.filter_eq_self.2 fun w hw => by simpa using hall w hw]
      rfl
    · rw [insertTaken, if_neg hk, ih hus]
      simp [hk, Nat.not_le.1 hk]

theorem copies_split {us : List Taken} (h : us.Pairwise fun a b => a.seq ≤ b.seq) (k : Taken) :
    us.filter (fun u => decide (u.seq < k.seq)) ++ us.filter (fun u => decide (k.seq ≤ u.seq)) = us := by
  induction us with
  | nil => rfl
  | cons u us ih =>
    obtain ⟨hu, hus⟩ := List.pairwise_cons.1 h
    by_cases hk : k.seq ≤ u.seq
    · have hall : ∀ w ∈ u :: us, k.seq ≤ w.seq := fun w hw => by
        obtain rfl | hw := List.mem_cons.1 hw
        · exact hk
        · exact hk.trans (hu w hw)
      rw [List.filter_eq_nil_iff.2 fun w hw => by simpa using hall w hw,
        List.filter_eq_self.2 fun w hw => by simpa using hall w hw]
      rfl
    · simp [hk, Nat.not_le.1 hk, ih hus]

/-! ## The segments held -/

theorem State.mem_takesHeld {seq : Nat} {but : Option LrId} : seq ∈ s.takesHeld n but ↔
    ∃ r, streamOf r = some n ∧ (s.lr r).segment.isSome = true ∧ but ≠ some r ∧ (s.lr r).takeSeq = seq := by
  simp only [State.takesHeld, List.mem_map, List.mem_filter, Bool.and_eq_true, bne_iff_ne, ne_eq]
  refine exists_congr fun r => ?_
  rw [← mem_regsOf, regsOf]
  tauto

theorem State.mem_heldSeqs {seq : Nat} : seq ∈ s.heldSeqs n ↔
    (∃ r, streamOf r = some n ∧ (s.lr r).segment.isSome = true ∧ (s.lr r).takeSeq = seq)
      ∨ seq ∈ ((s.str n).overrunSegment.map Taken.seq).toList := by
  simp only [State.heldSeqs, List.mem_append, List.mem_map, State.mem_heldRegs, and_assoc]
  cases (s.str n).overrunSegment <;> simp

theorem Taken.isFirst_congr {a b : List Nat} (h : ∀ seq, seq ∈ a ↔ seq ∈ b) (k : Taken) : k.isFirst a = k.isFirst b := by
  rw [Bool.eq_iff_iff]
  simp only [Taken.isFirst, List.all_eq_true, h]

theorem StreamRec.afterFinish_congr {a b : List Nat} (h : ∀ seq, seq ∈ a ↔ seq ∈ b) (x : StreamRec) (k : Taken) :
    x.afterFinish k a = x.afterFinish k b := by
  simp only [StreamRec.afterFinish, Taken.isFirst_congr h]

/-! ## The finish of a segment (R120, R125) -/

/-- The waiting copies with no earlier-taken segment held join the tail (R125). -/
def StreamRec.released (x : StreamRec) (held : List Nat) : StreamRec :=
  { x with
    queue := x.queue ++ (x.waiting.filter fun u => u.isFirst held).map Taken.segment
    waiting := x.waiting.filter fun u => !u.isFirst held }

theorem State.releaseCopies_eq (s : State) (n : StreamId) :
    s.releaseCopies n = s.mapStr n fun x => x.released (s.heldSeqs n) := rfl

/-- A copy that joins in DRAINED passes the stream to READY (R120). -/
def StreamRec.awakened (x : StreamRec) : StreamRec :=
  { x with state := if x.state = .drained ∧ x.stopRequest = none ∧ x.queue ≠ [] then .ready else x.state }

/-- The finished segment's copy joins the tail or waits (R125). -/
def StreamRec.rejoined (x : StreamRec) (k : Taken) (held : List Nat) : StreamRec :=
  if k.isFirst held then { x with queue := x.queue ++ [k.segment] } else { x with waiting := insertTaken k x.waiting }

theorem StreamRec.afterFinish_ring {x : StreamRec} (hcyclic : x.cyclic = true) (horder : x.copiesInOrder) (k : Taken)
    (held : List Nat) : ((x.rejoined k held).released held).awakened = x.afterFinish k held := by
  have hsplit := copies_split horder k
  unfold StreamRec.afterFinish StreamRec.rejoined
  rw [if_pos hcyclic]
  cases hk : k.isFirst held with
  | true =>
    have hwaiting : ((x.waiting.filter (fun u => decide (u.seq < k.seq)) ++ [k]
        ++ x.waiting.filter (fun u => decide (k.seq ≤ u.seq))).filter fun u => !u.isFirst held)
        = x.waiting.filter fun u => !u.isFirst held := by
      conv_rhs => rw [← hsplit]
      simp [List.filter_append, hk]
    rw [hwaiting]
    simp [StreamRec.released, StreamRec.awakened]
  | false =>
    have hready : ((insertTaken k x.waiting).filter fun u => u.isFirst held)
        = x.waiting.filter fun u => u.isFirst held := by
      rw [insertTaken_eq horder]
      conv_rhs => rw [← hsplit]
      simp [List.filter_append, hk]
    rw [← insertTaken_eq horder]
    simp [StreamRec.released, StreamRec.awakened, hready]

theorem StreamRec.afterFinish_plain {x : StreamRec} (hcyclic : x.cyclic = false) (k : Taken) (held : List Nat) :
    x.afterFinish k held = x :=
  if_neg (by simp [hcyclic])

theorem State.capFinish_eq (horder : (s.str n).copiesInOrder) (k : Taken) :
    s.capFinish n k = s.mapStr n fun x => x.afterFinish k (s.heldSeqs n) := by
  cases hcyclic : (s.str n).cyclic with
  | false =>
    rw [State.mapStr_of_fixed (f := fun x => x.afterFinish k (s.heldSeqs n)) (StreamRec.afterFinish_plain hcyclic k _)]
    exact if_neg (by simp [hcyclic])
  | true =>
    rw [State.mapStr_congr (f := fun x => x.afterFinish k (s.heldSeqs n)) (g := fun x => ((x.rejoined k (s.heldSeqs n)).released (s.heldSeqs n)).awakened)
      (StreamRec.afterFinish_ring hcyclic horder k _).symm]
    have hrejoin : (s.mapStr n fun x => if (s.heldSeqs n).all (fun q => decide (k.seq < q)) = true then
        { x with queue := x.queue ++ [k.segment] } else { x with waiting := insertTaken k x.waiting })
        = s.mapStr n fun x => x.rejoined k (s.heldSeqs n) := rfl
    have hheld : (s.mapStr n fun x => x.rejoined k (s.heldSeqs n)).heldSeqs n = s.heldSeqs n := by
      have hrec : ((s.mapStr n fun x => x.rejoined k (s.heldSeqs n)).str n).overrunSegment = (s.str n).overrunSegment := by
        rw [State.mapStr_str, if_pos rfl]
        unfold StreamRec.rejoined
        split <;> rfl
      simp only [State.heldSeqs] at hrec ⊢
      rw [hrec]
      rfl
    simp only [State.capFinish, hcyclic, if_true, hrejoin]
    rw [State.releaseCopies_eq, hheld, State.mapStr_mapStr, ← State.mapStr_mapStr (g := StreamRec.awakened)]
    generalize State.mapStr _ n _ = w
    split
    · next h => exact State.mapStr_congr (by simp only [StreamRec.awakened, if_pos h])
    · next h => exact (State.mapStr_of_fixed (by simp only [StreamRec.awakened, if_neg h])).symm

end Sys2Proof.Machine
end

section
/-! PROOF. A register that comes free, or is given up, and what its capture stream does then: take, pass on, or end a
stop (R71, R112, R118, R122, R124). -/

namespace Sys2Proof.Machine

variable {s t u w told : State} {n : StreamId} {r q : LrId} {y : LineReg} {req : Request}
  {rest : List Request} {kind : StopKind}

/-! ## A capture take, seen from before -/

/-- What a capture stream's take and the arbiter's acts make of the state `u` that an engine made of `s`. -/
structure State.receivedAfter (s u t : State) (n : StreamId) : Prop where
  receives : s.receivesAs t n (u.freeReg n) (u.str n)
  other : t.str (otherStream n) = u.str (otherStream n)
  granted : ∀ q, u.freeReg n ≠ some q ∨ (u.str n).queue = [] → u.granted t q
  kept : ∀ q, u.freeReg n ≠ some q ∨ (u.str n).queue = [] → u.claimPending q = false → t.lr q = u.lr q

theorem State.freeReg_spec (h : s.freeReg n = some r) : streamOf r = some n ∧ (s.lr r).isFree = true :=
  ⟨State.streamOf_find h, by simpa using List.find?_some (p := fun r => (s.lr r).isFree) h⟩

theorem State.receivedAfter_of (hmay : u.mayReceive n (u.str n)) (hsame : (s.str n).sameTakes (u.str n))
    (hcontent : ∀ q, u.freeReg n = some q → (u.lr q).content = (s.lr q).content)
    (hidle : ∀ q, streamOf q = some n → (u.lr q).isFree = true → u.claimPending q = false)
    (hacted : (u.capTake n).actedOn t) : s.receivedAfter u t n := by
  obtain ⟨hreceives, hother, hlr, harb⟩ := State.capTake_receivedFrom hmay
  refine ⟨State.receivesAs_of hreceives hacted (fun q hq _ => State.steady_of_idle ?_) hcontent hsame.1
    fun q _ => hsame.2 q, by rw [hacted.str, hother _ (otherStream_ne n)], fun q hq => hacted.granted (hlr q hq),
    fun q hq hpending => ?_⟩
  · obtain ⟨hqn, hfree⟩ := State.freeReg_spec hq
    rw [State.claimPending_congr harb]
    exact hidle q hqn hfree
  · rw [hacted.idle (by rw [State.claimPending_congr harb, hpending]), hlr q hq]

/-- With an empty queue nothing is taken. -/
theorem State.receivesAs_empty {free : Option LrId} {x : StreamRec} (hq : x.queue = []) (hstr : t.str n = x)
    (hsame : (s.str n).sameTakes x) : s.receivesAs t n free x := by
  refine ⟨?_, by rw [if_neg (by simp [hq]), hstr]⟩
  have hflags : s.lossFlags t n [] := fun q _ => by rw [hstr, hsame.2]; simp
  rw [hq]
  cases free <;> exact ⟨by rw [hstr, hq], by rw [hstr, hsame.1], hflags⟩

/-! ## A register that comes free, or is given up -/

/-- The register `r` is EMPTY in `u`, as `y`; the stream's other register and the other stream are as in `s`. -/
structure State.freed (s u : State) (n : StreamId) (r : LrId) (y : LineReg) : Prop where
  lr : ∀ q, u.lr q = if q = r then y else s.lr q
  cells : y.content = (s.lr r).content
  empty : y.state = .empty
  pending : ∀ q, streamOf q = some n → q ≠ r → s.claimPending q = false → u.claimPending q = false
  other : u.str (otherStream n) = s.str (otherStream n)

theorem State.gaveUp.freed (h : s.gaveUp u n r) : s.freed u n r ((s.lr r).cleared (s.operationKind r)) :=
  ⟨h.lr, rfl, rfl, fun _ _ _ hq => h.idle_of hq, h.other⟩

/-- What leaves the registers, their claims and the other stream. -/
theorem State.freed.congr (h : s.freed u n r y) (hlr : ∀ q, w.lr q = u.lr q) (harb : w.arb = u.arb)
    (hother : w.str (otherStream n) = u.str (otherStream n)) : s.freed w n r y :=
  ⟨fun q => (hlr q).trans (h.lr q), h.cells, h.empty,
    fun q hq hne hpending => (State.claimPending_congr harb).trans (h.pending q hq hne hpending),
    hother.trans h.other⟩

namespace State.freed

variable (h : s.freed u n r y)
include h

theorem self : u.lr r = y := by
  rw [h.lr, if_pos rfl]

theorem partner (hr : streamOf r = some n) : u.lr r.partner = s.lr r.partner := by
  rw [h.lr, if_neg (LrId.partner_ne hr)]

theorem content (q : LrId) : (u.lr q).content = (s.lr q).content := by
  rw [h.lr]
  split
  · next e => rw [e]; exact h.cells
  · rfl

theorem mapStr (f : StreamRec → StreamRec) : s.freed (u.mapStr n f) n r y :=
  h.congr (fun q => by simp) (by simp) (by simp [State.mapStr_str, otherStream_ne])

theorem freeReg : u.freeReg n = [evenReg n, oddReg n].find? fun p => if p = r then y.isFree else (s.lr p).isFree := by
  refine congrArg (fun p => List.find? p [evenReg n, oddReg n]) (funext fun p => ?_)
  rw [h.lr]
  split <;> rfl

theorem regsFree (hr : streamOf r = some n) : u.regsFree n = (y.isFree && (s.lr r.partner).isFree) := by
  rw [← h.self, ← h.partner hr]
  obtain rfl | rfl := streamOf_eq_some.1 hr
  · cases n <;> rfl
  · rw [Bool.and_comm]
    cases n <;> rfl

theorem not_receiving : u.isReceiving r = false := by
  rw [State.isReceiving, h.self, h.empty]
  rfl

/-- The stream receives into the register that it received into, if not into the one that comes free. -/
theorem receiving (hnot : s.isReceiving r = false)
    (hpending : ∀ q, streamOf q = some n → q ≠ r → u.claimPending q = s.claimPending q) :
    u.receiving n = s.receiving n := by
  refine List.find?_congr fun q hq => ?_
  by_cases e : q = r
  · rw [e, h.not_receiving, hnot]
  · rw [State.isReceiving, h.lr, if_neg e, hpending q (mem_regsOf.1 hq) e, State.isReceiving]

theorem isFree_idle (hr : streamOf r = some n) (hfreed : u.claimPending r = false)
    (hidle : (s.lr r.partner).isFree = true → s.claimPending r.partner = false)
    (hq : streamOf q = some n) (hfree : (u.lr q).isFree = true) : u.claimPending q = false := by
  obtain rfl | rfl := eq_or_partner hr hq
  · exact hfreed
  · rw [h.partner hr] at hfree
    exact h.pending _ hq (LrId.partner_ne hr) (hidle hfree)

theorem mem_heldSeqs (hy : y.segment = none) {seq : Nat} : seq ∈ u.heldSeqs n ↔
    seq ∈ s.takesHeld n (some r) ++ ((u.str n).overrunSegment.map Taken.seq).toList := by
  rw [State.mem_heldSeqs, List.mem_append, State.mem_takesHeld]
  refine or_congr_left (exists_congr fun q => ?_)
  by_cases hq : q = r
  · subst hq
    rw [h.self, hy]
    simp
  · rw [h.lr, if_neg hq]
    simp [Ne.symm hq]

/-- The segment of the freed register finishes (R125). -/
theorem capFinish (hy : y.segment = none) (horder : (u.str n).copiesInOrder) (k : Taken) :
    u.capFinish n k = u.mapStr n fun x => x.afterFinish k (s.takesHeld n (some r)
      ++ ((u.str n).overrunSegment.map Taken.seq).toList) := by
  rw [State.capFinish_eq horder]
  exact State.mapStr_congr (StreamRec.afterFinish_congr (fun seq => h.mem_heldSeqs hy) _ _)

/-! ### What the stream does then -/

/-- A take (R112). -/
theorem take (hr : streamOf r = some n) (hfreed : u.claimPending r = false) (hmay : u.mayReceive n (u.str n)) (hsame : (s.str n).sameTakes (u.str n))
    (hidle : (s.lr r.partner).isFree = true → s.claimPending r.partner = false) (hacted : (u.capTake n).actedOn t) :
    s.receivesAs t n (u.freeReg n) (u.str n) ∧ t.str (otherStream n) = s.str (otherStream n)
      ∧ (u.freeReg n ≠ some r ∨ (u.str n).queue = [] → t.lr r = y)
      ∧ (u.freeReg n ≠ some r.partner ∨ (u.str n).queue = [] → s.granted t r.partner) := by
  obtain ⟨hreceives, hother, hgranted, hkept⟩ := State.receivedAfter_of hmay hsame (fun q _ => h.content q)
    (fun q hq hfree => h.isFree_idle hr hfreed hidle hq hfree) hacted
  refine ⟨hreceives, hother.trans h.other, fun hq => (hkept r hq hfreed).trans h.self, fun hq => ?_⟩
  have := hgranted _ hq
  rwa [State.granted, h.partner hr] at this

/-- Nothing more (R112). -/
theorem unmoved (hfreed : u.claimPending r = false) (hacted : u.actedOn t) :
    t.str n = u.str n ∧ t.str (otherStream n) = s.str (otherStream n)
    ∧ t.lr r = y ∧ ∀ q, q ≠ r → s.granted t q :=
  ⟨hacted.str n, (hacted.str _).trans h.other, (hacted.idle hfreed).trans h.self,
    fun q hq => hacted.granted (by rw [h.lr, if_neg hq])⟩

/-- The passage of a stop (R106, R124). -/
theorem stop (hr : streamOf r = some n) (hfreed : u.claimPending r = false)
    (hrqe : u.rqe = { s.rqe with phase := .stopping n })
    (hqueue : s.rqe.queue = req :: rest) (hkind : (u.str n).stopRequest = some kind) (htold : told.toldAs u)
    (hacted : (u.stopNext n).actedOn t) (ht : t.rqe = (u.stopNext n).rqe) (ht' : t.hlc = (u.stopNext n).hlc) :
    s.stopped told t n (u.str n) kind req.tag rest (y.isFree && (s.lr r.partner).isFree)
      ∧ t.lr r = y ∧ ∀ q, q ≠ r → s.granted t q := by
  have hnext : s.freed (u.stopNext n) n r y := h.congr (fun q => by simp) (by simp) ?_
  · have hstopped := State.stopped_of hrqe hqueue hkind h.other htold hacted ht ht'
    rw [h.regsFree hr] at hstopped
    obtain ⟨-, -, hlr, hgranted⟩ := hnext.unmoved (by rw [State.claimPending_congr (s := u) (by simp), hfreed]) hacted
    exact ⟨hstopped, hlr, hgranted⟩
  · exact (State.stopNext_stopped (req := req) (rest := rest) (by rw [hrqe]) (by rw [hrqe]; exact hqueue) hkind).2.1

end State.freed

end Sys2Proof.Machine
end

section
/-! PROOF. The completion of a COMMIT (R115), in a ring or not (R125), and of a discarded LOAD or COMMIT (R71). -/

namespace Sys2Proof.Machine

variable {s t u c told : State} {n : StreamId} {r q : LrId} {g : Segment} {op : Operation} (dt : Nat) (tie : TieOrder)

/-! ## Claims after a completion -/

theorem Claim.isOf_stream {c : Claim} (hq : streamOf q = some n) (h : c.isOf q = true) : c.claimant = .register q := by
  unfold Claim.isOf Claim.register? at h
  cases hcl : c.claimant with
  | register p => rw [hcl] at h; simpa using h
  | requestEngine =>
    rw [hcl] at h
    have hne : q ≠ .lr4 := ne_lr4_of_streamOf hq
    cases hk : c.kind <;> simp [hk, Ne.symm hne] at h
  | refreshEngine => rw [hcl] at h; cases h
  | rowTable => rw [hcl] at h; cases h

/-- A completion touches no claim of a stream's register, all of them of class STREAM (R25, R40). -/
theorem State.completed_claimPending_of_placed (hplaced : s.streamClaimsPlaced) (hq : streamOf q = some n) :
    (s.completed op).claimPending q = s.claimPending q := by
  obtain ⟨routine, hclaims⟩ := s.completed_claims_routine op
  rw [State.claimPending, hclaims, List.any_append, State.claimPending]
  have hroutine : ((routine.map fun row => (⟨.refresh, row, .refreshEngine, .routine⟩ : Claim)).toList.any fun c =>
      c.isOf q) = false := by
    cases routine <;> simp [Claim.isOf, Claim.register?]
  rw [hroutine, Bool.or_false, Bool.eq_iff_iff, List.any_eq_true, List.any_eq_true]
  refine ⟨fun ⟨c, hc, hcq⟩ => ⟨c, List.mem_of_mem_filter hc, hcq⟩, fun ⟨c, hc, hcq⟩ => ⟨c, List.mem_filter.2 ⟨hc, ?_⟩, hcq⟩⟩
  have hcls := hplaced c hc q (Claim.isOf_stream hq hcq)
  simp [hcls]

/-! ## A COMMIT that ends its segment (R115) -/

/-- The counters after a COMMIT (R107, R115). -/
def StreamRec.committed (x : StreamRec) (y : LineReg) (g : Segment) : StreamRec :=
  { x with
    counters := if y.position == g.count * 64 then { x.counters with completed := satAdd x.counters.completed 1 }
      else { x.counters with
        dropped := satAdd x.counters.dropped 1
        discarded := satAdd x.counters.discarded (y.position - 64 * sectionCount y.filled) } }

theorem StreamRec.afterFinish_counters (x : StreamRec) (counters : Counters) (k : Taken) (held : List Nat) :
    ({ x with counters := counters } : StreamRec).afterFinish k held = { x.afterFinish k held with counters := counters } := by
  unfold StreamRec.afterFinish
  split <;> rfl

theorem State.endSegment_spec (s : State) (n : StreamId) (x : LineReg) (g : Segment) :
    (s.endSegment n x g).str n = (s.str n).committed x g
      ∧ (s.endSegment n x g).str (otherStream n) = s.str (otherStream n) ∧ (s.endSegment n x g).rqe = s.rqe
      ∧ ((s.reportMark n g true).reportIf (!(x.position == g.count * 64)) (.segmentAbandoned n g.row .stop
          (x.position - 64 * sectionCount x.filled))).toldAs (s.endSegment n x g) := by
  obtain ⟨hstr, hrqe, -, -, -⟩ := s.reportMark_kept (n := n) (g := g) true
  unfold State.endSegment
  by_cases hfull : x.position = g.range
  · have hfull' : (x.position == g.count * 64) = true := beq_iff_eq.2 hfull
    simp only [if_pos hfull, hfull']
    exact ⟨by simp [State.count, State.mapStr_str, hstr, StreamRec.committed, hfull'],
      by simp [State.count, State.mapStr_str, hstr, otherStream_ne], by simp [hrqe], rfl, rfl⟩
  · have hfull' : (x.position == g.count * 64) = false := beq_eq_false_iff_ne.2 hfull
    simp only [if_neg hfull, hfull']
    refine ⟨?_, by simp [State.capAbandonCount, State.count, State.mapStr_str, hstr, otherStream_ne],
      by simp [State.capAbandonCount, hrqe], rfl, rfl⟩
    simp [State.capAbandonCount, State.count, State.mapStr_str, hstr, StreamRec.committed, hfull', Config.sectionCells]

/-- The segment ended and finished, its register EMPTY (R115, R125). -/
def State.commitEnded (s : State) (n : StreamId) (r : LrId) (x : LineReg) (g : Segment) : State :=
  ((s.endSegment n x g).setLr r (x.cleared none)).capFinish n ⟨x.takeSeq, g⟩

theorem State.commitEnded_arb (s : State) (n : StreamId) (r : LrId) (x : LineReg) (g : Segment) :
    (s.commitEnded n r x g).arb = s.arb := by
  simp [State.commitEnded, State.regsKept.endSegment_arb]

/-- The record after a COMMIT (R115, R125). -/
def State.committedRec (s : State) (n : StreamId) (r : LrId) (g : Segment) : StreamRec :=
  { (s.str n).afterFinish ⟨(s.lr r).takeSeq, g⟩
      (s.takesHeld n (some r) ++ ((s.str n).overrunSegment.map Taken.seq).toList) with
    counters := ((s.str n).committed (s.lr r) g).counters }

/-- What a COMMIT that ends its segment makes of the stream and its register. -/
structure State.committedTo (s u : State) (n : StreamId) (r : LrId) (g : Segment) : Prop where
  freed : s.freed u n r ((s.lr r).cleared none)
  str : u.str n = s.committedRec n r g
  told : ((s.reportMark n g true).reportIf (!((s.lr r).position == g.count * 64)) (.segmentAbandoned n g.row .stop
    ((s.lr r).position - 64 * sectionCount (s.lr r).filled))).toldAs u
  rqe : u.rqe = s.rqe

theorem State.commitEnded_spec (hlr : c.lrb = s.lrb) (hste : c.ste = s.ste) (hrqe : c.rqe = s.rqe) (hsaid : s.toldAs c)
    (hpending : ∀ q, streamOf q = some n → s.claimPending q = false → c.claimPending q = false)
    (horder : (s.str n).copiesInOrder) :
    s.committedTo (c.commitEnded n r (s.lr r) g) n r g := by
  obtain ⟨hstr, hother, hreq, htold⟩ := c.endSegment_spec n (s.lr r) g
  have hreg : ∀ q, c.lr q = s.lr q := fun q => by rw [State.lr, hlr, State.lr]
  have hrec : ∀ m, c.str m = s.str m := fun m => by rw [State.str, hste, State.str]
  have hfreed : s.freed ((c.endSegment n (s.lr r) g).setLr r ((s.lr r).cleared none)) n r ((s.lr r).cleared none) := by
    refine ⟨fun q => ?_, rfl, rfl, fun q hq hne hidle => ?_, hother.trans (hrec _)⟩
    · rw [State.lr_setLr, State.endSegment_lr, hreg]
    · exact (State.claimPending_congr (s := c) (State.regsKept.endSegment_arb _ _)).trans (hpending q hq hidle)
  have hself : ((c.endSegment n (s.lr r) g).setLr r ((s.lr r).cleared none)).str n = (s.str n).committed (s.lr r) g :=
    hstr.trans (by rw [hrec])
  have hfinish := hfreed.capFinish rfl (by rw [hself]; exact horder) ⟨(s.lr r).takeSeq, g⟩
  rw [← State.commitEnded] at hfinish
  rw [hfinish]
  refine ⟨hfreed.mapStr _, ?_, ?_, hreq.trans hrqe⟩
  · rw [State.mapStr_str, if_pos rfl, hself]
    exact StreamRec.afterFinish_counters _ _ _ _
  · exact ((State.toldAs.reportMark hsaid true).reportIf _ _).trans htold

theorem StreamRec.afterFinish_state (x : StreamRec) (k : Taken) (held : List Nat) :
    (x.afterFinish k held).state = x.state
      ∨ x.state = .drained ∧ x.stopRequest = none ∧ (x.afterFinish k held).state = .ready := by
  unfold StreamRec.afterFinish
  split
  · dsimp only
    generalize x.queue ++ _ = queue
    split
    · next h => exact .inr ⟨h.1, h.2.1, rfl⟩
    · exact .inl rfl
  · exact .inl rfl

theorem StreamRec.afterFinish_kept (x : StreamRec) (k : Taken) (held : List Nat) :
    (x.afterFinish k held).stopRequest = x.stopRequest ∧ (x.afterFinish k held).direction = x.direction
      ∧ (x.afterFinish k held).overrunSegment = x.overrunSegment ∧ x.sameTakes (x.afterFinish k held) := by
  unfold StreamRec.afterFinish
  split
  · exact ⟨rfl, rfl, rfl, rfl, fun q => by cases q <;> rfl⟩
  · exact ⟨rfl, rfl, rfl, rfl, fun q => rfl⟩

/-- A take leaves no stream in STOPPING (R112). -/
theorem State.capTake_checkStopped (hmay : s.mayReceive n (s.str n)) : (s.capTake n).checkStopped n = s.capTake n := by
  refine State.checkStopped_of_not ?_
  obtain ⟨-, -, -, hstate⟩ := id hmay
  rw [(State.capTake_receivedFrom hmay).receives.2]
  dsimp only
  split
  · simp
  · obtain e | e | ⟨e, -⟩ := hstate <;> simp [e]

theorem State.mayReceive_congr (hreceiving : u.receiving n = s.receiving n) (x : StreamRec) :
    u.mayReceive n x ↔ s.mayReceive n x := by
  rw [State.mayReceive, hreceiving, State.mayReceive]

/-- Settles O12: the segment ends and finishes; then the stream takes, is left as it is, or its stop ends. -/
theorem commitCompletionEndsSegment : Obligations.CommitCompletionEndsSegment := by
  intro s op dt tie r n g hdue hk hcl hr hg hd hactive hidle hplaced horder x full given counters told held y
  have hc := s.completing_of_due hdue
  have hended := State.commitEnded_spec (s := s) (c := (s.advance dt).completed op) (r := r) (g := g) (by simp [State.advance])
    (by simp [State.advance]) (by simp [State.advance]) ⟨by simp [State.advance], by simp [State.advance]⟩
    (fun q hq hpending => State.completed_claimPending (s := s.advance dt) hpending) horder
  have hrun : ∀ {φ : State → Prop},
      φ ((((((s.advance dt).completed op).commitEnded n r (s.lr r) g).capTake n).checkStopped n).conclude tie) →
      Completes (.commitCompletion ⟨dt, tie⟩) s φ := fun hφ => by
    refine completes_of_run s (i := .commitCompletion ⟨dt, tie⟩) rfl ?_
    simp only [Instr.run, Instr.elapsed]
    rw [commitCompletion_committed tie hc hk hcl hr hd hg]
    exact hφ
  have hpending : ∀ q, streamOf q = some n →
      (((s.advance dt).completed op).commitEnded n r (s.lr r) g).claimPending q = s.claimPending q := fun q hq => by
    rw [State.claimPending_congr (State.commitEnded_arb _ n r _ g)]
    exact State.completed_claimPending_of_placed (s := s.advance dt) hplaced hq
  generalize ((s.advance dt).completed op).commitEnded n r (s.lr r) g = u at *
  obtain ⟨hfreed, hstr, hsaid, hrqe⟩ := hended
  have hfree : u.claimPending r = false := (hpending r hr).trans hidle
  have hstr' : u.str n = y := hstr
  have htold : told.toldAs u := hsaid
  have hreceiving : u.receiving n = s.receiving n := hfreed.receiving
    (by simp [State.isReceiving, hactive]) fun q hq _ => hpending q hq
  have hsame : (s.str n).sameTakes (u.str n) := by rw [hstr']; exact (x.afterFinish_kept _ _).2.2.2
  refine ⟨fun hst hnot => hrun ?_, fun hmay hpartner => hrun ?_, fun kind req rest hst hkind hphase hqueue => hrun ?_⟩
  · have hnone : u.capTake n = u := State.capTake_of_not (by rw [hstr', State.mayReceive_congr hreceiving]; exact hnot)
    have hchecked : u.checkStopped n = u := State.checkStopped_of_not (by
      rw [hstr']
      obtain e | ⟨-, -, e⟩ := x.afterFinish_state ⟨(s.lr r).takeSeq, g⟩ held
      · exact fun h => hst (e.symm.trans h)
      · exact fun h => by cases e.symm.trans h)
    rw [hnone, hchecked]
    obtain ⟨hrec, hother, hlr, -⟩ := hfreed.unmoved hfree (u.conclude_actedOn tie)
    exact ⟨hlr, hrec.trans hstr', hother, by simp [htold.1], by simp [htold.2], by simp [hrqe]⟩
  · have hmay' : u.mayReceive n (u.str n) := by rw [hstr', State.mayReceive_congr hreceiving]; exact hmay
    rw [State.capTake_checkStopped hmay']
    obtain ⟨hreceives, hother, hlr, -⟩ := hfreed.take hr hfree hmay' hsame hpartner ((u.capTake n).conclude_actedOn tie)
    have hfreeReg : u.freeReg n = [evenReg n, oddReg n].find? fun p => p == r || (s.lr p).isFree := by
      rw [hfreed.freeReg]
      refine List.find?_congr fun p _ => ?_
      by_cases hp : p = r <;> simp [hp, LineReg.cleared_isFree]
    rw [hstr', hfreeReg] at hreceives hlr
    exact ⟨hreceives, hlr, hother, by simp [htold.1], by simp [htold.2], by simp [hrqe]⟩
  · have hstopping : (u.str n).state = .stopping := by
      rw [hstr']
      obtain e | ⟨e, -⟩ := x.afterFinish_state ⟨(s.lr r).takeSeq, g⟩ held
      · exact e.trans hst
      · cases hst.symm.trans e
    have hnone : u.capTake n = u := State.capTake_of_not (.inl fun h => by simp [State.mayReceive, hstopping] at h)
    rw [hnone, State.checkStopped_eq hstopping]
    obtain ⟨hstopped, hlr, -⟩ := hfreed.stop hr hfree (hrqe.trans (State.rqe_stopping hphase)) hqueue
      (by rw [hstr']; exact (x.afterFinish_kept _ _).1.trans hkind) htold ((u.stopNext n).conclude_actedOn tie)
      (by simp) (by simp)
    rw [hstr', LineReg.cleared_isFree] at hstopped
    exact ⟨hstopped, hlr⟩

/-! ## Rings (R125) -/

theorem Taken.isFirst_iff {k : Taken} {held : List Nat} : k.isFirst held = true ↔ ∀ seq ∈ held, k.seq < seq := by
  simp [Taken.isFirst]

/-- One register apart, the stream holds its partner's segment or none. -/
theorem State.takesHeld_partner (hr : streamOf r = some n) {seq : Nat} (h : seq ∈ s.takesHeld n (some r)) :
    (s.lr r.partner).segment.isSome = true ∧ seq = (s.lr r.partner).takeSeq := by
  obtain ⟨q, hq, hsome, hne, rfl⟩ := State.mem_takesHeld.1 h
  obtain rfl | rfl := eq_or_partner hr hq
  · exact absurd rfl hne
  · exact ⟨hsome, rfl⟩

theorem State.receiving_of {p : LrId} (hp : streamOf p = some n) (h : s.isReceiving p = true)
    (hother : s.isReceiving p.partner = false) : s.receiving n = some p := by
  obtain rfl | rfl := streamOf_eq_some.1 hp
  · simp [State.receiving, h]
  · have hpartner : (oddReg n).partner = evenReg n := by cases n <;> rfl
    rw [hpartner] at hother
    simp [State.receiving, h, hother]

theorem LrId.partner_partner : streamOf r = some n → r.partner.partner = r := by
  cases r <;> cases n <;> decide

/-- The finish of a ring's segment while no copy waits and no segment held was taken earlier: the copy joins. -/
theorem StreamRec.afterFinish_joins {x : StreamRec} {k : Taken} {held : List Nat} (hcyclic : x.cyclic = true)
    (hwaiting : x.waiting = []) (hfirst : k.isFirst held = true) (hstate : x.state = .running) :
    x.afterFinish k held = { x with queue := x.queue ++ [k.segment] } := by
  simp [StreamRec.afterFinish, hcyclic, hwaiting, hfirst, hstate]

/-- … and while an earlier-taken segment is held: the copy waits. -/
theorem StreamRec.afterFinish_waits {x : StreamRec} {k : Taken} {held : List Nat} (hcyclic : x.cyclic = true)
    (hwaiting : x.waiting = []) (hlater : k.isFirst held = false) (hstate : x.state = .running) :
    x.afterFinish k held = { x with waiting := [k] } := by
  simp [StreamRec.afterFinish, hcyclic, hwaiting, hlater, hstate]

/-- … and in DRAINED with the earlier-taken copy finished last: both join in take order, and the stream is READY. -/
theorem StreamRec.afterFinish_wakes {x : StreamRec} {k later : Taken} (hcyclic : x.cyclic = true)
    (hwaiting : x.waiting = [later]) (horder : k.seq < later.seq) (hstate : x.state = .drained)
    (hstop : x.stopRequest = none) (hqueue : x.queue = []) :
    x.afterFinish k [] = { x with state := .ready, queue := [k.segment, later.segment], waiting := [] } := by
  simp [StreamRec.afterFinish, hcyclic, hwaiting, hstate, hstop, hqueue, Taken.isFirst, Nat.not_lt.2 horder.le]

/-- Settles O13: `StreamRec.afterFinish` in each of the three cases, and what the take after it can do. -/
theorem committedRingSegmentRejoinsQueue : Obligations.CommittedRingSegmentRejoinsQueue := by
  intro s op dt tie r n g hdue hk hcl hr hg hd hactive hcyclic hover x
  have hc := s.completing_of_due hdue
  have hended : (s.str n).copiesInOrder → _ := fun horder =>
    State.commitEnded_spec (s := s) (c := (s.advance dt).completed op) (r := r) (g := g) (by simp [State.advance])
      (by simp [State.advance]) (by simp [State.advance]) ⟨by simp [State.advance], by simp [State.advance]⟩
      (fun q hq hpending => State.completed_claimPending (s := s.advance dt) hpending) horder
  have hrun : ∀ {φ : State → Prop},
      φ ((((((s.advance dt).completed op).commitEnded n r (s.lr r) g).capTake n).checkStopped n).conclude tie) →
      Completes (.commitCompletion ⟨dt, tie⟩) s φ := fun hφ => by
    refine completes_of_run s (i := .commitCompletion ⟨dt, tie⟩) rfl ?_
    simp only [Instr.run, Instr.elapsed]
    rw [commitCompletion_committed tie hc hk hcl hr hd hg]
    exact hφ
  have hplacedPending : s.streamClaimsPlaced → ∀ q, streamOf q = some n →
      (((s.advance dt).completed op).commitEnded n r (s.lr r) g).claimPending q = s.claimPending q := fun hplaced q hq => by
    rw [State.claimPending_congr (State.commitEnded_arb _ n r _ g)]
    exact State.completed_claimPending_of_placed (s := s.advance dt) hplaced hq
  have hheld : s.takesHeld n (some r) ++ ((s.str n).overrunSegment.map Taken.seq).toList = s.takesHeld n (some r) := by
    simp [hover]
  generalize ((s.advance dt).completed op).commitEnded n r (s.lr r) g = u at *
  have hrec : (s.str n).copiesInOrder → s.freed u n r ((s.lr r).cleared none)
      ∧ u.str n = { x.afterFinish ⟨(s.lr r).takeSeq, g⟩ (s.takesHeld n (some r)) with
        counters := ((s.str n).committed (s.lr r) g).counters } := fun horder => by
    obtain ⟨hfreed, hstr, -, -⟩ := hended horder
    exact ⟨hfreed, hstr.trans (by rw [State.committedRec, hheld])⟩
  have hactedOn : ∀ {v : State}, v.actedOn (v.conclude tie) := fun {v} => v.conclude_actedOn tie
  refine ⟨fun q hst hwaiting hreceiving hlater => hrun ?_, fun earlier hst hwaiting hqueue hearlier hbefore => hrun ?_,
    fun k hst hdir hstop hqueue hwaiting hbefore hpartner hnone hidle hplaced hfree => hrun ?_⟩
  · obtain ⟨hfreed, hstr⟩ := hrec (by rw [StreamRec.copiesInOrder, hwaiting]; exact List.Pairwise.nil)
    have hqn := State.streamOf_receiving hreceiving
    have hq := State.regsKept.isReceiving_of_receiving hreceiving
    simp only [State.isReceiving, Bool.and_eq_true, beq_iff_eq, Bool.not_eq_true'] at hq
    obtain ⟨hqst, hqidle⟩ := hq
    have hne : q ≠ r := fun e => hactive (e ▸ hqst)
    have hpartner : q = r.partner := (eq_or_partner hr hqn).resolve_left hne
    have hfirst : Taken.isFirst ⟨(s.lr r).takeSeq, g⟩ (s.takesHeld n (some r)) = true := Taken.isFirst_iff.2 fun seq hseq => by
      rw [(State.takesHeld_partner hr hseq).2, ← hpartner]
      exact hlater
    rw [StreamRec.afterFinish_joins hcyclic hwaiting hfirst hst] at hstr
    have huq : u.lr q = s.lr q := by rw [hfreed.lr, if_neg hne]
    have huidle : u.claimPending q = false := hfreed.pending q hqn hne hqidle
    have hqr : q.partner = r := hpartner ▸ LrId.partner_partner hr
    have hureceiving : u.receiving n = some q := State.receiving_of hqn (by simp [State.isReceiving, huq, hqst, huidle])
      (hqr ▸ hfreed.not_receiving)
    have htake : u.capTake n = u := State.capTake_of_not (.inl fun h => by simp [State.mayReceive, hureceiving] at h)
    have hchecked : u.checkStopped n = u := State.checkStopped_of_not (by
      rw [hstr]
      exact fun h => by cases hst.symm.trans h)
    rw [htake, hchecked]
    have htq : (u.conclude tie).lr q = s.lr q := (hactedOn.idle huidle).trans huq
    have htidle : (u.conclude tie).claimPending q = false := List.any_eq_false.2 fun c hc =>
      List.any_eq_false.1 huidle c (u.conclude_claims_subset tie hc)
    have htr : (u.conclude tie).isReceiving r = false := by
      refine Bool.eq_false_iff.2 fun h => ?_
      simp only [State.isReceiving, Bool.and_eq_true, beq_iff_eq] at h
      have := hactedOn.active h.1
      rw [hfreed.self] at this
      cases this
    refine ⟨by rw [hactedOn.str, hstr], by rw [hactedOn.str, hstr]; exact hwaiting, by rw [hactedOn.str, hstr]; exact hst,
      State.receiving_of hqn (by simp [State.isReceiving, htq, hqst, htidle]) (hqr ▸ htr), by rw [htq]⟩
  · obtain ⟨-, hstr⟩ := hrec (by rw [StreamRec.copiesInOrder, hwaiting]; exact List.Pairwise.nil)
    have hlater : Taken.isFirst ⟨(s.lr r).takeSeq, g⟩ (s.takesHeld n (some r)) = false := by
      refine Bool.eq_false_iff.2 fun h => ?_
      have hmem : (s.lr r.partner).takeSeq ∈ s.takesHeld n (some r) := State.mem_takesHeld.2
        ⟨r.partner, streamOf_partner hr, by simp [hearlier], by simpa using (LrId.partner_ne hr).symm, rfl⟩
      exact absurd (Taken.isFirst_iff.1 h _ hmem) (Nat.not_lt.2 hbefore.le)
    rw [StreamRec.afterFinish_waits hcyclic hwaiting hlater hst] at hstr
    have htake : u.capTake n = u := State.capTake_of_not (.inr (by rw [hstr]; exact hqueue))
    have hchecked : u.checkStopped n = u := State.checkStopped_of_not (by
      rw [hstr]
      exact fun h => by cases hst.symm.trans h)
    rw [htake, hchecked, hactedOn.str, hstr]
    exact ⟨hqueue, rfl, hst⟩
  · obtain ⟨hfreed, hstr⟩ := hrec (by rw [StreamRec.copiesInOrder, hwaiting]; exact List.pairwise_singleton _ _)
    have hempty : s.takesHeld n (some r) = [] := List.eq_nil_iff_forall_not_mem.2 fun seq hseq => by
      have := (State.takesHeld_partner hr hseq).1
      rw [hpartner] at this
      cases this
    rw [hempty, StreamRec.afterFinish_wakes hcyclic hwaiting hbefore hst hstop hqueue] at hstr
    have hureceiving : u.receiving n = none := (hfreed.receiving (by simp [State.isReceiving, hactive])
      fun q hq _ => hplacedPending hplaced q hq).trans hnone
    have hmay : u.mayReceive n (u.str n) := by
      rw [hstr]
      exact ⟨hdir, hstop, hureceiving, .inl rfl⟩
    rw [State.capTake_checkStopped hmay]
    obtain ⟨⟨hreceives, htstr⟩, -⟩ := hfreed.take hr ((hplacedPending hplaced r hr).trans hidle) hmay
      (by rw [hstr]; exact ⟨rfl, fun q => by cases q <;> rfl⟩) hfree hactedOn
    obtain ⟨p, hp⟩ : ∃ p, u.freeReg n = some p := Option.isSome_iff_exists.1 (by
      rw [State.freeReg, List.find?_isSome]
      exact ⟨r, mem_regsOf.2 hr, by rw [hfreed.self, LineReg.cleared_isFree]; rfl⟩)
    rw [hp, hstr] at hreceives
    obtain ⟨hlr, hq, -, -⟩ := hreceives
    refine ⟨?_, hq, ?_, p, (State.freeReg_spec hp).1, by rw [hlr]; rfl, by rw [hlr]; rfl⟩
    · rw [htstr, hstr]
      simp
    · rw [htstr, hstr]

/-! ## A discarded LOAD or COMMIT (R71) -/

/-- The register with nothing more to discard (R71). -/
def LineReg.discarded (x : LineReg) : LineReg :=
  { x with discardPending := none }

theorem LineReg.discarded_isFree {x : LineReg} (h : x.state = .empty) : x.discarded.isFree = true := by
  simp [LineReg.isFree, LineReg.discarded, h]

theorem State.streamTakes_of_empty (h : (s.str n).queue = []) : s.streamTakes n = s := by
  unfold State.streamTakes
  split
  · exact State.playTakes_of_empty h
  · exact State.capTake_of_not (.inr h)
  · rfl

theorem State.streamTakes_of_stopping (h : (s.str n).state = .stopping) : s.streamTakes n = s := by
  unfold State.streamTakes
  split
  · exact if_neg (by simp [StreamRec.playTaking, h])
  · exact State.capTake_of_not (.inl fun hmay => by simp [State.mayReceive, h] at hmay)
  · rfl

/-- Settles O11: the register is free for its stream; then the stream takes, or its stop ends. -/
theorem discardedCompletionFreesRegister : Obligations.DiscardedCompletionFreesRegister := by
  intro s op dt tie r n hdue hkind hcl hr hd hidle x
  have hc := s.completing_of_due hdue
  have hrun : ∀ {φ : State → Prop},
      φ (((((((s.advance dt).completed op).mapLr r LineReg.discarded).streamTakes n).checkStopped n).conclude tie)) →
      Completes (op.claim.kind.completion dt tie) s φ := fun hφ => by
    obtain hk | hk := hkind
    · rw [hk]
      rw [hk] at hd
      refine completes_of_run s (i := .loadCompletion ⟨dt, tie⟩) rfl ?_
      simp only [Instr.run, Instr.elapsed]
      rw [loadCompletion_discarded tie hc hk hcl hr hd]
      exact hφ
    · rw [hk]
      rw [hk] at hd
      refine completes_of_run s (i := .commitCompletion ⟨dt, tie⟩) rfl ?_
      simp only [Instr.run, Instr.elapsed]
      rw [commitCompletion_discarded tie hc hk hcl hr hd]
      exact hφ
  generalize hu : ((s.advance dt).completed op).mapLr r LineReg.discarded = u at *
  have hlr : ∀ q, u.lr q = if q = r then (s.lr r).discarded else s.lr q := fun q => by
    rw [← hu, State.mapLr, State.lr_setLr]
    simp [State.advance, State.lr]
  have hste : u.ste = s.ste := by rw [← hu]; simp [State.advance]
  have hstr : ∀ m, u.str m = s.str m := fun m => by rw [State.str, hste, State.str]
  have htold : s.toldAs u := by rw [← hu]; exact ⟨by simp [State.advance], by simp [State.advance]⟩
  have hrqe : u.rqe = s.rqe := by rw [← hu]; simp [State.advance]
  have hpending : ∀ q, s.claimPending q = false → u.claimPending q = false := fun q hq => by
    rw [← hu, State.claimPending_congr (s := (s.advance dt).completed op) (by simp)]
    exact State.completed_claimPending (s := s.advance dt) hq
  have hfreed : (s.lr r).state = .empty → s.freed u n r (s.lr r).discarded := fun hempty =>
    ⟨hlr, rfl, hempty, fun q _ _ hq => hpending q hq, hstr _⟩
  have hsame : (s.str n).sameTakes (u.str n) := by rw [hstr]; exact ⟨rfl, fun _ => rfl⟩
  have hself : ∀ {t : State}, u.actedOn t → t.lr r = { s.lr r with discardPending := none } := fun hacted => by
    rw [hacted.idle (hpending r hidle), hlr, if_pos rfl]
    rfl
  refine ⟨fun hqueue hst => hrun ?_, fun hdir hstop hempty hst hpartner => hrun ?_,
    fun hmay hempty hplaced hpartner => hrun ?_, fun kind req rest hst hkind hphase hqueue hempty => hrun ?_⟩
  · rw [State.streamTakes_of_empty (by rw [hstr]; exact hqueue), State.checkStopped_of_not (by rw [hstr]; exact hst)]
    have hacted := u.conclude_actedOn tie
    exact ⟨hself hacted, hacted.ste.trans hste, by simp [htold.1], by simp [htold.2], by simp [hrqe]⟩
  · have htakes : u.streamTakes n = u.playTakes n := by
      simp only [State.streamTakes, hstr, show (s.str n).direction = .playback from hdir]
    have htaking : (u.str n).playTaking = true := by
      rw [hstr]
      obtain e | e | e | e := hst <;>
        simp [StreamRec.playTaking, show (s.str n).direction = .playback from hdir,
          show (s.str n).stopRequest = none from hstop, show (s.str n).state = _ from e]
    have htook := State.playTakes_tookFrom htaking
    have hchecked : (u.playTakes n).checkStopped n = u.playTakes n := State.checkStopped_of_not (by
      rw [htook.str, hstr]
      obtain e | e | e | e := hst <;> exact fun h => by cases e.symm.trans h)
    rw [htakes, hchecked]
    have hacted := (u.playTakes n).conclude_actedOn tie
    have hfree : u.freeOf (regsOf n) = [evenReg n, oddReg n].filter fun p => p == r || (s.lr p).isFree := by
      refine List.filter_congr fun p _ => ?_
      rw [hlr]
      by_cases hp : p = r
      · rw [if_pos hp, LineReg.discarded_isFree hempty]
        simp [hp]
      · simp [hp]
    have hfor := htook.takes
    rw [hfree] at hfor
    rw [hstr] at hfor
    refine ⟨State.takesFor_acted (State.takesFor_congr hfor (fun p _ => (hfreed hempty).content p) hsame.1
      fun q _ => hsame.2 q) hacted fun p hp => htook.steady ?_, ?_, ?_, by simp [htold.1], by simp [htold.2], by simp [hrqe]⟩
    · obtain ⟨hmem, hpfree⟩ := List.mem_filter.1 hp
      refine (hfreed hempty).isFree_idle hr (hpending r hidle) hpartner (mem_regsOf.1 hmem) ?_
      rw [← hfree] at hp
      exact (List.mem_filter.1 hp).2
    · rw [hacted.str, htook.str, hstr]
      rfl
    · rw [hacted.str, htook.other _ (otherStream_ne n), hstr]
  · have htakes : u.streamTakes n = u.capTake n := by
      simp only [State.streamTakes, hstr, show (s.str n).direction = .capture from hmay.1]
    have hreceiving : u.receiving n = s.receiving n := (hfreed hempty).receiving (by simp [State.isReceiving, hempty])
      fun q hq _ => by
        rw [← hu, State.claimPending_congr (s := (s.advance dt).completed op) (by simp)]
        exact State.completed_claimPending_of_placed (s := s.advance dt) hplaced hq
    have hmay' : u.mayReceive n (u.str n) := by rw [hstr, State.mayReceive_congr hreceiving]; exact hmay
    rw [htakes, State.capTake_checkStopped hmay']
    obtain ⟨hreceives, hother, hkept, -⟩ :=
      (hfreed hempty).take hr (hpending r hidle) hmay' hsame hpartner ((u.capTake n).conclude_actedOn tie)
    have hfreeReg : u.freeReg n = [evenReg n, oddReg n].find? fun p => p == r || (s.lr p).isFree := by
      rw [(hfreed hempty).freeReg]
      refine List.find?_congr fun p _ => ?_
      by_cases hp : p = r <;> simp [hp, LineReg.discarded_isFree hempty]
    rw [hstr, hfreeReg] at hreceives hkept
    exact ⟨hreceives, hkept, hother, by simp [htold.1], by simp [htold.2], by simp [hrqe]⟩
  · have hst' : (u.str n).state = .stopping := by rw [hstr]; exact hst
    rw [State.streamTakes_of_stopping hst', State.checkStopped_eq hst']
    obtain ⟨hstopped, hkept, -⟩ := (hfreed hempty).stop hr (hpending r hidle) (hrqe.trans (State.rqe_stopping hphase)) hqueue
      (by rw [hstr]; exact hkind) htold ((u.stopNext n).conclude_actedOn tie) (by simp) (by simp)
    rw [hstr, LineReg.discarded_isFree hempty] at hstopped
    exact ⟨by simpa using hstopped, hkept⟩

end Sys2Proof.Machine
end

section
/-! PROOF. A capture segment abandoned with its register given up, and the hold expiry of a capture register (R68, R121). -/

namespace Sys2Proof.Machine

variable {s t u : State} {n : StreamId} {r q : LrId} {g : Segment} {reason : AbandonReason} (dt : Nat)

/-! ## A segment abandoned (R117, R121, R122) -/

/-- The counters after a segment was abandoned with `given` received cells (R126). -/
def StreamRec.abandoned (x : StreamRec) (given : Nat) : StreamRec :=
  { x with counters := { x.counters with
      dropped := satAdd x.counters.dropped 1
      discarded := satAdd x.counters.discarded given } }

/-- The register's segment is abandoned: reported, counted, the register given up, the copy of a ring (R125, R126). -/
def State.capAbandoned (s : State) (n : StreamId) (r : LrId) (g : Segment) (reason : AbandonReason) : State :=
  (((s.report (.segmentAbandoned n g.row reason (s.lr r).position)).capAbandonCount n (s.lr r).position).emptyReg
    r).capFinish n ⟨(s.lr r).takeSeq, g⟩

/-- The record after it (R125, R126). -/
def State.abandonedRec (s : State) (n : StreamId) (r : LrId) (g : Segment) : StreamRec :=
  { (s.str n).afterFinish ⟨(s.lr r).takeSeq, g⟩
      (s.takesHeld n (some r) ++ ((s.str n).overrunSegment.map Taken.seq).toList) with
    counters := ((s.str n).abandoned (s.lr r).position).counters }

theorem State.capAbandoned_spec (s : State) (n : StreamId) (g : Segment) (reason : AbandonReason)
    (hr : streamOf r = some n) (horder : (s.str n).copiesInOrder) :
    s.gaveUp (s.capAbandoned n r g reason) n r ∧ (s.capAbandoned n r g reason).str n = s.abandonedRec n r g
      ∧ (s.report (.segmentAbandoned n g.row reason (s.lr r).position)).toldAs (s.capAbandoned n r g reason)
      ∧ (s.capAbandoned n r g reason).rqe = s.rqe := by
  unfold State.capAbandoned
  generalize hw : State.capAbandonCount _ n _ = w
  have hgave : s.gaveUp (w.emptyReg r) n r := by
    subst hw
    refine State.gaveUp_emptyReg ?_ (fun q => by simp) (by simp) ?_ hr
    · exact (State.engineClosed s).capAbandonCount _ ((State.engineClosed s).report _ (.refl s))
    · simp [State.capAbandonCount, State.count, State.mapStr_str, otherStream_ne]
  have hstr : (w.emptyReg r).str n = (s.str n).abandoned (s.lr r).position := by
    subst hw
    simp [State.capAbandonCount, State.count, State.mapStr_str, StreamRec.abandoned]
  have hsaid : (s.report (.segmentAbandoned n g.row reason (s.lr r).position)).toldAs (w.emptyReg r) := by
    subst hw
    exact ⟨by simp [State.capAbandonCount], by simp [State.capAbandonCount]⟩
  have hrqe : (w.emptyReg r).rqe = s.rqe := by
    subst hw
    simp [State.capAbandonCount]
  rw [hgave.freed.capFinish rfl (by rw [hstr]; exact horder)]
  refine ⟨hgave.mapStr _, ?_, hsaid, hrqe⟩
  rw [State.mapStr_str, if_pos rfl, hstr]
  exact StreamRec.afterFinish_counters _ _ _ _

theorem State.gaveUp.claimPending (h : s.gaveUp u n r) (hq : q ≠ r) : u.claimPending q = s.claimPending q := by
  rw [State.claimPending, h.claims, List.any_filter, State.claimPending]
  refine List.any_congr rfl fun c => ?_
  cases hc : c.isOf q with
  | false => simp
  | true =>
    have hother : c.isOf r = false := by
      simp only [Claim.isOf, beq_iff_eq] at hc
      simp [Claim.isOf, hc, hq]
    simp [hother]

theorem State.receiving_none_of (hr : streamOf r = some n) (hself : s.isReceiving r = false)
    (hpartner : s.isReceiving r.partner = false) : s.receiving n = none := by
  refine List.find?_eq_none.2 fun q hq => ?_
  obtain rfl | rfl := eq_or_partner hr (mem_regsOf.1 hq)
  · simp [hself]
  · simp [hpartner]

/-- Once the register that received is given up, and its partner is not ACTIVE, none receives (R110). -/
theorem State.gaveUp.receiving_none (h : s.gaveUp u n r) (hr : streamOf r = some n)
    (hactive : (s.lr r.partner).state ≠ .active) : u.receiving n = none :=
  State.receiving_none_of hr h.freed.not_receiving (by simp [State.isReceiving, h.freed.partner hr, hactive])

/-- A stop with neither an overrun segment nor a receiving register is the passage alone (R122). -/
theorem State.capStopEffect_quiet (hover : (s.str n).overrunSegment = none) (hreceiving : s.receiving n = none) :
    s.capStopEffect n = s.stopNext n := by
  have hkept : s.abandonOverrun n = s := by simp [State.abandonOverrun, hover]
  rw [State.capStopEffect_eq, hkept]
  simp [State.stopReceiving, hreceiving]

/-! ## The hold expiry of a capture register (R68, R121) -/

section Expiry

variable {start : Nat}

theorem captureHoldExpiry_of_expired (hlive : s.live = true) (hn : streamOf r = some n)
    (hg : (s.lr r).segment = some g) (hd : (s.str n).direction = .capture) (htimer : (s.lr r).holdTimer = some start)
    (htime : start + 50000 ≤ s.clock) (hst : (s.lr r).state = .active ∨ (s.lr r).state = .full) :
    captureHoldExpiry r s = (s.capExpiry n r g).settle := by
  have hexpired : s.holdExpired r = true := by
    simpa [State.holdExpired, htimer, State.elapsed, Config.holdLimit] using htime
  simp only [captureHoldExpiry, hn, hg]
  exact if_pos ⟨hlive, hd, hexpired, hst⟩

theorem State.capExpiry_receiving (h : s.isReceiving r = true) :
    s.capExpiry n r g =
      if ((s.capAbandoned n r g .stale).str n).stopRequest = some .afterSegment then
        (s.capAbandoned n r g .stale).capStopEffect n
      else if ((s.capAbandoned n r g .stale).str n).queue = [] then (s.capAbandoned n r g .stale).drain n
      else (s.capAbandoned n r g .stale).capTake n :=
  if_pos h

theorem State.capExpiry_full (h : s.isReceiving r = false) :
    s.capExpiry n r g = ((s.capAbandoned n r g .stale).capTake n).checkStopped n :=
  if_neg (by simp [h])

/-- Settles O48: the segment is abandoned; then the stream takes, drains, is left as it is, or its stop goes on. -/
theorem captureHoldExpiryAbandons : Obligations.CaptureHoldExpiryAbandons := by
  intro s dt start r n g hlive hn hg hd htimer htime hst horder x o counters y free told kept others
  have hwf : (Instr.captureHoldExpiry dt r).wellFormed = true := by simp [Instr.wellFormed, isStream_eq, hn]
  have hrun : ∀ {φ : State → Prop}, φ ((s.advance dt).capExpiry n r g).settle →
      Completes (.captureHoldExpiry dt r) s φ := fun hφ => by
    refine completes_of_run s hwf ?_
    simp only [Instr.run, Instr.elapsed]
    rwa [captureHoldExpiry_of_expired (s := s.advance dt) hlive hn hg hd htimer htime hst]
  have hreceive := State.capExpiry_receiving (s := s.advance dt) (n := n) (r := r) (g := g)
  have hfull := State.capExpiry_full (s := s.advance dt) (n := n) (r := r) (g := g)
  obtain ⟨hgave, hstr, hsaid, hrqe⟩ := (s.advance dt).capAbandoned_spec n g .stale hn horder
  generalize (s.advance dt).capAbandoned n r g .stale = u at *
  replace hgave : s.gaveUp u n r := hgave.of_advance
  replace hstr : u.str n = y := hstr
  replace hrqe : u.rqe = s.rqe := hrqe
  replace hsaid : told.toldAs u :=
    (State.toldAs.report (s := s) (t := s.advance dt) ⟨rfl, rfl⟩ _).trans hsaid
  have hfreeReg : u.freeReg n = free := by
    rw [hgave.freed.freeReg]
    refine List.find?_congr fun p _ => ?_
    by_cases hp : p = r <;> simp [hp, LineReg.cleared_isFree]
  have hsame : (s.str n).sameTakes (u.str n) := by rw [hstr]; exact (x.afterFinish_kept _ _).2.2.2
  have hkept : ∀ {v t : State}, v.actedOn t → s.engineActs v → t.rqe = s.rqe →
      t.str (otherStream n) = s.str (otherStream n) → kept t := fun hacted hacts hreq hother =>
    ⟨hother, hreq, hacted.cellsKept hacts, hacted.rfe_of hacts, hacted.slotsKept hacts⟩
  have hnotReceiving : (s.lr r).state = .full → s.isReceiving r = false := fun h => by simp [State.isReceiving, h]
  have hreceiving : (s.lr r).state = .full → u.receiving n = s.receiving n := fun h =>
    hgave.freed.receiving (hnotReceiving h) fun q _ hq => hgave.claimPending hq
  have hdirection : y.direction = .capture := (x.afterFinish_kept _ _).2.1.trans hd
  have hstopRequest : y.stopRequest = x.stopRequest := (x.afterFinish_kept _ _).1
  have hstopping : x.state = .stopping → y.state = .stopping := fun h => by
    obtain e | ⟨e, -⟩ := x.afterFinish_state ⟨(s.lr r).takeSeq, g⟩
      (s.takesHeld n (some r) ++ (x.overrunSegment.map Taken.seq).toList)
    · exact e.trans h
    · cases h.symm.trans e
  refine ⟨fun hstop hrec hactive hstate hpartner => hrun ?_, fun hst hmay hpartner => hrun ?_,
    fun hst hne hnot => hrun ?_, fun kind req rest hkind hwhen hphase hqueue => hrun ?_⟩
  · have hreceived := State.regsKept.isReceiving_of_receiving hrec
    have hnotAfter : ¬ (u.str n).stopRequest = some .afterSegment := by
      rw [hstr, hstopRequest, hstop]
      simp
    rw [hreceive hreceived, if_neg hnotAfter, hstr]
    by_cases hq : y.queue = []
    · rw [if_pos hq, if_pos hq]
      have hacted := (u.drain n).settle_actedOn
      have hacts := (State.engineClosed s).drain (n := n) hgave.acts
      have hdrained : (u.drain n).str n = { y with state := .drained } := by rw [State.drain_str, if_pos rfl, hstr]
      have hfreed := hgave.freed.congr (w := u.drain n) (fun q => by simp) (by simp)
        (by rw [State.drain_str, if_neg (otherStream_ne n)])
      have hidle : (u.drain n).claimPending r = false := by
        rw [State.claimPending_congr (s := u) (by simp), hgave.idle]
      obtain ⟨-, hother, hself, hgranted⟩ := hfreed.unmoved hidle hacted
      refine ⟨State.receivesAs_empty hq (by rw [hacted.str, hdrained]) (by rw [hstr] at hsame; exact hsame),
        ⟨fun _ => hself, fun _ => hgranted o (LrId.partner_ne hn)⟩, ?_, hkept hacted hacts (by simp [hrqe]) hother⟩
      have hempty : y.queue.isEmpty = true := List.isEmpty_iff.2 hq
      rw [hempty]
      have hreport : (told.report (.streamDrained n)).toldAs (u.drain n) :=
        State.toldAs.report (t := u.mapStr n fun x => { x with state := .drained }) hsaid _
      exact hreport.trans (u := (u.drain n).settle) ⟨by simp, by simp⟩
    · rw [if_neg hq, if_neg hq]
      have hmay' : u.mayReceive n (u.str n) := by
        rw [hstr]
        refine ⟨hdirection, hstopRequest.trans hstop, hgave.receiving_none hn hactive, ?_⟩
        obtain e | ⟨e, -⟩ := x.afterFinish_state ⟨(s.lr r).takeSeq, g⟩
          (s.takesHeld n (some r) ++ (x.overrunSegment.map Taken.seq).toList)
        · exact hstate.imp e.trans fun h => .inl (e.trans h)
        · obtain h | h := hstate <;> cases h.symm.trans e
      have hacted := (u.capTake n).settle_actedOn
      obtain ⟨hreceives, hother, hself, hgranted⟩ := hgave.freed.take hn hgave.idle hmay' hsame hpartner hacted
      rw [hfreeReg, hstr] at hreceives hself hgranted
      have hnonempty : y.queue.isEmpty = false := List.isEmpty_eq_false_iff.2 hq
      refine ⟨hreceives, ⟨hself, hgranted⟩, ?_,
        hkept hacted ((State.engineClosed s).capTake hgave.acts) (by simp [hrqe]) hother⟩
      rw [hnonempty]
      exact hsaid.trans (u := (u.capTake n).settle) ⟨by simp, by simp⟩
  · have hmay' : u.mayReceive n (u.str n) := by rw [hstr, State.mayReceive_congr (hreceiving hst)]; exact hmay
    rw [hfull (hnotReceiving hst), State.capTake_checkStopped hmay']
    have hacted := (u.capTake n).settle_actedOn
    obtain ⟨hreceives, hother, hself, hgranted⟩ := hgave.freed.take hn hgave.idle hmay' hsame hpartner hacted
    rw [hfreeReg, hstr] at hreceives hself hgranted
    exact ⟨hreceives, ⟨hself, hgranted⟩, by simp [hsaid.1], by simp [hsaid.2],
      hkept hacted ((State.engineClosed s).capTake hgave.acts) (by simp [hrqe]) hother⟩
  · have hnone : u.capTake n = u := State.capTake_of_not (by rw [hstr, State.mayReceive_congr (hreceiving hst)]; exact hnot)
    have hchecked : u.checkStopped n = u := State.checkStopped_of_not (by
      rw [hstr]
      obtain e | ⟨-, -, e⟩ := x.afterFinish_state ⟨(s.lr r).takeSeq, g⟩
        (s.takesHeld n (some r) ++ (x.overrunSegment.map Taken.seq).toList)
      · exact fun h => hne (e.symm.trans h)
      · exact fun h => by cases e.symm.trans h)
    rw [hfull (hnotReceiving hst), hnone, hchecked]
    have hacted := u.settle_actedOn
    obtain ⟨hrec, hother, hself, hgranted⟩ := hgave.freed.unmoved hgave.idle hacted
    exact ⟨hrec.trans hstr, hself, hgranted, by simp [hsaid.1], by simp [hsaid.2],
      hkept hacted hgave.acts (by simp [hrqe]) hother⟩
  · have hnext : (s.advance dt).capExpiry n r g = u.stopNext n := by
      obtain ⟨hst, hnr⟩ | ⟨rfl, hrec, hactive, hover⟩ := hwhen
      · have hst' : (u.str n).state = .stopping := by rw [hstr]; exact hstopping hst
        have hnone : u.capTake n = u := State.capTake_of_not (.inl fun h => by simp [State.mayReceive, hst'] at h)
        rw [hfull hnr, hnone, State.checkStopped_eq hst']
      · rw [hreceive (State.regsKept.isReceiving_of_receiving hrec),
          if_pos (by rw [hstr]; exact hstopRequest.trans hkind), State.capStopEffect_quiet ?_ (hgave.receiving_none hn hactive)]
        rw [hstr]
        exact (x.afterFinish_kept _ _).2.2.1.trans hover
    rw [hnext]
    have hacted := (u.stopNext n).settle_actedOn
    have hacts := (State.engineClosed s).stopNext (n := n) hgave.acts
    obtain ⟨hstopped, hself, hgranted⟩ := hgave.freed.stop hn hgave.idle (hrqe.trans (State.rqe_stopping hphase)) hqueue
      (by rw [hstr]; exact hstopRequest.trans hkind) hsaid hacted (by simp) (by simp)
    rw [hstr, LineReg.cleared_isFree] at hstopped
    exact ⟨hstopped, hself, hgranted, hacted.cellsKept hacts, hacted.rfe_of hacts, hacted.slotsKept hacts⟩

end Expiry

end Sys2Proof.Machine
end

section
/-! PROOF. Capture edges: a cell received, and what a full range brings (R66, R67, R113, R120, R123). -/

namespace Sys2Proof.Machine

variable {s t u : State} {n : StreamId} {r q : LrId} {g : Segment} (dt : Nat)

/-! ## A cell received (R66) -/

theorem rangeSections_one (a i : Nat) (hi : i < 4) : (rangeSections a 1).getLsbD i = (i == a) := by
  simp only [rangeSections, Nat.pow_one, Nat.add_one_sub_one, Nat.one_mul, BitVec.getLsbD_ofNat, Nat.testBit_two_pow]
  rw [decide_eq_true hi, Bool.true_and, Bool.eq_iff_iff, decide_eq_true_eq, beq_iff_eq]
  exact eq_comm

/-- The register keeps all but what a receipt changes, and a position more (R66). -/
theorem LineReg.received_spec (x : LineReg) (g : Segment) (cell : CellVal) (clock : Nat) :
    x.received g cell clock = { x with
      state := if x.position + 1 = g.count * 64 then .full else x.state
      content := (x.received g cell clock).content
      position := x.position + 1
      filled := (x.received g cell clock).filled
      holdTimer := some clock
      begun := true } := rfl

theorem LineReg.received_content (x : LineReg) (g : Segment) (cell : CellVal) (clock col : Nat)
    (h : 64 * g.first + x.position < x.content.length) : (x.received g cell clock).content.getD col 0 =
      if col = 64 * g.first + x.position then cell else x.content.getD col 0 := by
  have hset : (x.received g cell clock).content = x.content.set (64 * g.first + x.position) cell := rfl
  rw [hset, List.getD_eq_getElem?_getD, List.getElem?_set]
  by_cases hc : col = 64 * g.first + x.position
  · rw [if_pos hc.symm, if_pos hc, if_pos h]
    rfl
  · rw [if_neg (Ne.symm hc), if_neg hc, List.getD_eq_getElem?_getD]

theorem LineReg.received_filled (x : LineReg) (g : Segment) (cell : CellVal) (clock i : Nat) (hi : i < 4) :
    (x.received g cell clock).filled.getLsbD i = (x.filled.getLsbD i
      || ((x.position + 1) % 64 == 0 && i == g.first + (x.position + 1) / 64 - 1)) := by
  have hfilled : (x.received g cell clock).filled = if (x.position + 1) % 64 = 0 then
      x.filled ||| rangeSections (g.first + (x.position + 1) / 64 - 1) 1 else x.filled := rfl
  rw [hfilled]
  by_cases hp : (x.position + 1) % 64 = 0
  · rw [if_pos hp, BitVec.getLsbD_or, rangeSections_one _ i hi, beq_iff_eq.2 hp, Bool.true_and]
  · rw [if_neg hp, beq_eq_false_iff_ne.2 hp, Bool.false_and, Bool.or_false]

/-- The record after a cell was received (R113). -/
def StreamRec.receivedCell (x : StreamRec) : StreamRec :=
  { x with state := .running, counters := { x.counters with cellsMoved := satAdd x.counters.cellsMoved 1 } }

/-- The state after a cell was received, before what a full range brings (R66, R113). -/
def State.cellReceived (s : State) (n : StreamId) (r : LrId) (g : Segment) (cell : CellVal) : State :=
  (s.mapStr n StreamRec.receivedCell).setLr r ((s.lr r).received g cell s.clock)

theorem State.capEdge_receives {cell : CellVal} (hst : (s.str n).state = .ready ∨ (s.str n).state = .running)
    (hrec : s.receiving n = some r) (hg : (s.lr r).segment = some g) : s.capEdge n cell = s.capReceive n r g cell := by
  obtain hst | hst := hst <;> simp [State.capEdge, hst, hrec, hg]

theorem State.capReceive_eq (s : State) (n : StreamId) (g : Segment) (cell : CellVal) (hst : (s.lr r).state = .active) :
    s.capReceive n r g cell =
      if (s.lr r).position + 1 = g.count * 64 then ((s.cellReceived n r g cell).raiseCommit r g).capRangeFull n
      else s.cellReceived n r g cell := by
  have hstate : ((s.cellReceived n r g cell).lr r).state = .full ↔ (s.lr r).position + 1 = g.count * 64 := by
    rw [State.cellReceived, State.lr_setLr, if_pos rfl, LineReg.received_spec]
    by_cases h : (s.lr r).position + 1 = g.count * 64 <;> simp [h, hst]
  have hcell : s.capReceive n r g cell = if ((s.cellReceived n r g cell).lr r).state = .full then
      ((s.cellReceived n r g cell).raiseCommit r g).capRangeFull n else s.cellReceived n r g cell := rfl
  rw [hcell]
  simp only [hstate]

/-! ## The range full (R67, R113, R120, R123) -/

/-- The COMMIT of a register (R67). -/
def commitOf (r : LrId) (g : Segment) : Claim :=
  ⟨.commit, g.row, .register r, .stream⟩

/-- A COMMIT raised last waits for its grant, or is granted: at once from a FREE circuit without another claim
(R43, R46). -/
theorem State.settle_commit {cs : List Claim} (hr : streamOf r = some n) (hclaims : s.arb.claims = cs ++ [commitOf r g])
    (hidle : ∀ c ∈ cs, c.isOf r = false) :
    (s.settle.lr r = s.lr r ∨ s.settle.lr r = { s.lr r with state := .committing, holdTimer := none })
      ∧ s.settle.hasClaim (commitOf r g)
      ∧ (s.arb.circuit = .free → cs = [] → (s.row g.row).scrubPending = false →
          s.settle.inFlight = some (s.operationOf (commitOf r g))) := by
  refine ⟨?_, (State.settle_hasClaim _ _).2 (State.hasClaim_of_mem _ (by simp [hclaims])), fun hfree hnone hscrub => ?_⟩
  · obtain e | ⟨c, hc, hcr, e⟩ := s.settle_passes r
    · exact .inl e
    · rw [hclaims, List.mem_append, List.mem_singleton] at hc
      obtain hc | rfl := hc
      · exact absurd (by simpa [Claim.isOf] using hcr) (Bool.eq_false_iff.1 (hidle c hc))
      · exact .inr e
  · subst hnone
    have honly : s.arb.claims = [commitOf r g] := hclaims
    have hranked : s.claimsRanked := fun c hc => by
      rw [honly, List.mem_singleton] at hc
      subst hc
      exact ⟨nofun, nofun, fun _ => ⟨r, n, rfl, hr⟩⟩
    have hgrantable : s.grantable (commitOf r g) = true := by
      simp [State.grantable, commitOf, hscrub]
    have hbusy : s.settle.arb.circuit ≠ .free := fun hf => by
      obtain ⟨-, -, -, hall⟩ | ⟨op, hop, -⟩ := State.settle_decided _ hranked hfree honly rfl
      · have hsame : s.settle.grantable (commitOf r g) = s.grantable (commitOf r g) := by simp [State.grantable]
        rw [← hsame, hall _ (List.mem_singleton_self _)] at hgrantable
        cases hgrantable
      · rw [hf] at hop
        cases hop
    have hclosed : s.closeHeld = s := State.closeHeld_of_not_held _ (by simp [hfree])
    obtain e | ⟨-, e | ⟨c, hc, e⟩⟩ := s.settle_cases
    · rw [e] at hbusy
      exact absurd hfree hbusy
    · rw [e, hclosed] at hbusy
      exact absurd hfree hbusy
    · rw [honly, List.mem_singleton] at hc
      subst hc
      rw [hclosed] at e
      rw [e]
      exact (State.inFlight_eq_some _).2 (State.grant_spec _ _).1

/-- What a full range brings (R113, R120, R123). -/
theorem State.capRangeFull_stop (hstop : (s.str n).stopRequest = some .afterSegment)
    (hover : (s.str n).overrunSegment = none) (hreceiving : s.receiving n = none) (hbusy : s.regsFree n = false) :
    s.capRangeFull n = s.mapStr n fun x => { x with state := .stopping } := by
  rw [State.capRangeFull, if_pos hstop, State.capStopEffect_quiet hover hreceiving, State.stopNext, hbusy]
  rfl

theorem State.capRangeFull_drain (hstop : (s.str n).stopRequest = none) (hq : (s.str n).queue = []) :
    s.capRangeFull n = s.drain n := by
  rw [State.capRangeFull, if_neg (by simp [hstop]), if_pos hq]

theorem State.capRangeFull_take (hstop : (s.str n).stopRequest = none) (hq : (s.str n).queue ≠ []) :
    s.capRangeFull n = s.capTake n := by
  rw [State.capRangeFull, if_neg (by simp [hstop]), if_neg hq]

/-- What a cell received makes of the stream's registers, records and claims, with the range not full, or full and its
COMMIT claimed. -/
structure State.receivedCellTo (s u : State) (n : StreamId) (r : LrId) (y : LineReg) (more : List Claim) : Prop where
  acts : s.engineActs u
  lr : ∀ q, u.lr q = if q = r then y else s.lr q
  str : ∀ m, u.str m = if m = n then (s.str n).receivedCell else s.str m
  claims : u.arb.claims = s.arb.claims ++ more
  rqe : u.rqe = s.rqe
  told : s.toldAs u

theorem State.cellReceived_spec (s : State) (dt : Nat) (cell : CellVal) (hr : streamOf r = some n) :
    s.receivedCellTo ((s.advance dt).cellReceived n r g cell) n r ((s.lr r).received g cell (s.clock + dt)) [] := by
  unfold State.cellReceived
  refine ⟨(State.engineClosed s).setReg _ hr ((State.engineClosed s).mapStr _ (.advance s dt)), fun q => ?_, fun m => ?_,
    by simp [State.advance], by simp [State.advance], by simp [State.advance], by simp [State.advance]⟩
  · rw [State.lr_setLr]
    rfl
  · exact State.mapStr_str _ _

theorem State.receivedCellTo.raise {y : LineReg} (h : s.receivedCellTo u n r y []) (hr : streamOf r = some n) :
    s.receivedCellTo (u.raiseCommit r g) n r y [commitOf r g] :=
  ⟨(State.engineClosed s).raiseCommit g hr h.acts, h.lr, h.str, by simp [State.raiseCommit, h.claims, commitOf], h.rqe,
    h.told⟩

/-- The whole statement about a cell received, from the state `v` that the engine made of it. -/
theorem State.receivedCellTo.registers {v : State} {cell : CellVal} {clock : Nat} {more : List Claim}
    (h : s.receivedCellTo u n r ((s.lr r).received g cell clock) more) (hvr : v.lr r = u.lr r) (hacted : v.actedOn t)
    (hlength : (s.lr r).content.length = 256) (hcol : 64 * g.first + (s.lr r).position < 256) :
    t.lr r = { s.lr r with
        state := (t.lr r).state
        content := (t.lr r).content
        position := (s.lr r).position + 1
        filled := (t.lr r).filled
        holdTimer := (t.lr r).holdTimer
        begun := true }
      ∧ (∀ col, (t.lr r).content.getD col 0 =
          if col = 64 * g.first + (s.lr r).position then cell else (s.lr r).content.getD col 0)
      ∧ ∀ i, i < 4 → (t.lr r).filled.getLsbD i =
          ((s.lr r).filled.getLsbD i
            || (((s.lr r).position + 1) % 64 == 0 && i == g.first + ((s.lr r).position + 1) / 64 - 1)) := by
  have hr := hacted.regs r
  rw [hvr, h.lr, if_pos rfl] at hr
  have hcontent : (t.lr r).content = ((s.lr r).received g cell clock).content := by rw [hr]
  have hfilled : (t.lr r).filled = ((s.lr r).received g cell clock).filled := by rw [hr]
  refine ⟨?_, fun col => ?_, fun i hi => ?_⟩
  · rw [hcontent, hfilled]
    exact hr
  · rw [hcontent]
    exact LineReg.received_content _ _ _ _ _ (by rw [hlength]; exact hcol)
  · rw [hfilled]
    exact LineReg.received_filled _ _ _ _ i hi

theorem State.receivesFor_nothing {all : List Segment} {free : Option LrId} (hnone : free = none ∨ all = [])
    (hq : (t.str n).queue = all) (hsame : (s.str n).sameTakes (t.str n)) : s.receivesFor t n free all := by
  have hflags : s.lossFlags t n [] := fun q _ => by rw [hsame.2]; simp
  obtain rfl | rfl := hnone
  · exact ⟨hq, hsame.1, hflags⟩
  · cases free <;> exact ⟨hq, hsame.1, hflags⟩

/-- What the full range makes of the stream (R113, R118, R120, R123). -/
structure State.fullRangeTo (s u v t : State) (n : StreamId) (r : LrId) : Prop where
  arb : v.arb = u.arb
  clock : v.clock = u.clock
  reg : v.lr r = u.lr r
  rqe : v.rqe = s.rqe
  other : t.str (otherStream n) = s.str (otherStream n)
  str : t.str n = ({ (s.str n).receivedCell with
    state := if (s.str n).stopRequest.isSome then .stopping
      else if (s.str n).queue = [] then .drained else .running } : StreamRec).takenFrom (t.str n)
  receives : s.receivesFor t n (if (s.lr r.partner).isFree && !(s.str n).stopRequest.isSome then some r.partner else none)
    (s.str n).queue
  granted : (s.lr r.partner).isFree = false ∨ (s.str n).stopRequest.isSome = true ∨ (s.str n).queue = [] →
    s.granted t r.partner
  told : (s.reportIf ((s.str n).queue.isEmpty && !(s.str n).stopRequest.isSome) (.streamDrained n)).toldAs v

theorem StreamRec.receivedCell_same (x : StreamRec) : x.sameTakes x.receivedCell :=
  ⟨rfl, fun q => by cases q <;> rfl⟩

section RangeFull

variable {y : LineReg} (h : s.receivedCellTo u n r y [commitOf r g])

include h

theorem State.receivedCellTo.self : u.str n = (s.str n).receivedCell := by
  rw [h.str, if_pos rfl]

theorem State.receivedCellTo.other : u.str (otherStream n) = s.str (otherStream n) := by
  rw [h.str, if_neg (otherStream_ne n)]

theorem State.receivedCellTo.partner (hr : streamOf r = some n) : u.lr r.partner = s.lr r.partner := by
  rw [h.lr, if_neg (LrId.partner_ne hr)]

theorem State.receivedCellTo.receiving_none (hy : y.state = .full) (hr : streamOf r = some n)
    (hpartner : (s.lr r.partner).state ≠ .active) : u.receiving n = none :=
  State.receiving_none_of hr (by simp [State.isReceiving, h.lr, hy])
    (by simp [State.isReceiving, h.partner hr, hpartner])

theorem State.receivedCellTo.busy (hy : y.state = .full) : (u.lr r).isFree = false := by
  simp [LineReg.isFree, h.lr, hy]

theorem State.receivedCellTo.regsFree (hy : y.state = .full) (hr : streamOf r = some n) : u.regsFree n = false := by
  have hself := h.busy hy
  obtain rfl | rfl := streamOf_eq_some.1 hr <;> simp [State.regsFree, hself]

theorem State.receivedCellTo.freeReg (hy : y.state = .full) (hr : streamOf r = some n) :
    u.freeReg n = if (s.lr r.partner).isFree then some r.partner else none := by
  have hself := h.busy hy
  rw [← h.partner hr]
  obtain rfl | rfl := streamOf_eq_some.1 hr
  · have hp : (evenReg n).partner = oddReg n := by cases n <;> rfl
    rw [hp]
    cases ho : (u.lr (oddReg n)).isFree <;> simp [State.freeReg, regsOf, hself, ho]
  · have hp : (oddReg n).partner = evenReg n := by cases n <;> rfl
    rw [hp]
    cases he : (u.lr (evenReg n)).isFree <;> simp [State.freeReg, regsOf, hself, he]

/-- A stop after the segment (R123). -/
theorem State.receivedCellTo.stops (hy : y.state = .full) (hr : streamOf r = some n)
    (hover : (s.str n).overrunSegment = none) (hpartner : (s.lr r.partner).state ≠ .active)
    (hstop : (s.str n).stopRequest = some .afterSegment) (hacted : (u.capRangeFull n).actedOn t) :
    s.fullRangeTo u (u.capRangeFull n) t n r := by
  have hend := State.capRangeFull_stop (s := u) (n := n) (by rw [h.self]; exact hstop) (by rw [h.self]; exact hover)
    (h.receiving_none hy hr hpartner) (h.regsFree hy hr)
  rw [hend] at hacted ⊢
  have hstr : t.str n = { (s.str n).receivedCell with state := .stopping } := by
    rw [hacted.str, State.mapStr_str, if_pos rfl, h.self]
  refine ⟨rfl, rfl, rfl, h.rqe, ?_, ?_, ?_, fun _ => hacted.granted (h.partner hr), ?_⟩
  · rw [hacted.str, State.mapStr_str, if_neg (otherStream_ne n), h.other]
  · rw [hstr, hstop]
    rfl
  · exact State.receivesFor_nothing (.inl (by simp [hstop])) (by rw [hstr]; rfl)
      (by rw [hstr]; exact (s.str n).receivedCell_same)
  · rw [hstop, Option.isSome_some, Bool.not_true, Bool.and_false]
    exact h.told

/-- An empty queue (R120). -/
theorem State.receivedCellTo.drains (hr : streamOf r = some n) (hstop : (s.str n).stopRequest = none)
    (hq : (s.str n).queue = []) (hacted : (u.capRangeFull n).actedOn t) :
    s.fullRangeTo u (u.capRangeFull n) t n r := by
  have hend := State.capRangeFull_drain (s := u) (n := n) (by rw [h.self]; exact hstop) (by rw [h.self]; exact hq)
  rw [hend] at hacted ⊢
  have hstr : t.str n = { (s.str n).receivedCell with state := .drained } := by
    rw [hacted.str, State.drain_str, if_pos rfl, h.self]
  refine ⟨by simp, by simp, by simp, by simp [h.rqe], ?_, ?_, ?_, fun _ => hacted.granted (by simpa using h.partner hr), ?_⟩
  · rw [hacted.str, State.drain_str, if_neg (otherStream_ne n), h.other]
  · rw [hstr, hstop, if_pos hq]
    rfl
  · exact State.receivesFor_nothing (.inr hq) (by rw [hstr]; rfl) (by rw [hstr]; exact (s.str n).receivedCell_same)
  · rw [hstop, hq]
    exact State.toldAs.report (t := u.mapStr n fun x => { x with state := .drained }) h.told _

/-- The next segment, into the other register if that is free (R113). -/
theorem State.receivedCellTo.takes (hy : y.state = .full) (hr : streamOf r = some n)
    (hd : (s.str n).direction = .capture) (hpartner : (s.lr r.partner).state ≠ .active)
    (hfree : (s.lr r.partner).isFree = true → s.claimPending r.partner = false)
    (hstop : (s.str n).stopRequest = none) (hq : (s.str n).queue ≠ []) (hacted : (u.capRangeFull n).actedOn t) :
    s.fullRangeTo u (u.capRangeFull n) t n r := by
  have hend := State.capRangeFull_take (s := u) (n := n) (by rw [h.self]; exact hstop) (by rw [h.self]; exact hq)
  rw [hend] at hacted ⊢
  have hmay : u.mayReceive n (u.str n) := by
    rw [h.self]
    exact ⟨hd, hstop, h.receiving_none hy hr hpartner, .inr (.inl rfl)⟩
  have hreg : u.freeReg n = if (s.lr r.partner).isFree && !(s.str n).stopRequest.isSome then some r.partner else none := by
    rw [h.freeReg hy hr, hstop]
    simp
  have hidle : ∀ q, streamOf q = some n → (u.lr q).isFree = true → u.claimPending q = false := fun q hqn hqfree => by
    obtain rfl | rfl := eq_or_partner hr hqn
    · rw [h.busy hy] at hqfree
      cases hqfree
    · rw [h.partner hr] at hqfree
      have hcommit : (commitOf r g).isOf r.partner = false := by
        simp [commitOf, Claim.isOf, Claim.register?, (LrId.partner_ne hr).symm]
      have hnone : (s.arb.claims.any fun c => c.isOf r.partner) = false := hfree hqfree
      rw [State.claimPending, h.claims, List.any_append, hnone]
      simp [hcommit]
  obtain ⟨⟨hreceives, hstr⟩, hother, hgranted, -⟩ := State.receivedAfter_of (s := s) hmay
    (by rw [h.self]; exact (s.str n).receivedCell_same) (fun q hq => by
      rw [h.freeReg hy hr] at hq
      split at hq
      · cases hq
        rw [h.partner hr]
      · cases hq) hidle hacted
  rw [h.self] at hreceives hstr hgranted
  rw [hreg] at hreceives hgranted
  refine ⟨by simp, by simp, (State.capTake_receivedFrom hmay).lr r (.inl ?_), by simp [h.rqe], by rw [hother, h.other], ?_, hreceives,
    fun hnot => ?_, ?_⟩
  · rw [hreg]
    split
    · simpa using LrId.partner_ne hr
    · simp
  · rw [hstr, hstop]
    simp [StreamRec.receivedCell, hq, StreamRec.takenFrom]
  · have := hgranted r.partner (by
      obtain e | e | e := hnot
      · simp [e]
      · simp [hstop] at e
      · exact .inr e)
    rwa [State.granted, h.partner hr] at this
  · have hempty : (s.str n).queue.isEmpty = false := List.isEmpty_eq_false_iff.2 hq
    rw [hempty, Bool.false_and]
    exact h.told.trans ⟨by simp, by simp⟩

end RangeFull

/-- Settles O45: the cell goes into the register; a full range claims the COMMIT, and then the stream stops, drains or
takes. -/
theorem captureEdgeReceivesCell : Obligations.CaptureEdgeReceivesCell := by
  intro s dt n cell r g hlive hd hst hrec hg hlength hcol hnow hover hpartner hfree
  have hrn := State.streamOf_receiving hrec
  have hreceived := State.regsKept.isReceiving_of_receiving hrec
  simp only [State.isReceiving, Bool.and_eq_true, beq_iff_eq, Bool.not_eq_true'] at hreceived
  obtain ⟨hactive, hidle⟩ := hreceived
  have hrun : ∀ {φ : State → Prop}, φ (if (s.lr r).position + 1 = g.count * 64 then
        (((s.advance dt).cellReceived n r g cell).raiseCommit r g).capRangeFull n
        else (s.advance dt).cellReceived n r g cell).settle → Completes (.captureEdge dt n cell) s φ := fun hφ => by
    refine completes_of_run s (i := .captureEdge dt n cell) rfl ?_
    simp only [Instr.run, Instr.elapsed]
    rw [captureEdge_of_live (s := s.advance dt) cell hlive hd, State.capEdge_receives (s := s.advance dt) hst hrec hg,
      State.capReceive_eq (s.advance dt) n g cell hactive]
    exact hφ
  have hspec := s.cellReceived_spec (g := g) dt cell hrn
  have hclock : ((s.advance dt).cellReceived n r g cell).clock = s.clock + dt := rfl
  generalize (s.advance dt).cellReceived n r g cell = w at *
  refine hrun ?_
  by_cases hfull : (s.lr r).position + 1 = g.count * 64
  · rw [if_pos hfull]
    have hraised := hspec.raise (g := g) hrn
    have hacted := ((w.raiseCommit r g).capRangeFull n).settle_actedOn
    have hacts := (State.engineClosed s).capRangeFull (n := n) hraised.acts
    have hstate : ((s.lr r).received g cell (s.clock + dt)).state = .full := by
      rw [LineReg.received_spec, if_pos hfull]
    have hrange : s.fullRangeTo (w.raiseCommit r g) ((w.raiseCommit r g).capRangeFull n)
        ((w.raiseCommit r g).capRangeFull n).settle n r := by
      cases hstop : (s.str n).stopRequest with
      | some kind =>
        cases kind with
        | now => exact absurd hstop hnow
        | afterSegment => exact hraised.stops hstate hrn hover hpartner hstop hacted
      | none =>
        by_cases hq : (s.str n).queue = []
        · exact hraised.drains hrn hstop hq hacted
        · exact hraised.takes hstate hrn hd hpartner hfree hstop hq hacted
    generalize (w.raiseCommit r g).capRangeFull n = v at *
    obtain ⟨hreg, hcontent, hfilled⟩ := hraised.registers hrange.reg hacted hlength hcol
    obtain ⟨hpassed, hclaim, hgrant⟩ := v.settle_commit hrn (by rw [hrange.arb]; exact hraised.claims)
      (fun c hc => Bool.eq_false_iff.2 fun h => List.any_eq_false.1 hidle c hc h)
    have hvr : v.lr r = (s.lr r).received g cell (s.clock + dt) := by rw [hrange.reg, hraised.lr, if_pos rfl]
    have hclock : v.settle.clock = s.clock + dt := by rw [hacted.clock, hrange.clock]; exact hclock
    refine ⟨hreg, hcontent, hfilled, hrange.other, by simp [hrange.rqe], hacted.cellsKept hacts, hacted.rfe_of hacts,
      hacted.slotsKept hacts, ?_⟩
    rw [if_pos hfull]
    refine ⟨?_, hclaim, fun hcirc hnone hscrub => ?_, hrange.str, hrange.receives, hrange.granted,
      hrange.told.trans (u := v.settle) ⟨by simp, by simp⟩⟩
    · obtain e | e := hpassed
      · refine .inl ⟨by rw [e, hvr, hstate], ?_⟩
        rw [e, hvr, hclock]
        rfl
      · exact .inr ⟨by rw [e], by rw [e]⟩
    · refine ⟨_, hgrant (by rw [hacts.circuit]; exact hcirc) hnone ?_, rfl, ?_, ?_⟩
      · rw [State.row_congr hacts.rat]
        exact hscrub
      · rw [hacted.regs r]
        rfl
      · rw [hacted.clock]
        rfl
  · rw [if_neg hfull]
    have hacted := w.settle_actedOn
    obtain ⟨hreg, hcontent, hfilled⟩ := hspec.registers rfl hacted hlength hcol
    have hwr : w.settle.lr r = (s.lr r).received g cell (s.clock + dt) := by
      rw [hacted.idle, hspec.lr, if_pos rfl]
      simpa [State.claimPending, hspec.claims] using hidle
    refine ⟨hreg, hcontent, hfilled, ?_, by simp [hspec.rqe], hacted.cellsKept hspec.acts, hacted.rfe_of hspec.acts,
      hacted.slotsKept hspec.acts, ?_⟩
    · rw [hacted.str, hspec.str, if_neg (otherStream_ne n)]
    · rw [if_neg hfull]
      refine ⟨?_, ?_, ?_, hacted.granted (by rw [hspec.lr, if_neg (LrId.partner_ne hrn)]), by simp [hspec.told.1],
        by simp [hspec.told.2]⟩
      · rw [hwr, LineReg.received_spec, if_neg hfull]
        exact hactive
      · rw [hwr, hacted.clock, hclock]
        rfl
      · rw [hacted.str, hspec.str, if_pos rfl]
        rfl

end Sys2Proof.Machine
end

section
/-! PROOF. Capture edges with no receiving register (R114, R116, R117, R120). -/

namespace Sys2Proof.Machine

variable {s t u : State} {n : StreamId} {r q : LrId} {g : Segment} {k : Taken} (dt : Nat)

/-! ## The overrun segment abandoned (R117, R122) -/

theorem satAdd_zero {w : Nat} (c : BitVec w) : satAdd c 0 = c := by
  simp [satAdd, c.isLt]

/-- The record with no overrun segment, one segment more dropped (R117). -/
def StreamRec.overrunEnded (x : StreamRec) : StreamRec :=
  { x with
    overrunSegment := none
    overrunCount := 0
    counters := { x.counters with dropped := satAdd x.counters.dropped 1 } }

theorem StreamRec.afterFinish_overrunEnded (x : StreamRec) (k : Taken) (held : List Nat) :
    x.overrunEnded.afterFinish k held = { x.afterFinish k held with
      overrunSegment := none
      overrunCount := 0
      counters := { x.counters with dropped := satAdd x.counters.dropped 1 } } := by
  cases hcyclic : x.cyclic <;> simp [StreamRec.afterFinish, StreamRec.overrunEnded, hcyclic]

/-- What an engine makes of a stream's record alone: registers, claims and the other stream are as in `s`. -/
structure State.recordOnly (s u : State) (n : StreamId) : Prop where
  acts : s.engineActs u
  lr : ∀ q, u.lr q = s.lr q
  claims : u.arb.claims = s.arb.claims
  other : u.str (otherStream n) = s.str (otherStream n)
  rqe : u.rqe = s.rqe

theorem State.recordOnly.refl (s : State) : s.recordOnly s n :=
  ⟨.refl s, fun _ => rfl, rfl, rfl, rfl⟩

theorem State.recordOnly.mapStr (h : s.recordOnly u n) (f : StreamRec → StreamRec) : s.recordOnly (u.mapStr n f) n :=
  ⟨(State.engineClosed s).mapStr f h.acts, fun q => by simp [h.lr], by simp [h.claims],
    by simp [State.mapStr_str, otherStream_ne, h.other], by simp [h.rqe]⟩

theorem State.recordOnly.report (h : s.recordOnly u n) (x : Notice) : s.recordOnly (u.report x) n :=
  ⟨(State.engineClosed s).report x h.acts, fun q => by simp [h.lr], by simp [h.claims],
    by simp [h.other], by simp [h.rqe]⟩

theorem State.recordOnly.claimPending (h : s.recordOnly u n) (q : LrId) : u.claimPending q = s.claimPending q := by
  rw [State.claimPending, h.claims, State.claimPending]

theorem State.recordOnly.receiving (h : s.recordOnly u n) : u.receiving n = s.receiving n := by
  refine List.find?_congr fun q _ => ?_
  rw [State.isReceiving, h.lr, h.claimPending, State.isReceiving]

theorem State.recordOnly.freeReg (h : s.recordOnly u n) :
    u.freeReg n = [evenReg n, oddReg n].find? fun r => (s.lr r).isFree :=
  List.find?_congr fun q _ => by rw [h.lr]

theorem State.recordOnly.regsFree (h : s.recordOnly u n) : u.regsFree n = s.regsFree n := by
  rw [State.regsFree, h.lr, h.lr, State.regsFree]

theorem State.capAbandonOverrun_spec (s : State) (n : StreamId) (k : Taken) (cells : Nat)
    (horder : (s.str n).copiesInOrder) :
    s.recordOnly (s.capAbandonOverrun n k cells) n
      ∧ (s.capAbandonOverrun n k cells).str n = { (s.str n).afterFinish k (s.takesHeld n none) with
          overrunSegment := none
          overrunCount := 0
          counters := { (s.str n).counters with dropped := satAdd (s.str n).counters.dropped 1 } }
      ∧ (s.report (.segmentAbandoned n k.segment.row .overrun cells)).toldAs (s.capAbandonOverrun n k cells) := by
  have hcount : s.capAbandonOverrun n k cells = ((s.report (.segmentAbandoned n k.segment.row .overrun cells)).mapStr n
      StreamRec.overrunEnded).capFinish n k := by
    rw [State.capAbandonOverrun, State.capAbandonCount, State.count, State.mapStr_mapStr]
    simp only [satAdd_zero]
    rfl
  have hended := ((State.recordOnly.refl s).report (n := n)
    (.segmentAbandoned n k.segment.row .overrun cells)).mapStr StreamRec.overrunEnded
  have hstr : ((s.report (.segmentAbandoned n k.segment.row .overrun cells)).mapStr n StreamRec.overrunEnded).str n
      = (s.str n).overrunEnded := by
    rw [State.mapStr_str, if_pos rfl]
    simp
  have hsaid : (s.report (.segmentAbandoned n k.segment.row .overrun cells)).toldAs
      ((s.report (.segmentAbandoned n k.segment.row .overrun cells)).mapStr n StreamRec.overrunEnded) := ⟨rfl, rfl⟩
  generalize State.mapStr _ n StreamRec.overrunEnded = w at *
  have hheld : ∀ seq, seq ∈ w.heldSeqs n ↔ seq ∈ s.takesHeld n none := fun seq => by
    rw [State.mem_heldSeqs, State.mem_takesHeld, hstr]
    simp [hended.lr, StreamRec.overrunEnded]
  rw [hcount, State.capFinish_eq (by rw [hstr]; exact horder)]
  refine ⟨hended.mapStr _, ?_, hsaid⟩
  rw [State.mapStr_str, if_pos rfl, hstr, StreamRec.afterFinish_congr hheld]
  exact StreamRec.afterFinish_overrunEnded _ _ _

/-! ## A cell counted against an overrun segment (R116, R117) -/

/-- The record after a cell counted against the overrun segment `k`, after `before` others (R116). -/
def StreamRec.overrunCounted (x : StreamRec) (k : Taken) (before : Nat) : StreamRec :=
  { x with
    state := .overrun
    overrunSegment := some k
    overrunCount := before + 1
    counters := { x.counters with
      starvedCells := satAdd x.counters.starvedCells 1
      discarded := satAdd x.counters.discarded 1 } }

theorem StreamRec.overrunCounted_same {x : StreamRec} (hst : x.state = .overrun) (hover : x.overrunSegment = some k)
    (before : Nat) : x.overrunCounted k before = { x with
      overrunCount := before + 1
      counters := { x.counters with
        starvedCells := satAdd x.counters.starvedCells 1
        discarded := satAdd x.counters.discarded 1 } } := by
  rw [StreamRec.overrunCounted, ← hst, ← hover]

theorem StreamRec.afterFinish_overrunCount (x : StreamRec) (count : Nat) (counters : Counters) (k : Taken)
    (held : List Nat) : ({ x with overrunCount := count, counters := counters } : StreamRec).afterFinish k held =
      { x.afterFinish k held with overrunCount := count, counters := counters } := by
  cases hcyclic : x.cyclic <;> simp [StreamRec.afterFinish, hcyclic]

theorem State.capOverrunCount_eq (s : State) (n : StreamId) (k : Taken) (before : Nat) :
    s.capOverrunCount n k before =
      if before + 1 = k.segment.count * 64 then (s.mapStr n fun x => x.overrunCounted k before).capOverrunEnd n k
      else s.mapStr n fun x => x.overrunCounted k before := rfl

/-- The record when the head of the queue becomes the overrun segment (R116). -/
def StreamRec.overrunBegun (x : StreamRec) (g : Segment) (rest : List Segment) : StreamRec :=
  ({ x with
    queue := rest
    taken := x.taken + 1
    counters := { x.counters with
      underruns := if x.state = .overrun then x.counters.underruns else satAdd x.counters.underruns 1 } }
    : StreamRec).overrunCounted ⟨x.taken, g⟩ 0

/-- A stream with no receiving register that has none to wait for. -/
def StreamRec.misses (x : StreamRec) : Prop :=
  x.state = .ready ∨ x.state = .running ∨ x.state = .overrun ∧ x.overrunSegment = none

theorem State.capOverrunTake_eq (s : State) (n : StreamId) (g : Segment) (rest : List Segment) :
    s.capOverrunTake n g rest = s.mapStr n fun x =>
      ({ x with queue := rest, taken := x.taken + 1 } : StreamRec).overrunCounted ⟨(s.str n).taken, g⟩ 0 := by
  rw [State.capOverrunTake, State.capOverrunCount_eq, if_neg (by omega), State.mapStr_mapStr]
  exact State.mapStr_congr rfl

theorem State.capEdge_takes {cell : CellVal} {rest : List Segment} (hst : (s.str n).misses)
    (hrec : s.receiving n = none) (hq : (s.str n).queue = g :: rest) : s.capEdge n cell = s.mapStr n fun x => x.overrunBegun g rest := by
  obtain e | e | ⟨e, hover⟩ := hst
  case inr.inr =>
    have hedge : s.capEdge n cell = s.capOverrunTake n g rest := by simp only [State.capEdge, e, hover, hq]
    rw [hedge, State.capOverrunTake_eq]
    exact State.mapStr_congr (by simp [StreamRec.overrunBegun, e])
  all_goals
    have hedge : s.capEdge n cell =
        (s.count n fun c => { c with underruns := satAdd c.underruns 1 }).capOverrunTake n g rest := by
      simp only [State.capEdge, e, hrec, hq]
    rw [hedge, State.capOverrunTake_eq, State.count, State.mapStr_mapStr]
    refine State.mapStr_congr ?_
    simp [StreamRec.overrunBegun, e, State.mapStr_str]

/-- The record after a discarded cell (R120). -/
def StreamRec.cellDiscarded (x : StreamRec) : StreamRec :=
  { x with counters := { x.counters with discarded := satAdd x.counters.discarded 1 } }

theorem State.capEdge_drains {cell : CellVal} (hst : (s.str n).misses) (hrec : s.receiving n = none)
    (hq : (s.str n).queue = []) : s.capEdge n cell = (s.drain n).mapStr n StreamRec.cellDiscarded := by
  obtain e | e | ⟨e, hover⟩ := hst
  · simp only [State.capEdge, e, hrec, hq]
    rfl
  · simp only [State.capEdge, e, hrec, hq]
    rfl
  · simp only [State.capEdge, e, hover, hq]
    rfl

theorem State.capEdge_counts {cell : CellVal} (hst : (s.str n).state = .overrun)
    (hover : (s.str n).overrunSegment = some k) :
    s.capEdge n cell =
      if (s.str n).overrunCount + 1 = k.segment.count * 64 then
        (s.mapStr n fun x => x.overrunCounted k (s.str n).overrunCount).capOverrunEnd n k
      else s.mapStr n fun x => x.overrunCounted k (s.str n).overrunCount := by
  simp only [State.capEdge, hst, hover, State.capOverrunCount_eq]

/-! ## The obligation -/

/-- An edge that changes the record alone, and the arbiter's acts after it. -/
theorem State.recordOnly.settled (h : s.recordOnly u n) : u.settle.str n = u.str n
    ∧ u.settle.hlc = u.hlc ∧ u.settle.ntu = u.ntu ∧ s.registersKept u.settle
    ∧ u.settle.str (otherStream n) = s.str (otherStream n) ∧ u.settle.rqe = s.rqe ∧ s.cellsKept u.settle
    ∧ u.settle.rfe = s.rfe ∧ s.slotsKept u.settle := by
  have hacted := u.settle_actedOn
  exact ⟨hacted.str n, by simp, by simp, hacted.registersKept h.lr, (hacted.str _).trans h.other, by simp [h.rqe],
    hacted.cellsKept h.acts, hacted.rfe_of h.acts, hacted.slotsKept h.acts⟩

theorem State.recordOnly.advance (s : State) (dt : Nat) : s.recordOnly (s.advance dt) n :=
  ⟨.advance s dt, fun _ => rfl, rfl, rfl, rfl⟩

theorem State.engineActs.trans {v : State} (h : s.engineActs u) (h' : u.engineActs v) : s.engineActs v :=
  ⟨h'.rat.trans h.rat, h'.rfe.trans h.rfe, h'.sst.trans h.sst, h'.powered.trans h.powered, h'.hrst.trans h.hrst,
    h'.circuit.trans h.circuit⟩

theorem State.recordOnly.trans {v : State} (h : s.recordOnly u n) (h' : u.recordOnly v n) : s.recordOnly v n :=
  ⟨h.acts.trans h'.acts, fun q => (h'.lr q).trans (h.lr q), h'.claims.trans h.claims, h'.other.trans h.other,
    h'.rqe.trans h.rqe⟩

/-- The count of an overrun segment ends: the segment is abandoned; the stream takes or drains (R117, R118, R120). -/
theorem State.capOverrunEnd_settled {w : State} {count : Nat} {counters : Counters}
    (hd : (s.str n).direction = .capture) (hstop : (s.str n).stopRequest = none) (hst : (s.str n).state = .overrun)
    (horder : (s.str n).copiesInOrder) (hrec : s.receiving n = none)
    (hfree : ∀ r, r = evenReg n ∨ r = oddReg n → (s.lr r).isFree = true → s.claimPending r = false)
    (hcounted : s.recordOnly w n) (hstr : w.str n = { s.str n with overrunCount := count, counters := counters })
    (hsaid : s.toldAs w) :
    let t := (w.capOverrunEnd n k).settle
    let free := [evenReg n, oddReg n].find? fun r => (s.lr r).isFree
    let y : StreamRec := { (s.str n).afterFinish k (s.takesHeld n none) with
      overrunSegment := none
      overrunCount := 0
      counters := { counters with dropped := satAdd counters.dropped 1 } }
    s.receivesAs t n free (if y.queue = [] then { y with state := .drained } else y)
      ∧ (let told := (s.report (.segmentAbandoned n k.segment.row .overrun (k.segment.count * 64))).reportIf
            y.queue.isEmpty (.streamDrained n)
         t.hlc = told.hlc ∧ t.ntu = told.ntu)
      ∧ (∀ q, free ≠ some q ∨ y.queue = [] → s.granted t q)
      ∧ t.str (otherStream n) = s.str (otherStream n) ∧ t.rqe = s.rqe ∧ s.cellsKept t ∧ t.rfe = s.rfe ∧ s.slotsKept t := by
  intro t free y
  obtain ⟨hmore, hustr, htold⟩ := w.capAbandonOverrun_spec n k k.segment.range (by rw [hstr]; exact horder)
  have hend : t = (if ((w.capAbandonOverrun n k k.segment.range).str n).queue = [] then
      (w.capAbandonOverrun n k k.segment.range).drain n else (w.capAbandonOverrun n k k.segment.range).capTake n).settle := rfl
  generalize w.capAbandonOverrun n k k.segment.range = u at *
  have honly : s.recordOnly u n := hcounted.trans hmore
  have hheld : ∀ seq, seq ∈ w.takesHeld n none ↔ seq ∈ s.takesHeld n none := fun seq => by
    simp [State.mem_takesHeld, hcounted.lr]
  have hy : u.str n = y := by
    rw [hustr, hstr, StreamRec.afterFinish_congr hheld, StreamRec.afterFinish_overrunCount]
  have hsaid' : (s.report (.segmentAbandoned n k.segment.row .overrun (k.segment.count * 64))).toldAs u :=
    (State.toldAs.report hsaid _).trans htold
  obtain ⟨hstop', hd', -, hsame'⟩ := (s.str n).afterFinish_kept k (s.takesHeld n none)
  have hsame : (s.str n).sameTakes y := hsame'
  rw [hy] at hend
  by_cases hq : y.queue = []
  · rw [if_pos hq] at hend ⊢
    rw [hend]
    have hdrained : s.recordOnly (u.drain n) n :=
      (honly.mapStr fun z => { z with state := .drained }).report (.streamDrained n)
    obtain ⟨hrec', -, -, hregs, hkept⟩ := hdrained.settled
    have hreport : ((s.report (.segmentAbandoned n k.segment.row .overrun (k.segment.count * 64))).report
        (.streamDrained n)).toldAs (u.drain n) :=
      State.toldAs.report (t := u.mapStr n fun z => { z with state := .drained }) hsaid' _
    refine ⟨State.receivesAs_empty hq ?_ hsame, ?_, fun q _ => hregs q, hkept⟩
    · rw [hrec', State.drain_str, if_pos rfl, hy]
    · rw [List.isEmpty_iff.2 hq]
      exact hreport.trans (u := (u.drain n).settle) ⟨by simp, by simp⟩
  · rw [if_neg hq] at hend ⊢
    rw [hend]
    have hmay : u.mayReceive n (u.str n) := by
      rw [hy, State.mayReceive, honly.receiving]
      refine ⟨hd'.trans hd, hstop'.trans hstop, hrec, .inr (.inr ⟨?_, rfl⟩)⟩
      obtain e | ⟨e, -⟩ := (s.str n).afterFinish_state k (s.takesHeld n none)
      · exact e.trans hst
      · cases hst.symm.trans e
    have hacted := (u.capTake n).settle_actedOn
    have hidle : ∀ q, streamOf q = some n → (u.lr q).isFree = true → u.claimPending q = false := fun q hq hf => by
      rw [honly.claimPending]
      exact hfree q (streamOf_eq_some.1 hq) (by rwa [← honly.lr q])
    obtain ⟨hreceives, hother, hgranted, -⟩ := State.receivedAfter_of (s := s) hmay (by rw [hy]; exact hsame)
      (fun q _ => by rw [honly.lr]) hidle hacted
    rw [honly.freeReg, hy] at hreceives hgranted
    have hacts := (State.engineClosed s).capTake (n := n) honly.acts
    refine ⟨hreceives, ?_, fun q hq => ?_, hother.trans honly.other, by simp [honly.rqe], hacted.cellsKept hacts,
      hacted.rfe_of hacts, hacted.slotsKept hacts⟩
    · rw [List.isEmpty_eq_false_iff.2 hq]
      exact hsaid'.trans (u := (u.capTake n).settle) ⟨by simp, by simp⟩
    · have := hgranted q hq
      rwa [State.granted, honly.lr q] at this

/-- Settles O46: the cell is counted or discarded; a count that ends abandons the segment, and then the stream takes or
drains. -/
theorem overrunCountsAndAbandons : Obligations.OverrunCountsAndAbandons := by
  intro s dt n cell hlive hd hstop horder hrec x counted kept
  have hrun : ∀ {φ : State → Prop}, φ ((s.advance dt).capEdge n cell).settle → Completes (.captureEdge dt n cell) s φ :=
    fun hφ => by
      refine completes_of_run s (i := .captureEdge dt n cell) rfl ?_
      simp only [Instr.run, Instr.elapsed]
      rwa [captureEdge_of_live (s := s.advance dt) cell hlive hd]
  have honly := State.recordOnly.advance (n := n) s dt
  refine ⟨fun g rest hq hst => hrun ?_, fun hq hst => hrun ?_, fun k hst hover => ⟨fun hmore => hrun ?_, fun hend hfree => hrun ?_⟩⟩
  · rw [State.capEdge_takes (s := s.advance dt) hst hrec hq]
    obtain ⟨hstr, hhlc, hntu, hregs, hkept⟩ := (honly.mapStr fun y => y.overrunBegun g rest).settled
    refine ⟨hstr.trans ?_, hhlc, hntu, hregs, hkept⟩
    rw [State.mapStr_str, if_pos rfl]
    rfl
  · rw [State.capEdge_drains (s := s.advance dt) hst hrec hq]
    obtain ⟨hstr, hhlc, hntu, hregs, hkept⟩ :=
      (((honly.mapStr fun y => { y with state := .drained }).report (.streamDrained n)).mapStr
        StreamRec.cellDiscarded).settled
    have htold := State.toldAs.report (s := s) (t := (s.advance dt).mapStr n fun y => { y with state := .drained })
      ⟨rfl, rfl⟩ (.streamDrained n)
    refine ⟨hstr.trans ?_, hhlc.trans htold.1, hntu.trans htold.2, hregs, hkept⟩
    simp [State.mapStr_str, StreamRec.cellDiscarded, x]
  · rw [(State.capEdge_counts (s := s.advance dt) hst hover).trans (if_neg hmore)]
    obtain ⟨hstr, hhlc, hntu, hregs, hkept⟩ :=
      (honly.mapStr fun y => y.overrunCounted k x.overrunCount).settled
    refine ⟨hstr.trans ?_, hhlc, hntu, hregs, hkept⟩
    rw [State.mapStr_str, if_pos rfl]
    exact StreamRec.overrunCounted_same hst hover _
  · rw [(State.capEdge_counts (s := s.advance dt) hst hover).trans (if_pos hend)]
    have hcounted := honly.mapStr fun y => y.overrunCounted k x.overrunCount
    have hrec₀ : ((s.advance dt).mapStr n fun y => y.overrunCounted k x.overrunCount).str n =
        { x with overrunCount := x.overrunCount + 1, counters := counted } := by
      rw [State.mapStr_str, if_pos rfl]
      exact StreamRec.overrunCounted_same hst hover _
    have hsaid₀ : s.toldAs ((s.advance dt).mapStr n fun y => y.overrunCounted k x.overrunCount) := ⟨rfl, rfl⟩
    exact State.capOverrunEnd_settled hd hstop hst horder hrec hfree hcounted hrec₀ hsaid₀

end Sys2Proof.Machine
end

section
/-! PROOF. STREAM_STOP of a capture stream, ring or not (R122-R125). -/

namespace Sys2Proof.Machine

variable {s t u told : State} {n : StreamId} {r : LrId} {g : Segment} {kind : StopKind} {k : Taken} {x : StreamRec}
  {tag b : Byte} {rest : List Request} {idle : Bool} (dt : Nat) (tie : TieOrder)

/-! ## The stop's branches -/

theorem State.stopStream_waits (hd : (s.str n).direction = .capture) (hbegun : s.capBegun n = true) :
    s.stopStream n .afterSegment = s.stopRecorded n .afterSegment := by
  simp only [State.stopStream, hd, hbegun]
  rfl

theorem State.stopStream_effect (hd : (s.str n).direction = .capture) (h : kind = .now ∨ s.capBegun n = false) :
    s.stopStream n kind = (s.stopRecorded n kind).capStopEffect n := by
  cases kind with
  | now => simp only [State.stopStream, hd]; rfl
  | afterSegment =>
    have hbegun : s.capBegun n = false := h.resolve_left nofun
    simp only [State.stopStream, hd, hbegun]
    rfl

theorem State.capBegun_of (hrec : s.receiving n = some r) : s.capBegun n = decide (1 ≤ (s.lr r).position) := by
  simp only [State.capBegun, hrec]

theorem State.capBegun_of_none (hrec : s.receiving n = none) : s.capBegun n = false := by
  simp only [State.capBegun, hrec]

theorem State.capStopEffect_overrun (hover : (s.str n).overrunSegment = some k)
    (hrec : (s.capAbandonOverrun n k (s.str n).overrunCount).receiving n = none) :
    s.capStopEffect n = (s.capAbandonOverrun n k (s.str n).overrunCount).stopNext n := by
  simp only [State.capStopEffect, hover, hrec]

theorem State.capStopEffect_receiving (hover : (s.str n).overrunSegment = none) (hrec : s.receiving n = some r)
    (hg : (s.lr r).segment = some g) : s.capStopEffect n = (s.capStopReceiving n r g).stopNext n := by
  simp only [State.capStopEffect, hover, hrec, hg]

/-! ## The record that the stop ends -/

/-- A stop sets the state and the stop request of the record it ends. -/
theorem State.stopped_congr {y : StreamRec} (h : y = { x with state := y.state, stopRequest := y.stopRequest })
    (hstop : s.stopped told t n y kind tag rest idle) : s.stopped told t n x kind tag rest idle := by
  rw [h] at hstop
  exact hstop

theorem StreamRec.afterFinish_stopRequest (x : StreamRec) (stop : Option StopKind) (k : Taken) (held : List Nat) :
    ({ x with stopRequest := stop } : StreamRec).afterFinish k held = { x.afterFinish k held with
      state := (({ x with stopRequest := stop } : StreamRec).afterFinish k held).state
      stopRequest := stop } := by
  cases hcyclic : x.cyclic <;> simp [StreamRec.afterFinish, hcyclic]

theorem StreamRec.released_congr {a b : List Nat} (h : ∀ seq, seq ∈ a ↔ seq ∈ b) (x : StreamRec) :
    x.released a = x.released b := by
  simp only [StreamRec.released, Taken.isFirst_congr h]

/-! ## A segment not begun returns to the head (R122, R125) -/

theorem State.capReturned_spec (hr : streamOf r = some n) (hover : (s.str n).overrunSegment = none)
    (hpos : (s.lr r).position = 0) :
    s.gaveUp (s.capStopReceiving n r g) n r
      ∧ (s.capStopReceiving n r g).str n =
        ({ s.str n with queue := g :: (s.str n).queue } : StreamRec).released (s.takesHeld n (some r))
      ∧ s.toldAs (s.capStopReceiving n r g) ∧ (s.capStopReceiving n r g).rqe = s.rqe := by
  have hreturned : s.capStopReceiving n r g =
      ((s.emptyReg r).mapStr n fun y => { y with queue := g :: y.queue }).releaseCopies n := if_pos hpos
  have hgave : s.gaveUp ((s.emptyReg r).mapStr n fun y => { y with queue := g :: y.queue }) n r :=
    (State.gaveUp_emptyReg (.refl s) (fun _ => rfl) rfl rfl hr).mapStr _
  have hstr : ((s.emptyReg r).mapStr n fun y => { y with queue := g :: y.queue }).str n =
      { s.str n with queue := g :: (s.str n).queue } := by simp [State.mapStr_str]
  have hheld := fun seq => hgave.freed.mem_heldSeqs (seq := seq) rfl
  rw [hstr] at hheld
  rw [hreturned, State.releaseCopies_eq]
  refine ⟨hgave.mapStr _, ?_, ⟨by simp, by simp⟩, by simp⟩
  rw [State.mapStr_str, if_pos rfl, hstr]
  refine StreamRec.released_congr (fun seq => (hheld seq).trans ?_) _
  simp [hover]

theorem State.gaveUp.of_recorded (h : ((s.advance dt).stopRecorded n kind).gaveUp u n r) : s.gaveUp u n r :=
  ⟨State.engineActs.trans (u := (s.advance dt).stopRecorded n kind) ⟨rfl, rfl, rfl, rfl, rfl, rfl⟩ h.acts, h.lr,
    h.claims,
    h.other.trans ((State.stopRecorded_str _ _ _ _).trans (if_neg (otherStream_ne n)))⟩

/-! ## The stop's end -/

section Heads

variable (h : s.heads tag .streamStop [b, kind.code] rest) (hrqe : u.rqe = { s.rqe with phase := .stopping n })
  (hkind : (u.str n).stopRequest = some kind) (htold : told.toldAs u)

include h hrqe hkind htold

/-- The stop passes on after the receiving register was given up. -/
theorem State.gaveUp.stopBegun (hgave : s.gaveUp u n r) (hr : streamOf r = some n) :
    let t := (u.stopNext n).begun tie
    s.stopped told t n (u.str n) kind tag rest (s.operationKind r == none && (s.lr r.partner).isFree)
      ∧ s.emptied t r ∧ (∀ q, q ≠ r → s.granted t q) ∧ s.cellsKept t ∧ t.rfe = s.rfe := by
  obtain ⟨-, -, hqueue⟩ := h
  have hacted := (u.stopNext n).begun_actedOn tie
  have hacts := (State.engineClosed s).stopNext (n := n) hgave.acts
  obtain ⟨hstopped, hself, hgranted⟩ :=
    hgave.freed.stop hr hgave.idle hrqe hqueue hkind htold hacted (by simp) (by simp)
  rw [LineReg.cleared_isFree] at hstopped
  exact ⟨hstopped, hself, hgranted, hacted.cellsKept hacts, hacted.rfe_of hacts⟩

/-- The stop passes on with the registers as they were. -/
theorem State.stopBegun_of (hacts : s.engineActs u) (hlr : ∀ q, u.lr q = s.lr q)
    (hother : u.str (otherStream n) = s.str (otherStream n)) :
    let t := (u.stopNext n).begun tie
    s.stopped told t n (u.str n) kind tag rest (s.regsFree n) ∧ s.registersKept t ∧ s.cellsKept t
      ∧ t.rfe = s.rfe := by
  obtain ⟨-, -, hqueue⟩ := h
  have hacted := (u.stopNext n).begun_actedOn tie
  have hacts' := (State.engineClosed s).stopNext (n := n) hacts
  have hfree : u.regsFree n = s.regsFree n := by rw [State.regsFree, hlr, hlr, State.regsFree]
  have hstopped := State.stopped_of hrqe hqueue hkind hother htold hacted (by simp) (by simp)
  rw [hfree] at hstopped
  exact ⟨hstopped, hacted.registersKept fun q => by simp [hlr], hacted.cellsKept hacts', hacted.rfe_of hacts'⟩

end Heads

theorem State.raiseCommit_str (s : State) (r : LrId) (g : Segment) (m : StreamId) :
    (s.raiseCommit r g).str m = s.str m := rfl

/-- A register that receives is not free (R110). -/
theorem State.regsFree_of_receiving (h : s.receiving n = some r) : s.regsFree n = false := by
  have hr := State.streamOf_receiving h
  have hbusy : (s.lr r).isFree = false := by
    have hactive := State.regsKept.isReceiving_of_receiving h
    simp only [State.isReceiving, Bool.and_eq_true, beq_iff_eq] at hactive
    simp [LineReg.isFree, hactive.1]
  obtain rfl | rfl := streamOf_eq_some.1 hr <;> simp [State.regsFree, hbusy]

/-! ## The obligation -/

/-- Settles O39: the stop is recorded, or it takes effect at once on the overrun segment or the receiving register. -/
theorem stopOfCapture : Obligations.StopOfCapture := by
  intro s dt tie tag b kind rest n h hn hd hdisabled hidle horder x
  have hrun : ∀ {φ : State → Prop}, φ (((s.advance dt).stopStream n kind).begun tie) →
      Completes (.streamStop ⟨dt, tie⟩) s φ := fun hφ => by
    refine completes_of_run s (i := .streamStop ⟨dt, tie⟩) rfl ?_
    simp only [Instr.run, Instr.elapsed]
    rwa [streamStop_of_heads dt tie h hn hdisabled hidle]
  have hrec : ((s.advance dt).stopRecorded n kind).str n = { x with stopRequest := some kind } := by
    rw [State.stopRecorded_str, if_pos rfl]
    rfl
  have hother : ((s.advance dt).stopRecorded n kind).str (otherStream n) = s.str (otherStream n) := by
    rw [State.stopRecorded_str, if_neg (otherStream_ne n)]
    rfl
  have hacts : s.engineActs ((s.advance dt).stopRecorded n kind) := ⟨rfl, rfl, rfl, rfl, rfl, rfl⟩
  have hsaid : s.toldAs ((s.advance dt).stopRecorded n kind) := ⟨rfl, rfl⟩
  have hrqe : ((s.advance dt).stopRecorded n kind).rqe = { s.rqe with phase := .stopping n } := rfl
  have hlr : ∀ q, ((s.advance dt).stopRecorded n kind).lr q = s.lr q := fun _ => rfl
  have hgiven : ∀ {u r}, ((s.advance dt).stopRecorded n kind).gaveUp u n r → s.gaveUp u n r :=
    State.gaveUp.of_recorded dt
  have hreceives : ((s.advance dt).stopRecorded n kind).receiving n = s.receiving n := rfl
  have hheld : ∀ but, ((s.advance dt).stopRecorded n kind).takesHeld n but = s.takesHeld n but := fun _ => rfl
  have heffect : kind = .now ∨ s.capBegun n = false →
      (s.advance dt).stopStream n kind = ((s.advance dt).stopRecorded n kind).capStopEffect n :=
    State.stopStream_effect (s := s.advance dt) hd
  generalize (s.advance dt).stopRecorded n kind = w at hrec hother hacts hsaid hrqe hlr hgiven hreceives hheld heffect
  have horder' : (w.str n).copiesInOrder := by rw [hrec]; exact horder
  refine ⟨fun k hover hnone => hrun ?_, fun hover hnone => hrun ?_, fun r g hover hreceiving hg => ?_⟩
  · have hover' : (w.str n).overrunSegment = some k := by rw [hrec]; exact hover
    have hcount : (w.str n).overrunCount = x.overrunCount := by rw [hrec]
    obtain ⟨honly, hstr, htold⟩ := w.capAbandonOverrun_spec n k x.overrunCount horder'
    have heffect' : w.capStopEffect n = (w.capAbandonOverrun n k x.overrunCount).stopNext n := by
      rw [← hcount] at honly ⊢
      exact State.capStopEffect_overrun hover' (by rw [honly.receiving, hreceives, hnone])
    rw [heffect (.inr (State.capBegun_of_none hnone)), heffect']
    rw [hrec, hheld, StreamRec.afterFinish_stopRequest] at hstr
    obtain ⟨hstopped, hrest⟩ := State.stopBegun_of tie h (honly.rqe.trans hrqe) (by rw [hstr])
      ((State.toldAs.report hsaid _).trans htold) (hacts.trans honly.acts) (fun q => (honly.lr q).trans (hlr q))
      (honly.other.trans hother)
    exact ⟨State.stopped_congr (by rw [hstr]) hstopped, hrest⟩
  · rw [heffect (.inr (State.capBegun_of_none hnone)), State.capStopEffect_quiet (by rw [hrec]; exact hover)
      (hreceives.trans hnone)]
    obtain ⟨hstopped, hrest⟩ := State.stopBegun_of tie h hrqe (by rw [hrec]) hsaid hacts hlr hother
    exact ⟨State.stopped_congr (by rw [hrec]) hstopped, hrest⟩
  · have hr := State.streamOf_receiving hreceiving
    have hover' : (w.str n).overrunSegment = none := by rw [hrec]; exact hover
    have hreceiving' : w.receiving n = some r := hreceives.trans hreceiving
    have hg' : (w.lr r).segment = some g := by rw [hlr]; exact hg
    have hstops := State.capStopEffect_receiving hover' hreceiving' hg'
    intro position idle held
    refine ⟨?_, fun hpos => hrun ?_, ?_, ?_⟩
    · rintro rfl hpos
      refine hrun ?_
      rw [State.stopStream_waits (s := s.advance dt) hd ((State.capBegun_of hreceiving).trans (decide_eq_true hpos))]
      exact s.stopRecorded_begun dt tie n .afterSegment
    · have hzero : s.capBegun n = false := (State.capBegun_of hreceiving).trans (decide_eq_false (by omega))
      rw [heffect (.inr hzero), hstops]
      obtain ⟨hgave, hstr, htold, hreq⟩ := w.capReturned_spec (g := g) hr hover' (by rw [hlr]; exact hpos)
      rw [hrec, hheld] at hstr
      obtain ⟨hstopped, hrest⟩ := (hgiven hgave).stopBegun tie h (hreq.trans hrqe) (by rw [hstr]; rfl)
        (hsaid.trans htold) hr
      exact ⟨State.stopped_congr (by rw [hstr]; rfl) hstopped, hrest⟩
    · rintro rfl hpos hfilled
      refine hrun ?_
      have habandon : w.capStopReceiving n r g = w.capAbandoned n r g .stop := by
        rw [State.capStopReceiving, if_neg (by rw [hlr]; omega), if_pos (by rw [hlr]; exact hfilled)]
        rfl
      obtain ⟨hgave, hstr, htold, hreq⟩ := w.capAbandoned_spec n g .stop hr horder'
      rw [hlr] at htold
      rw [heffect (.inl rfl), hstops, habandon]
      have hnothing : ((w.str n).overrunSegment.map Taken.seq).toList = [] := by
        rw [hover']
        rfl
      rw [State.abandonedRec, hnothing, List.append_nil, hheld, hlr, hrec, StreamRec.afterFinish_stopRequest] at hstr
      obtain ⟨hstopped, hrest⟩ := (hgiven hgave).stopBegun tie h (hreq.trans hrqe) (by rw [hstr])
        ((State.toldAs.report hsaid _).trans htold) hr
      exact ⟨State.stopped_congr (by rw [hstr]; rfl) hstopped, hrest⟩
    · rintro rfl hpos hfilled
      refine hrun ?_
      have hcommit : w.capStopReceiving n r g = w.raiseCommit r g := by
        rw [State.capStopReceiving, if_neg (by rw [hlr]; omega), if_neg (by rw [hlr]; exact hfilled)]
      rw [heffect (.inl rfl), hstops, hcommit]
      obtain ⟨hstopped, hrest⟩ := State.stopBegun_of (u := w.raiseCommit r g) tie h hrqe
        (by rw [State.raiseCommit_str, hrec]) hsaid ((State.engineClosed s).raiseCommit g hr hacts) hlr hother
      rw [State.regsFree_of_receiving hreceiving] at hstopped
      refine ⟨State.stopped_congr (by rw [State.raiseCommit_str, hrec]) hstopped, ?_, hrest⟩
      rw [State.begun_hasClaim, State.hasClaim_congr (t := (w.raiseCommit r g).stopNext n)
        (s := w.raiseCommit r g) (by simp)]
      exact State.raiseClaim_hasClaim _ _

end Sys2Proof.Machine
end

section
/-! PROOF. The end of a transaction: the bytes received, the removal of the frame sent, admission (R147, R151-R155). -/

namespace Sys2Proof.Machine

variable {s t u : State} {x : Transaction} {tags bytes : List Byte}

/-! ## The bytes of the bits (R147) -/

theorem bytesOf_length : ∀ bits : List Bool, (bytesOf bits).length = bits.length / 8
  | _ :: _ :: _ :: _ :: _ :: _ :: _ :: _ :: rest => by
    rw [bytesOf, List.length_cons, bytesOf_length rest]
    simp only [List.length_cons]
    omega
  | [] | [_] | [_, _] | [_, _, _] | [_, _, _, _] | [_, _, _, _, _] | [_, _, _, _, _, _] | [_, _, _, _, _, _, _] => by
    simp [bytesOf]

theorem byteOf_getMsbD (a b c d e f g h : Bool) {i : Nat} (hi : i < 8) :
    (byteOf [a, b, c, d, e, f, g, h]).getMsbD i = [a, b, c, d, e, f, g, h].getD i false := by
  revert a b c d e f g h
  interval_cases i <;> decide

theorem bytesOf_getMsbD : ∀ (bits : List Bool) (i b : Nat), i < (bytesOf bits).length → b < 8 →
    ((bytesOf bits).getD i 0).getMsbD b = bits.getD (8 * i + b) false
  | a :: b :: c :: d :: e :: f :: g :: h :: rest, 0, j, _, hj => by
    rw [bytesOf, List.getD_cons_zero, byteOf_getMsbD _ _ _ _ _ _ _ _ hj]
    interval_cases j <;> rfl
  | _ :: _ :: _ :: _ :: _ :: _ :: _ :: _ :: rest, i + 1, j, hi, hj => by
    rw [bytesOf, List.length_cons] at hi
    rw [bytesOf, List.getD_cons_succ, bytesOf_getMsbD rest i j (by omega) hj]
    have hplace : 8 * (i + 1) + j = 8 * i + j + 8 := by omega
    rw [hplace]
    rfl
  | [], _, _, hi, _ | [_], _, _, hi, _ | [_, _], _, _, hi, _ | [_, _, _], _, _, hi, _ | [_, _, _, _], _, _, hi, _
  | [_, _, _, _, _], _, _, hi, _ | [_, _, _, _, _, _], _, _, hi, _ | [_, _, _, _, _, _, _], _, _, hi, _ => by
    simp [bytesOf] at hi

/-! ## The checks of an inbound frame (R151) -/

theorem cellOf_eq_iff (a b : Byte) (v : CellVal) : [a, b] = cellBytes v ↔ cellOf a b = v := by
  refine ⟨fun h => ?_, fun h => ?_⟩
  · simp only [cellBytes, List.cons.injEq, and_true] at h
    rw [h.1, h.2, cellOf_cellBytes]
  · have hparts : natOf a b = natOf (v.extractLsb' 8 8) (v.extractLsb' 0 8) := by
      rw [natOf, natOf, h, cellOf_cellBytes]
    rw [natOf_eq, natOf_eq] at hparts
    have hhigh : a = v.extractLsb' 8 8 := BitVec.eq_of_toNat_eq (by omega)
    have hlow : b = v.extractLsb' 0 8 := BitVec.eq_of_toNat_eq (by omega)
    rw [hhigh, hlow, cellBytes]

theorem take_two_drop (l : List Byte) {i : Nat} (h : i + 2 ≤ l.length) :
    (l.drop i).take 2 = [l.getD i 0, l.getD (i + 1) 0] := by
  have hi : i < l.length := by omega
  have hi' : i + 1 < l.length := by omega
  rw [List.drop_eq_getElem_cons hi, List.drop_eq_getElem_cons hi', List.getD_eq_getElem _ _ hi,
    List.getD_eq_getElem _ _ hi']
  rfl

/-- The checks of R151 that need only the bytes, by their places. -/
theorem parseInbound_eq (bytes : List Byte) : parseInbound bytes =
    if bytes.head? ≠ some 0xC3 then .error .none
    else if bytes.length < 2 ∨ 248 < (bytes.getD 1 0).toNat ∨ bytes.length < 6 + (bytes.getD 1 0).toNat then
      .error .badLength
    else if cellOf (bytes.getD (4 + (bytes.getD 1 0).toNat) 0) (bytes.getD (5 + (bytes.getD 1 0).toNat) 0)
        ≠ crc ((bytes.drop 1).take (3 + (bytes.getD 1 0).toNat)) then .error .badCheck
    else if bytes.getD 2 0 = 0 then .error .badTag
    else (RequestKind.ofCode (bytes.getD 3 0)).elim (.error .badKind) fun k =>
      .ok ⟨bytes.getD 2 0, k, (bytes.drop 4).take (bytes.getD 1 0).toNat⟩ := by
  match bytes with
  | [] => rfl
  | [a] =>
    by_cases ha : a = 0xC3
    · subst ha
      rfl
    · rw [if_pos (by simpa using ha)]
      exact if_pos ha
  | a :: len :: rest =>
    by_cases ha : a = 0xC3
    case neg =>
      rw [if_pos (by simpa using ha)]
      exact if_pos ha
    subst ha
    have hsync : ¬ (0xC3 : Byte) ≠ syncByte := by decide
    rw [if_neg (by simp), parseInbound, if_neg hsync]
    dsimp only
    by_cases hlen : 248 < len.toNat ∨ (0xC3 :: len :: rest).length < 6 + len.toNat
    case pos => rw [if_pos hlen, if_pos (.inr hlen)]
    obtain ⟨hmax, hshort⟩ := not_or.1 hlen
    obtain ⟨tag, kind, body, rfl⟩ : ∃ tag kind body, rest = tag :: kind :: body := by
      match rest with
      | [] | [_] =>
        simp at hshort
        omega
      | tag :: kind :: body => exact ⟨tag, kind, body, rfl⟩
    have hcheck := take_two_drop (len :: tag :: kind :: body) (i := 3 + len.toNat) (by simp at hshort ⊢; omega)
    have hcovered :
        (len :: tag :: kind :: body).take (3 + len.toNat) = len :: tag :: kind :: body.take len.toNat := by
      rw [Nat.add_comm]
      rfl
    have hlast : ∀ i j, j = i + 1 →
        (0xC3 :: len :: tag :: kind :: body).getD j 0 = (len :: tag :: kind :: body).getD i 0 := fun i j h => h ▸ rfl
    have hhigh := hlast (3 + len.toNat) (4 + len.toNat) (by omega)
    have hlow := hlast (3 + len.toNat + 1) (5 + len.toNat) (by omega)
    have hlong : ¬ ((0xC3 :: len :: tag :: kind :: body).length < 2 ∨ 248 < len.toNat
        ∨ (0xC3 :: len :: tag :: kind :: body).length < 6 + len.toNat) := by
      simp at hlen ⊢
      omega
    simp only [List.getD_cons_succ, List.getD_cons_zero, List.drop_succ_cons, List.drop_zero]
    rw [if_neg hlen, if_neg hlong, hcheck, hcovered, hhigh, hlow]
    simp only [ne_eq, cellOf_eq_iff]
    cases RequestKind.ofCode kind <;> rfl

theorem RequestKind.code_of_ofCode {k : RequestKind} {b : Byte} (h : RequestKind.ofCode b = some k) : k.code = b := by
  simpa using List.find?_some (p := fun k => RequestKind.code k == b) h

theorem RequestKind.eq_reset_iff {k : RequestKind} : k = .reset ↔ k.code = 0x04 := by
  cases k <;> decide

/-- The admission result of the outcome of the checks that need only the bytes (R151). -/
def State.admitsAs (s : State) : Except AdmResult Request → AdmResult
  | .error r => r
  | .ok req =>
    if s.rqe.tags.contains req.tag then .dupTag
    else if s.rqe.tags.length < Config.maxOutstanding ∨ req.kind = .reset then .accepted
    else .full

/-- The admission is that of R151's checks in order. -/
theorem State.admission_eq (s : State) (bytes : List Byte) : s.admission bytes = admissionOf s.rqe.tags bytes := by
  have hadmits : s.admission bytes = s.admitsAs (parseInbound bytes) := rfl
  rw [hadmits, parseInbound_eq, admissionOf]
  simp only [apply_ite s.admitsAs]
  iterate 4 refine if_congr Iff.rfl rfl ?_
  cases hk : RequestKind.ofCode (bytes.getD 3 0) with
  | none => rfl
  | some k =>
    have hreset : k = .reset ↔ bytes.getD 3 0 = 0x04 := by
      rw [RequestKind.eq_reset_iff, RequestKind.code_of_ofCode hk]
    rw [if_neg (by simp), Option.elim_some]
    simp only [State.admitsAs, List.contains_iff_mem, hreset, Config.maxOutstanding]
    refine if_congr Iff.rfl rfl ?_
    refine (if_congr ?_ rfl rfl).trans (ite_not _ _ _)
    simp only [not_and_or, Nat.not_le, ne_eq, not_not]

/-- An accepted frame is a request (R149). -/
theorem parseInbound_of_accepted (h : admissionOf tags bytes = .accepted) :
    ∃ k, k.code = bytes.getD 3 0
      ∧ parseInbound bytes = .ok ⟨bytes.getD 2 0, k, (bytes.drop 4).take (bytes.getD 1 0).toNat⟩ := by
  rw [admissionOf] at h
  rw [parseInbound_eq]
  split_ifs at h with hsync hlen hcheck htag hkind hdup hfull
  obtain ⟨k, hk⟩ := Option.ne_none_iff_exists'.1 hkind
  refine ⟨k, RequestKind.code_of_ofCode hk, ?_⟩
  rw [if_neg hsync, if_neg hlen, if_neg hcheck, if_neg htag, hk, Option.elim_some]

/-! ## The removal and the admission (R152, R155, R183) -/

theorem State.removeSent_eq (hattn : s.attnMatches) (n : Nat) : s.removeSent x n = { s with
    hlc := { s.hlc with outq := s.hlc.queueAfter x n, attn := !(s.hlc.queueAfter x n).isEmpty }
    rqe := { s.rqe with tags := s.tagsAfter x n } } := by
  have hkept : ∀ q, s.hlc.outq = q →
      s = { s with hlc := { s.hlc with outq := q, attn := !q.isEmpty } } := fun q hq => by
    subst hq
    rw [← hattn]
  rw [State.removeSent, HostLink.queueAfter, State.tagsAfter, Transaction.sentWhole]
  cases x.queued && decide (x.frame.length ≤ n) with
  | false =>
    simp only [Bool.false_eq_true, if_false]
    refine (hkept _ rfl).trans ?_
    cases hq : s.hlc.outq with
    | nil => rfl
    | cons f rest => cases f <;> rfl
  | true =>
    rw [if_pos rfl, if_pos rfl]
    cases hq : s.hlc.outq with
    | nil => exact hkept [] hq
    | cons f rest =>
      cases f with
      | reply tag status flags data => rfl
      | notice x => rfl
      | lossMarker count added =>
        dsimp only
        split
        · rfl
        · have hhigh : s.hlc.attn = true := by
            have h : s.hlc.attn = !s.hlc.outq.isEmpty := hattn
            rw [h, hq]
            rfl
          rw [hhigh]
          rfl

/-- A frame refused changes nothing (R152). -/
theorem State.admitFrame_refused (h : admissionOf s.rqe.tags bytes ≠ .accepted) : s.admitFrame bytes = s := by
  unfold State.admitFrame
  split
  · rfl
  · rw [if_neg (by rwa [State.admission_eq])]

/-- An accepted request other than RESET joins the queue, its tag the set (R152). -/
theorem State.admitFrame_accepted (h : admissionOf s.rqe.tags bytes = .accepted) (hreset : bytes.getD 3 0 ≠ 0x04) :
    ∃ k : RequestKind, k.code = bytes.getD 3 0 ∧ s.admitFrame bytes = { s with rqe := { s.rqe with
      queue := s.rqe.queue ++ [⟨bytes.getD 2 0, k, (bytes.drop 4).take (bytes.getD 1 0).toNat⟩]
      tags := s.rqe.tags ++ [bytes.getD 2 0] } } := by
  obtain ⟨k, hk, hparse⟩ := parseInbound_of_accepted h
  refine ⟨k, hk, ?_⟩
  simp only [State.admitFrame, hparse]
  rw [if_pos (by rwa [State.admission_eq]), if_neg (by rwa [RequestKind.eq_reset_iff, hk])]

theorem receivedTag_eq : ∀ bytes : List Byte,
    receivedTag bytes = if bytes.head? = some 0xC3 then bytes.getD 2 0 else 0
  | [] | [_] | [_, _] => by simp [receivedTag]
  | a :: _ :: _ :: _ => if_congr (Option.some_inj (a := a)).symm rfl rfl

/-- Short of a RESET the admission changes the request engine alone (R152). -/
theorem State.admitFrame_link (u : State) (bytes : List Byte)
    (hother : ¬(admissionOf u.rqe.tags bytes = .accepted ∧ bytes.getD 3 0 = 0x04)) :
    ∃ e : RequestEngine, u.admitFrame bytes = { u with rqe := e }
      ∧ if admissionOf u.rqe.tags bytes = .accepted then
          ∃ k : RequestKind, k.code = bytes.getD 3 0 ∧ e = { u.rqe with
            queue := u.rqe.queue ++ [⟨bytes.getD 2 0, k, (bytes.drop 4).take (bytes.getD 1 0).toNat⟩]
            tags := u.rqe.tags ++ [bytes.getD 2 0] }
        else e = u.rqe := by
  by_cases h : admissionOf u.rqe.tags bytes = .accepted
  · obtain ⟨k, hk, hadmit⟩ := State.admitFrame_accepted h fun hreset => hother ⟨h, hreset⟩
    refine ⟨_, hadmit, ?_⟩
    rw [if_pos h]
    exact ⟨k, hk, rfl⟩
  · refine ⟨u.rqe, State.admitFrame_refused h, ?_⟩
    rw [if_neg h]

theorem transactionEnd_of (bits : List Bool) (hlive : s.live = true) (htxn : s.hlc.txn = some x) :
    transactionEnd bits s = s.endTransaction x bits := by
  simp only [transactionEnd, htxn]
  exact if_pos hlive

/-- Only the link and the request engine differ. -/
def State.linkOnly (s u : State) : Prop :=
  ∃ (e : RequestEngine) (h : HostLink), u = { s with rqe := e, hlc := h }

theorem State.linkOnly.raisesNothing (h : s.linkOnly u) : s.raisesNothing u.settle := by
  obtain ⟨e, l, rfl⟩ := h
  generalize hu : ({ s with rqe := e, hlc := l } : State) = u
  have hacted := u.settle_actedOn
  have hacts : s.engineActs u := by
    subst hu
    exact ⟨rfl, rfl, rfl, rfl, rfl, rfl⟩
  have hste : u.ste = s.ste := by rw [← hu]
  have hntu : u.ntu = s.ntu := by rw [← hu]
  have hlr : ∀ q, u.lr q = s.lr q := fun q => by rw [← hu]; rfl
  have harb : u.arb = s.arb := by rw [← hu]
  exact ⟨⟨⟨hacted.rat.trans hacts.rat, hacted.cellsKept hacts, hacted.rfe_of hacts, hacted.ste.trans hste,
    hacted.ntu.trans hntu, hacted.powered.trans hacts.powered, hacted.hrst.trans hacts.hrst⟩,
    hacted.registersKept hlr, hacted.slotsKept hacts⟩,
    fun c hc => (State.hasClaim_congr harb c).1 ((hacted.claims c).1 hc)⟩

/-- Settles O26: the frame sent is removed, then the bytes received are admitted or refused, then the report replaced. -/
theorem transactionEndRemovesThenAdmits : Obligations.TransactionEndRemovesThenAdmits := by
  intro s dt bits x hlive htxn hattn bytes tags result tag
  refine ⟨⟨bytesOf_length bits, bytesOf_getMsbD bits⟩, fun hother => ?_⟩
  refine completes_of_run s (i := .transactionEnd dt bits) rfl ?_
  simp only [Instr.run, Instr.elapsed]
  have hremove := State.removeSent_eq (s := s.advance dt) (x := x) hattn.1 bytes.length
  have hlink : (s.advance dt).linkOnly ((s.advance dt).removeSent x bytes.length) := ⟨_, _, hremove⟩
  have hhlc : ((s.advance dt).removeSent x bytes.length).hlc = { s.hlc with
      outq := s.hlc.queueAfter x bytes.length, attn := !(s.hlc.queueAfter x bytes.length).isEmpty } := by
    rw [hremove]
    rfl
  have hrqe : ((s.advance dt).removeSent x bytes.length).rqe = { s.rqe with tags := tags } := by
    rw [hremove]
    rfl
  rw [transactionEnd_of (s := s.advance dt) bits hlive htxn, State.endTransaction]
  generalize (s.advance dt).removeSent x bytes.length = u at hlink hhlc hrqe ⊢
  obtain ⟨e, hadmit, he⟩ := u.admitFrame_link bytes (by rw [hrqe]; exact hother)
  have hadmission : u.admission bytes = result := by rw [State.admission_eq, hrqe]
  rw [hrqe] at he
  dsimp only
  rw [hadmission, hadmit, receivedTag_eq]
  generalize hl : ({ u.hlc with hcsHigh := true, txn := _, admTag := _, admResult := _, lastSent := _ } : HostLink) = l
  have hsettled : (State.settle { u with rqe := e, hlc := l }).hlc = l
      ∧ (State.settle { u with rqe := e, hlc := l }).rqe = e := by
    simp
  have hnothing : s.raisesNothing (State.settle { u with rqe := e, hlc := l }) := by
    obtain ⟨_, _, rfl⟩ := hlink
    exact State.linkOnly.raisesNothing (s := s.advance dt) ⟨e, l, rfl⟩
  obtain ⟨hthlc, htrqe⟩ := hsettled
  rw [hhlc] at hl
  subst hl
  refine ⟨?_, ?_, fun k hk => ?_, ?_, hnothing⟩
  · exact hthlc.trans (by rw [hthlc])
  · rw [hthlc]
    simp
  · rw [hthlc]
    simp [hk, frameBit]
  · rw [htrqe]
    exact he

end Sys2Proof.Machine
end

section
/-! PROOF. A change of the refresh mode: the claims it raises, the rows it reports (R22, R26-R28; log entry 18). -/

namespace Sys2Proof.Machine

variable {s t u v : State} {row : Nat} {p : Claim → Bool}

/-! ## The claims raised by a change to AUTO (R28) -/

/-- Claims of the refresh engine have joined the pending ones; the circuit and the preferred stream are as before. -/
structure State.refreshRaised (s u : State) : Prop where
  circuit : u.arb.circuit = s.arb.circuit
  preferred : u.arb.preferred = s.arb.preferred
  claims : ∃ cs, u.arb.claims = s.arb.claims ++ cs
    ∧ ∀ c ∈ cs, c.claimant = .refreshEngine ∧ (c.cls = .routine ∨ c.cls = .urgent)

namespace State.refreshRaised

theorem refl (s : State) : s.refreshRaised s :=
  ⟨rfl, rfl, [], (List.append_nil _).symm, nofun⟩

theorem trans (h : s.refreshRaised u) (h' : u.refreshRaised v) : s.refreshRaised v := by
  obtain ⟨hcircuit, hpreferred, cs, hcs, hof⟩ := h
  obtain ⟨hcircuit', hpreferred', cs', hcs', hof'⟩ := h'
  refine ⟨hcircuit'.trans hcircuit, hpreferred'.trans hpreferred, cs ++ cs',
    by rw [hcs', hcs, List.append_assoc], ?_⟩
  exact fun c hc => (List.mem_append.1 hc).elim (hof c) (hof' c)

theorem raise {c : Claim} (hclaimant : c.claimant = .refreshEngine) (hcls : c.cls = .routine ∨ c.cls = .urgent) :
    s.refreshRaised (s.raiseClaim c) :=
  ⟨rfl, rfl, [c], rfl, fun d hd => by rw [List.mem_singleton.1 hd]; exact ⟨hclaimant, hcls⟩⟩

theorem raiseUrgent (row : Nat) : s.refreshRaised (s.raiseUrgent row) := by
  unfold State.raiseUrgent
  split
  · exact .refl s
  · exact .raise rfl (.inr rfl)

theorem checkRoutine : s.refreshRaised s.checkRoutine := by
  obtain e | ⟨head, rest, -, -, -, -, -, -, -, e⟩ := s.checkRoutine_cases <;> rw [e]
  · exact .refl s
  · exact .raise rfl (.inl rfl)

theorem foldUrgent : ∀ (rows : List Nat) (s : State), s.refreshRaised (rows.foldl State.raiseUrgent s)
  | [], _ => .refl _
  | row :: rows, _ => (raiseUrgent row).trans (foldUrgent rows _)

theorem toAuto : s.refreshRaised s.toAuto := by
  have hmode : s.refreshRaised { s with rfe := { s.rfe with mode := .auto } } :=
    ⟨rfl, rfl, [], (List.append_nil _).symm, nofun⟩
  exact (hmode.trans (foldUrgent _ _)).trans checkRoutine

theorem setMode : s.refreshRaised (s.setMode .auto) := by
  unfold State.setMode
  split
  · exact .refl s
  · exact toAuto

variable (h : s.refreshRaised u)
include h

theorem inFlight : u.inFlight = s.inFlight :=
  State.inFlight_congr h.circuit

/-- A claim held stays held. -/
theorem holds (hp : s.holdsClaim p = true) : u.holdsClaim p = true := by
  obtain ⟨cs, hcs, -⟩ := h.claims
  rw [State.holdsClaim_iff] at hp ⊢
  rw [hcs, h.inFlight]
  exact hp.imp_left fun ⟨c, hc, hpc⟩ => ⟨c, List.mem_append_left _ hc, hpc⟩

end State.refreshRaised

theorem State.mem_agedRows : row ∈ s.agedRows ↔ row ∈ s.rfe.order
    ∧ 7000000 ≤ s.clock - (s.row row).completedAt
    ∧ (s.row row).scrubPending = false ∧ ∀ op, s.inFlight = some op → op.claim.row ≠ row := by
  have hflight : s.inFlightOn row = false ↔ ∀ op, s.inFlight = some op → op.claim.row ≠ row := by
    unfold State.inFlightOn
    cases s.inFlight <;> simp
  rw [State.agedRows, List.mem_filter, Bool.and_eq_true, decide_eq_true_eq, State.undisturbed, Bool.and_eq_true,
    Bool.not_eq_true', Bool.not_eq_true', hflight]
  rfl

theorem State.foldUrgent_holds {rows : List Nat} (h : row ∈ rows) :
    (rows.foldl State.raiseUrgent s).holdsClaim (fun c => c.cls == .urgent && c.row == row) = true := by
  induction rows generalizing s with
  | nil => cases h
  | cons a rows ih =>
    obtain rfl | h := List.mem_cons.1 h
    · exact (State.refreshRaised.foldUrgent rows _).holds (State.raiseUrgent_holds _ row)
    · exact ih h

/-- A change to AUTO claims an URGENT refresh for each row past 7.0 ms (R28). -/
theorem State.toAuto_holds (h : row ∈ s.agedRows) :
    s.toAuto.holdsClaim (fun c => c.cls == .urgent && c.row == row) = true :=
  State.refreshRaised.checkRoutine.holds (State.foldUrgent_holds h)

/-- AUTO leaves all but the mode and the claims. -/
theorem State.setMode_auto_frame (s : State) : (s.setMode .auto).rat = s.rat
    ∧ (s.setMode .auto).hlc = s.hlc ∧ (s.setMode .auto).ntu = s.ntu := by
  unfold State.setMode
  split
  · exact ⟨rfl, rfl, rfl⟩
  · simp

end Sys2Proof.Machine
end

section
/-! PROOF. RESET at its admission (R173, R174): the host's and the streams' part returns to its defaults, the array and
what protects its retention stay. -/

namespace Sys2Proof.Machine

variable {s t u : State} {x : Transaction} {bytes : List Byte} {req : Request} {row : Nat} {k : SlotId} {q : LrId}

/-! ## The blocks of a RESET -/

theorem State.mem_regsEmptied {c : Claim} : c ∈ s.regsEmptied.arb.claims ↔
    c ∈ s.arb.claims ∧ c.cls ≠ .stream ∧ c.cls ≠ .host ∧ c.register? = none := by
  have hregister : (∀ r, c.isOf r = false) ↔ c.register? = none := by
    cases h : c.register? with
    | none => simp [Claim.isOf, h]
    | some r => simp [Claim.isOf, h]
  have hall : (∀ r, c.isOf r = false) ↔ c.isOf .lr0 = false ∧ c.isOf .lr1 = false ∧ c.isOf .lr2 = false
      ∧ c.isOf .lr3 = false ∧ c.isOf .lr4 = false :=
    ⟨fun h => ⟨h _, h _, h _, h _, h _⟩, fun ⟨h0, h1, h2, h3, h4⟩ r => by cases r <;> assumption⟩
  rw [← hregister, hall]
  simp only [State.regsEmptied, State.emptyReg_spec, State.withdraw, List.mem_filter, Bool.not_eq_true',
    Bool.or_eq_false_iff, beq_eq_false_iff_ne, ne_eq]
  tauto

theorem State.regsEmptied_lr (s : State) (q : LrId) : s.regsEmptied.lr q = (s.lr q).cleared (s.operationKind q) := by
  have hkind : ∀ u r p, State.operationKind (State.emptyReg u r) p = u.operationKind p := fun u r p => by
    simp [State.operationKind, State.emptyReg_spec, State.inFlight]
  have hwithdraw : ∀ f p, (s.withdraw f).operationKind p = s.operationKind p := fun _ _ => rfl
  have hlr : ∀ f p, (s.withdraw f).lr p = s.lr p := fun _ _ => rfl
  simp only [State.regsEmptied, State.emptyReg_lr, hkind, hwithdraw, hlr]
  cases q <;> simp

theorem State.regsEmptied_idle (s : State) (q : LrId) : s.regsEmptied.claimPending q = false := by
  refine List.any_eq_false.2 fun c hc hcq => ?_
  obtain ⟨-, -, -, hnone⟩ := State.mem_regsEmptied.1 hc
  simp [Claim.isOf, hnone] at hcq

theorem State.regsEmptied_frame (s : State) : s.regsEmptied.arb.circuit = s.arb.circuit
    ∧ s.regsEmptied.rat = s.rat ∧ s.regsEmptied.rfe = s.rfe ∧ s.regsEmptied.clock = s.clock
    ∧ s.regsEmptied.sst = s.sst := by
  simp [State.regsEmptied, State.emptyReg_spec, State.withdraw]

theorem State.slotsFreed_slot (s : State) (k : SlotId) : s.slotsFreed.slot k =
    { s.slot k with inUse := false, state := .parked, idleTimer := none } := by
  cases k <;> rfl

/-- What a RESET makes of every block but the link and the refresh engine (R173, R174). -/
structure State.resetTo (s v : State) (req : Request) : Prop where
  rat : v.rat = { s.rat with lossFill := 0 }
  lr : ∀ q, v.lr q = (s.lr q).cleared (s.operationKind q)
  idle : ∀ q, v.claimPending q = false
  str : ∀ n, v.str n = StreamRec.atInit
  slot : ∀ k, v.slot k = { s.slot k with inUse := false, state := .parked, idleTimer := none }
  circuit : v.arb.circuit = s.arb.circuit.abandoned
  preferred : v.arb.preferred = .s0
  claims : ∀ c ∈ v.arb.claims, c.cls ≠ .stream ∧ c.cls ≠ .host
  kept : ∀ c ∈ s.arb.claims, c.cls ≠ .stream → c.cls ≠ .host → c.register? = none → c ∈ v.arb.claims
  rqe : v.rqe = ⟨[], [req.tag], .free⟩
  ntu : v.ntu = .atInit

theorem State.blocksReset_resetTo (s : State) (req : Request) :
    s.resetTo (s.regsEmptied.slotsFreed.blocksReset req) req := by
  obtain ⟨-, -, -, -, hrat, -, harb, hlrb, -⟩ := s.regsEmptied.slotsFreed_frame
  obtain ⟨hcircuit, hrat', -, -, hsst⟩ := s.regsEmptied_frame
  have hslot := s.regsEmptied.slotsFreed_slot
  generalize s.regsEmptied.slotsFreed = w at hrat harb hlrb hslot ⊢
  have hclaims : (w.blocksReset req).arb.claims = s.regsEmptied.arb.claims := by rw [← harb]; rfl
  refine ⟨?_, fun q => ?_, fun q => ?_, fun n => ?_, fun k => ?_, ?_, rfl, ?_, ?_, rfl, rfl⟩
  · rw [State.blocksReset, hrat, hrat']
  · have hlr : (w.blocksReset req).lr q = s.regsEmptied.lr q := by rw [State.lr, State.lr, ← hlrb]; rfl
    rw [hlr, State.regsEmptied_lr]
  · rw [State.claimPending, hclaims]
    exact s.regsEmptied_idle q
  · cases n <;> rfl
  · have hkept : s.regsEmptied.slot k = s.slot k := by rw [State.slot, hsst, State.slot]
    have hblock : (w.blocksReset req).slot k = w.slot k := rfl
    rw [hblock, hslot, hkept]
  · rw [← hcircuit, ← harb]
    rfl
  · rw [hclaims]
    exact fun c hc => ⟨(State.mem_regsEmptied.1 hc).2.1, (State.mem_regsEmptied.1 hc).2.2.1⟩
  · rw [hclaims]
    exact fun c hc hstream hhost hreg => State.mem_regsEmptied.2 ⟨hc, hstream, hhost, hreg⟩

theorem State.resetTo.setMode (h : s.resetTo u req) : s.resetTo (u.setMode .auto) req := by
  obtain ⟨-, -, -, -, -, -, -, -, -, hlrb, hste, hsst, hrqe, -⟩ := u.setMode_frame .auto
  obtain ⟨hrat, -, hntu⟩ := u.setMode_auto_frame
  obtain ⟨hcircuit, hpreferred, cs, hcs, hof⟩ := State.refreshRaised.setMode (s := u)
  refine ⟨hrat.trans h.rat, fun q => ?_, fun q => ?_, fun n => ?_, fun k => ?_, hcircuit.trans h.circuit,
    hpreferred.trans h.preferred, fun c hc => ?_, fun c hc hstream hhost hreg => ?_, hrqe.trans h.rqe,
    hntu.trans h.ntu⟩
  · rw [State.lr, hlrb]
    exact h.lr q
  · refine List.any_eq_false.2 fun c hc hcq => ?_
    rw [hcs] at hc
    obtain hc | hc := List.mem_append.1 hc
    · exact List.any_eq_false.1 (h.idle q) c hc hcq
    · simp [Claim.isOf, Claim.register?, (hof c hc).1] at hcq
  · rw [State.str, hste]
    exact h.str n
  · rw [State.slot, hsst]
    exact h.slot k
  · rw [hcs] at hc
    obtain hc | hc := List.mem_append.1 hc
    · exact h.claims c hc
    · obtain e | e := (hof c hc).2 <;> simp [e]
  · rw [hcs]
    exact List.mem_append_left _ (h.kept c hc hstream hhost hreg)

theorem State.resetRequest_resetTo (s : State) (req : Request) : s.resetTo (s.resetRequest req) req :=
  (s.blocksReset_resetTo req).setMode

/-- A RESET in HOSTED mode claims an URGENT refresh for each row past 7.0 ms (R28, R174). -/
theorem State.resetRequest_urgent (hmode : s.rfe.mode = .hosted) (hrow : row ∈ s.agedRows) :
    (s.resetRequest req).holdsClaim (fun c => c.cls == .urgent && c.row == row) = true := by
  have hreset := s.blocksReset_resetTo req
  obtain ⟨-, hclock, -, -, -, hrfe, -⟩ := s.regsEmptied.slotsFreed_frame
  obtain ⟨-, -, hrfe', hclock', -⟩ := s.regsEmptied_frame
  rw [State.resetRequest_eq]
  generalize hb : s.regsEmptied.slotsFreed.blocksReset req = b at hreset
  have hbrfe : b.rfe = s.rfe := by rw [← hb, ← hrfe', ← hrfe]; rfl
  have hbclock : b.clock = s.clock := by rw [← hb, ← hclock', ← hclock]; rfl
  have hbrow : b.row row = s.row row := by rw [State.row, hreset.rat, State.row]
  have hauto : b.setMode .auto = b.toAuto := by
    rw [State.setMode, if_neg (by rw [hbrfe, hmode]; simp)]
  rw [hauto]
  refine State.toAuto_holds (State.mem_agedRows.2 ?_)
  rw [hbrfe, hbclock, hbrow]
  obtain ⟨hmem, hage, hscrub, hflight⟩ := State.mem_agedRows.1 hrow
  refine ⟨hmem, hage, hscrub, fun op hop => ?_⟩
  rw [State.regsKept.inFlight_of_abandoned hreset.circuit, Option.map_eq_some_iff] at hop
  obtain ⟨op, hop, rfl⟩ := hop
  exact hflight op hop

theorem State.resetRequest_rfe (s : State) (req : Request) :
    (s.resetRequest req).rfe = { s.rfe with mode := .auto } := by
  obtain ⟨-, -, -, -, -, hrfe, -⟩ := s.regsEmptied.slotsFreed_frame
  obtain ⟨-, -, hrfe', -⟩ := s.regsEmptied_frame
  rw [State.resetRequest_eq]
  obtain ⟨-, -, -, -, -, -, -, -, hset, -⟩ := (s.regsEmptied.slotsFreed.blocksReset req).setMode_frame .auto
  rw [hset, ← hrfe', ← hrfe]
  rfl

theorem State.resetRequest_hlc (s : State) (req : Request) : (s.resetRequest req).hlc = { s.hlc with
    outq := [.reply req.tag (if req.payload = [] then .ok else .badPayload) 0 []], attn := true } := by
  obtain ⟨-, -, -, -, -, -, -, -, -, -, hhlc, -⟩ := s.regsEmptied.slotsFreed_frame
  have hhlc' : s.regsEmptied.hlc = s.hlc := by simp [State.regsEmptied, State.withdraw]
  rw [State.resetRequest_eq, ((s.regsEmptied.slotsFreed.blocksReset req).setMode_auto_frame).2.1, ← hhlc', ← hhlc]
  rfl

/-! ## The arbiter after a RESET -/

theorem State.settle_preferred (h : ∀ c ∈ s.arb.claims, c.cls ≠ .stream) :
    s.settle.arb.preferred = s.arb.preferred := by
  obtain e | ⟨-, e | ⟨c, hc, e⟩⟩ := s.settle_cases <;> rw [e]
  · exact s.closeHeld_preferred
  · have hgrant : (s.closeHeld.grant c).arb.preferred = s.closeHeld.arb.preferred := by
      simp only [State.grant]
      cases c.register? <;> simp [h c hc]
    rw [hgrant, State.closeHeld_preferred]

theorem State.linkOnly.resetTo {v : State} (hl : s.linkOnly u) (h : u.resetTo v req) : s.resetTo v req := by
  obtain ⟨_, _, rfl⟩ := hl
  exact ⟨h.rat, h.lr, h.idle, h.str, h.slot, h.circuit, h.preferred, h.claims, h.kept, h.rqe, h.ntu⟩

theorem State.resetTo.link (h : s.resetTo u req) (l : HostLink) : s.resetTo { u with hlc := l } req :=
  ⟨h.rat, h.lr, h.idle, h.str, h.slot, h.circuit, h.preferred, h.claims, h.kept, h.rqe, h.ntu⟩

section Settled

variable (h : s.resetTo u req)
include h

theorem State.resetTo.cellsKept : s.cellsKept u.settle := fun row col => by
  rw [u.settle_actedOn.rat, h.rat]

theorem State.resetTo.blank (n : StreamId) : (u.settle.str n).blank := by
  rw [u.settle_actedOn.str, h.str]
  exact ⟨rfl, rfl, rfl, rfl, rfl, rfl, rfl, rfl, rfl, rfl, rfl, rfl, rfl, rfl, rfl, rfl⟩

theorem State.resetTo.emptied (q : LrId) : s.emptied u.settle q := by
  rw [State.emptied, u.settle_actedOn.idle (h.idle q), h.lr]

theorem State.resetTo.slotFreed (k : SlotId) :
    u.settle.slot k = { s.slot k with inUse := false, state := .parked, idleTimer := none } := by
  have hparked := State.settle_parked (s := u) (k := k) (by rw [h.slot])
  have hslot := u.settle_slot k
  rw [hparked, h.slot] at hslot
  exact hslot

theorem State.resetTo.settled_circuit (hc : s.arb.circuit.abandoned ≠ .free)
    (hh : ∀ k row, s.arb.circuit.abandoned ≠ .held k row) : u.settle.arb.circuit = s.arb.circuit.abandoned := by
  rw [State.settle_busy _ (by rwa [h.circuit]) (by rwa [h.circuit]), h.circuit]

theorem State.resetTo.arbiter : u.settle.arb.preferred = .s0
    ∧ (∀ c ∈ u.settle.arb.claims, c.cls ≠ .stream ∧ c.cls ≠ .host)
    ∧ (∀ c ∈ s.arb.claims, c.cls ≠ .stream → c.cls ≠ .host → c.register? = none → u.settle.hasClaim c)
    ∧ (∀ op, s.inFlight = some op →
        u.settle.inFlight = some { op with discarded := op.discarded || op.claim.cls == .host })
    ∧ (∀ slot row job start, s.arb.circuit = .bursting slot row job start →
        u.settle.arb.circuit = .bursting none row job start)
    ∧ (∀ k row, u.settle.arb.circuit ≠ .held k row)
    ∧ ∀ start, s.arb.circuit = .warmup start → u.settle.arb.circuit = .warmup start := by
  refine ⟨?_, fun c hc => h.claims c (State.settle_claims_subset _ hc), fun c hc hstream hhost hreg => ?_,
    fun op hop => ?_, fun slot row job start hcirc => ?_, fun k row => ?_, fun start hcirc => ?_⟩
  · rw [State.settle_preferred fun c hc => (h.claims c hc).1, h.preferred]
  · exact (State.settle_hasClaim _ _).2 (State.hasClaim_of_mem _ (h.kept c hc hstream hhost hreg))
  · rw [State.inFlight_eq_some] at hop ⊢
    rw [h.settled_circuit (by simp [hop, Circuit.abandoned]) (by simp [hop, Circuit.abandoned]), hop]
    rfl
  · rw [h.settled_circuit (by simp [hcirc, Circuit.abandoned]) (by simp [hcirc, Circuit.abandoned]), hcirc]
    rfl
  · refine State.settle_not_held _ (fun k row => ?_) k row
    rw [h.circuit]
    cases s.arb.circuit <;> simp [Circuit.abandoned]
  · rw [h.settled_circuit (by simp [hcirc, Circuit.abandoned]) (by simp [hcirc, Circuit.abandoned]), hcirc]
    rfl

end Settled

/-! ## The obligation -/

theorem State.removeSent_linkOnly (s : State) (x : Transaction) (n : Nat) : s.linkOnly (s.removeSent x n) := by
  unfold State.removeSent
  split
  · split
    · exact ⟨_, _, rfl⟩
    · exact ⟨_, _, rfl⟩
    · exact ⟨_, _, rfl⟩
    · split <;> exact ⟨_, _, rfl⟩
  · exact ⟨_, _, rfl⟩

theorem State.removeSent_tags (s : State) (x : Transaction) (n : Nat) :
    (s.removeSent x n).rqe.tags = s.tagsAfter x n := by
  rw [State.removeSent, State.tagsAfter, Transaction.sentWhole]
  cases x.queued && decide (x.frame.length ≤ n) with
  | false => cases s.hlc.outq with
    | nil => rfl
    | cons f rest => cases f <;> rfl
  | true =>
    rw [if_pos rfl]
    cases s.hlc.outq with
    | nil => rfl
    | cons f rest =>
      cases f with
      | reply tag status flags data => rfl
      | notice x => rfl
      | lossMarker count added =>
        dsimp only
        split <;> rfl

theorem State.admitFrame_reset (h : admissionOf s.rqe.tags bytes = .accepted) (hreset : bytes.getD 3 0 = 0x04) :
    s.admitFrame bytes = s.resetRequest ⟨bytes.getD 2 0, .reset, (bytes.drop 4).take (bytes.getD 1 0).toNat⟩ := by
  obtain ⟨k, hk, hparse⟩ := parseInbound_of_accepted h
  obtain rfl := RequestKind.eq_reset_iff.2 (hk.trans hreset)
  simp only [State.admitFrame, hparse]
  rw [if_pos (by rwa [State.admission_eq]), if_pos trivial]

/-- An accepted frame has its whole payload (R149, R151). -/
theorem payload_of_accepted {tags : List Byte} (h : admissionOf tags bytes = .accepted) :
    (bytes.drop 4).take (bytes.getD 1 0).toNat = [] ↔ bytes.getD 1 0 = 0 := by
  rw [admissionOf] at h
  split_ifs at h with hsync hlen
  have hzero : bytes.getD 1 0 = 0 ↔ (bytes.getD 1 0).toNat = 0 := (BitVec.toNat_inj (y := 0)).symm
  rw [← List.length_eq_zero_iff, List.length_take, List.length_drop, hzero]
  omega

/-- Settles O27: RESET leaves the array and its retention, and every other block at its defaults. -/
theorem resetKeepsArrayAndRetention : Obligations.ResetKeepsArrayAndRetention := by
  intro s dt bits x hlive htxn bytes haccepted hkind
  refine completes_of_run s (i := .transactionEnd dt bits) rfl ?_
  simp only [Instr.run, Instr.elapsed]
  have hlink := (s.advance dt).removeSent_linkOnly x bytes.length
  have htags : admissionOf ((s.advance dt).removeSent x bytes.length).rqe.tags bytes = .accepted := by
    rw [State.removeSent_tags]
    exact haccepted
  rw [transactionEnd_of (s := s.advance dt) bits hlive htxn, State.endTransaction]
  generalize (s.advance dt).removeSent x bytes.length = u at hlink htags ⊢
  have hadmission : u.admission bytes = .accepted := by rw [State.admission_eq, htags]
  dsimp only
  rw [hadmission, State.admitFrame_reset htags hkind]
  generalize hreq : (⟨bytes.getD 2 0, .reset, (bytes.drop 4).take (bytes.getD 1 0).toNat⟩ : Request) = req
  have hframe : (u.resetRequest req).hlc.outq =
        [.reply (bytes.getD 2 0) (if bytes.getD 1 0 = 0 then .ok else .badPayload) 0 []]
      ∧ (u.resetRequest req).hlc.attn = true := by
    rw [State.resetRequest_hlc, ← hreq]
    simp only [payload_of_accepted htags]
    trivial
  have hreset := hlink.resetTo (u.resetRequest_resetTo req)
  have hurgent : s.rfe.mode = .hosted → ∀ row ∈ (s.advance dt).agedRows,
      (u.resetRequest req).holdsClaim (fun c => c.cls == .urgent && c.row == row) = true := fun hmode row hrow => by
    obtain ⟨_, _, rfl⟩ := hlink
    exact State.resetRequest_urgent hmode hrow
  have hrfe : (u.resetRequest req).rfe = { s.rfe with mode := .auto } := by
    obtain ⟨_, _, rfl⟩ := hlink
    exact State.resetRequest_rfe _ _
  generalize u.resetRequest req = v at hframe hreset hurgent hrfe ⊢
  obtain ⟨houtq, hattn⟩ := hframe
  generalize hl : ({ v.hlc with hcsHigh := true, txn := _, admTag := _, admResult := _, lastSent := _ } : HostLink) = l
  have hlinked := hreset.link l
  have hacted := State.settle_actedOn { v with hlc := l }
  have hhlc : (State.settle { v with hlc := l }).hlc = l := by simp
  have hrqe : (State.settle { v with hlc := l }).rqe = ⟨[], [bytes.getD 2 0], .free⟩ := by
    simp [hreset.rqe, ← hreq]
  refine ⟨⟨hacted.rat.trans hreset.rat, hlinked.cellsKept, hacted.rfe.trans hrfe⟩, ⟨hrqe, ?_⟩, ?_,
    hlinked.blank, hlinked.emptied, hlinked.slotFreed, hlinked.arbiter, fun row hrow hmode hage hscrub hflight => ?_⟩
  · have hsync : bytes.head? = some 0xC3 := by
      rw [admissionOf] at haccepted
      by_contra hne
      rw [if_pos hne] at haccepted
      cases haccepted
    rw [hhlc, ← hl]
    exact ⟨houtq, hattn, rfl, rfl, (receivedTag_eq bytes).trans (if_pos hsync), rfl⟩
  · rw [hacted.ntu, hreset.ntu]
    exact ⟨rfl, rfl⟩
  · rw [State.settle_holdsClaim]
    exact hurgent hmode row (State.mem_agedRows.2 ⟨hrow, hage, hscrub, hflight⟩)

end Sys2Proof.Machine
end

section
/-! PROOF. CONFIGURE: the settings taken, the change of mode, the reply (R22, R26-R28, R172; log entries 17, 18). -/

namespace Sys2Proof.Machine

variable {s t u : State} {f : ConfigureFields} {mode : RefreshMode} {tag : Byte} {payload : List Byte}
  {rest : List Request} {row : Nat} (dt : Nat) (tie : TieOrder)

/-! ## The fields taken (R172) -/

/-- The mask and the loss fill value that a CONFIGURE presents, as they then stand (R172). -/
def State.presented (s : State) (f : ConfigureFields) : State :=
  { s with
    ntu := { s.ntu with mask := (f.mask.getD (s.ntu.mask.setWidth 16)).setWidth 10 }
    rat := { s.rat with lossFill := f.lossFill.getD s.rat.lossFill } }

theorem State.setMode_same (h : s.rfe.mode = mode) : s.setMode mode = s :=
  if_pos h

theorem State.applySettings_eq
    (hmode : f.mode.bind RefreshMode.ofCode = some mode
      ∨ f.mode.bind RefreshMode.ofCode = none ∧ mode = s.rfe.mode) :
    s.applySettings (f.mode.bind RefreshMode.ofCode) f.lossFill f.mask = (s.presented f).setMode mode := by
  have hwidth : (s.ntu.mask.setWidth 16).setWidth 10 = s.ntu.mask := by
    rw [BitVec.setWidth_setWidth_of_le _ (by omega), BitVec.setWidth_eq]
  have hkept : s.applySettings none f.lossFill f.mask = s.presented f := by
    unfold State.applySettings State.presented
    cases f.mask <;> cases f.lossFill <;> simp [hwidth]
  obtain h | ⟨h, rfl⟩ := hmode
  · have happly : s.applySettings (some mode) f.lossFill f.mask =
        (s.applySettings none f.lossFill f.mask).setMode mode := rfl
    rw [h, happly, hkept]
  · rw [h, hkept]
    exact (State.setMode_same (s := s.presented f) rfl).symm

/-- The three settings, as reported (R172, R178). -/
theorem State.settingsData_presented (s : State) (f : ConfigureFields) (mode : RefreshMode) :
    ((s.presented f).setMode mode).settingsData = mode.code :: cellBytes (f.lossFill.getD s.rat.lossFill)
      ++ cellBytes (((f.mask.getD (s.ntu.mask.setWidth 16)).setWidth 10).setWidth 16) := by
  obtain ⟨-, -, -, -, -, -, hfill, -, hrfe, -, -, -, -, hmask⟩ := (s.presented f).setMode_frame mode
  rw [State.settingsData, hrfe, hfill, hmask]
  rfl

/-! ## A change to HOSTED (R27; log entry 18) -/

/-- The rows that a change to HOSTED reports. -/
def State.inheritedRows (s : State) : List Nat :=
  s.agedRows.filter s.inherited

theorem State.mem_inheritedRows : row ∈ s.inheritedRows ↔
    row ∈ s.agedRows ∧ ((s.row row).crossed = true ∨ 7000000 < s.clock - (s.row row).completedAt) := by
  rw [State.inheritedRows, List.mem_filter, State.inherited, Bool.or_eq_true, decide_eq_true_eq]
  rfl

theorem State.toldAs.foldReport (h : s.toldAs u) (rows : List Nat) :
    (rows.foldl (fun w row => w.report (.rowAging row)) s).toldAs
      (rows.foldl (fun w row => (w.markCrossed row).report (.rowAging row)) u) := by
  induction rows generalizing s u with
  | nil => exact h
  | cons row rows ih => exact ih (State.toldAs.report (t := u.markCrossed row) h _)

theorem State.toHosted_told (h : s.toldAs u) :
    (u.inheritedRows.foldl (fun w row => w.report (.rowAging row)) s).toldAs u.toHosted :=
  State.toldAs.foldReport (u := State.withdraw { u with rfe := { u.rfe with mode := .hosted } }
    fun c => c.cls == .routine || c.cls == .urgent) h u.inheritedRows

/-! ## The obligation -/

theorem configure_of_heads (h : s.heads tag .configure payload rest) (hparse : parseConfigure payload = some f)
    (hmode : f.mode.bind RefreshMode.ofCode = some mode
      ∨ f.mode.bind RefreshMode.ofCode = none ∧ mode = s.rfe.mode) (hin : f.inRange = true) :
    configure tie (s.advance dt) = ((((s.advance dt).presented f).setMode mode).finish .ok 0
      (mode.code :: cellBytes (f.lossFill.getD s.rat.lossFill)
        ++ cellBytes (((f.mask.getD (s.ntu.mask.setWidth 16)).setWidth 10).setWidth 16))).begun tie := by
  simp only [configure, State.beginning_of_heads dt h, hparse]
  rw [if_pos hin, State.applySettings_eq (s := s.advance dt) hmode, State.settingsData_presented]
  rfl

theorem ConfigureFields.inRange_of (hmode : ∀ b, f.mode = some b → (RefreshMode.ofCode b).isSome = true)
    (hmask : ∀ m, f.mask = some m → m.toNat < 1024) : f.inRange = true := by
  refine ConfigureFields.inRange_iff.2 ⟨fun b hb => ?_, hmask⟩
  have := hmode b hb
  rwa [RefreshMode.ofCode_isSome, decide_eq_true_eq] at this

/-- The rows past 7.0 ms at the moment of a CONFIGURE, whatever it presents. -/
theorem State.mem_presented_agedRows : row ∈ ((s.advance dt).presented f).agedRows ↔ row ∈ s.rfe.order
    ∧ 7000000 ≤ s.clock + dt - (s.row row).completedAt ∧ (s.row row).scrubPending = false
    ∧ ∀ op, s.inFlight = some op → op.claim.row ≠ row :=
  State.mem_agedRows

/-- The end of a request answered: the request engine, the outbound queue and the claims. -/
theorem State.answeredRequest {k : RequestKind} (hqueue : u.rqe.queue = ⟨tag, k, payload⟩ :: rest) (data : List Byte) :
    let t := (u.finish .ok 0 data).begun tie
    t.rqe = { u.rqe with queue := rest, phase := .free }
      ∧ t.hlc = { u.hlc with outq := u.hlc.outq ++ [.reply tag .ok 0 data], attn := true }
      ∧ (∀ c ∈ t.arb.claims, c ∈ u.arb.claims) ∧ ∀ p, t.holdsClaim p = u.holdsClaim p := by
  refine ⟨?_, ?_, fun c hc => by simpa using State.begun_claims_subset _ tie hc, fun p => ?_⟩
  · rw [State.finish_spec _ _ _ _ hqueue]
    simp
  · rw [State.finish_spec _ _ _ _ hqueue]
    simp
  · rw [State.begun_holdsClaim, State.holdsClaim_congr (s := u) (by simp)]

/-- Settles O30: the present fields are taken, the mode changed with what that raises or reports, the settings replied. -/
theorem configureAppliesPresentFields : Obligations.ConfigureAppliesPresentFields := by
  intro s dt tie tag payload rest f mode h hparse hmode hmask
  have hbind : f.mode.bind RefreshMode.ofCode = some mode
      ∨ f.mode.bind RefreshMode.ofCode = none ∧ mode = s.rfe.mode := by
    cases hm : f.mode with
    | none =>
      rw [hm] at hmode
      exact .inr ⟨rfl, hmode⟩
    | some b =>
      rw [hm] at hmode
      exact .inl hmode
  have hin : f.inRange = true := ConfigureFields.inRange_of (fun b hb => by
    rw [hb] at hmode
    exact Option.isSome_iff_exists.2 ⟨mode, hmode⟩) hmask
  obtain ⟨-, -, hqueue⟩ := id h
  have hrun : ∀ {φ : State → Prop}, φ (configure tie (s.advance dt)) → Completes (.configure ⟨dt, tie⟩) s φ :=
    fun hφ => completes_of_run s (i := .configure ⟨dt, tie⟩) rfl hφ
  refine hrun ?_
  rw [configure_of_heads dt tie h hparse hbind hin]
  intro fill mask reply aged
  have hwas : ((s.advance dt).presented f).rfe.mode = s.rfe.mode := rfl
  have hptold : State.toldAs { s with ntu := { s.ntu with mask := mask } } ((s.advance dt).presented f) := ⟨rfl, rfl⟩
  obtain ⟨-, -, -, -, hmem, hstate, hfill, -, hrfe, hlrb, hste, hsst, hrqe, hvmask⟩ :=
    ((s.advance dt).presented f).setMode_frame mode
  generalize hv : ((s.advance dt).presented f).setMode mode = v at *
  have hacted := State.answered_actedOn v tie .ok 0 (mode.code :: cellBytes fill ++ cellBytes (mask.setWidth 16))
  obtain ⟨htrqe, hthlc, hsub, hholds⟩ := State.answeredRequest (u := v) tie (by rw [hrqe]; exact hqueue)
    (mode.code :: cellBytes fill ++ cellBytes (mask.setWidth 16))
  generalize (v.finish .ok 0 (mode.code :: cellBytes fill ++ cellBytes (mask.setWidth 16))).begun tie = t at *
  rw [hrqe] at htrqe
  refine ⟨⟨hacted.rfe.trans hrfe, ?_, ?_, ?_, htrqe, by rw [hthlc]; simp [reply], by rw [hthlc], fun row col => ?_,
    hacted.registersKept fun q => ?_, fun k => ?_, hacted.ste.trans hste⟩, fun hsame => ?_, fun hauto hhosted => ?_,
    fun hhosted hauto => ?_⟩
  · rw [hacted.rat, hfill]
    rfl
  · rw [hacted.rat, hstate]
    rfl
  · rw [hacted.ntu, hvmask]
    rfl
  · rw [hacted.rat, hmem]
    rfl
  · rw [State.lr, hlrb]
    rfl
  · have hslot : v.slot k = s.slot k := by
      rw [State.slot, hsst]
      rfl
    rw [← hslot]
    exact hacted.slots k
  · have hsettings : v = (s.advance dt).presented f := by rw [← hv, State.setMode_same (hwas.trans hsame.symm)]
    rw [hsettings] at hthlc hacted
    exact ⟨⟨htrqe, hthlc⟩, by rw [hacted.ntu]; rfl, by rw [hacted.rat]; rfl,
      fun c hc => (hacted.claims c).1 hc⟩
  · have hsettings : v = ((s.advance dt).presented f).toHosted := by
      rw [← hv, hhosted]
      exact if_neg (by rw [hwas, hauto]; simp)
    obtain ⟨hreported, hcounted⟩ : State.toldAs _ v := hsettings ▸ State.toHosted_told hptold
    refine ⟨fun c hc => ?_, ((s.advance dt).presented f).inheritedRows,
      List.filter_sublist.trans List.filter_sublist, fun row => ?_, hthlc.trans (by rw [hreported]),
      hacted.ntu.trans hcounted⟩
    · obtain ⟨-, -, -, -, -, -, -, -, -, harb, -⟩ := ((s.advance dt).presented f).toHosted_frame
      have hpending := hsub c hc
      rw [hsettings, harb] at hpending
      simpa using (List.mem_filter.1 hpending).2
    · exact State.mem_inheritedRows.trans ((and_congr_left' (State.mem_presented_agedRows dt)).trans and_assoc)
  · have hsettings : v = ((s.advance dt).presented f).toAuto := by
      rw [← hv, hauto]
      exact if_neg (by rw [hwas, hhosted]; simp)
    obtain ⟨-, -, -, -, -, -, -, -, -, -, hvhlc, hvntu⟩ := ((s.advance dt).presented f).toAuto_frame
    rw [hsettings] at hthlc hacted hholds
    rw [hvhlc] at hthlc
    refine ⟨congrArg HostLink.outq hthlc, by rw [hacted.ntu, hvntu]; rfl, fun row hrow hage => ?_⟩
    rw [hholds]
    exact State.toAuto_holds ((State.mem_presented_agedRows dt).2 ⟨hrow, hage⟩)

end Sys2Proof.Machine
end
